-- ==== Sys2Proof/Word.lean ====
section
/-! DEFINITION. The word types of the machine and their plainest arithmetic (spec/00_scope.md R1, spec/04_reg_arith.md R108, R110). -/

namespace Sys2Proof

/-- One byte of memory. -/
abbrev Byte := BitVec 8

/-- A 64-bit scalar register value (R77). -/
abbrev Word := BitVec 64

/-- The device's internal 36-bit float (R108). -/
abbrev W36 := BitVec 36

/-- The array's 18-bit lane format (R110). -/
abbrev L18 := BitVec 18

/-- A TCC instruction word (R42). -/
abbrev IWord := BitVec 32

end Sys2Proof
end

