-- ==== Sys2Proof/Machine/Map.lean ====
section
/-! DEFINITION. Sparse maps from numbers to values, as plain sorted lists: the form in which State holds files of like
things (slots, tiles, registers of cells, planes). An absent key reads as the default that the reader names. -/

namespace Sys2Proof.Machine

/-- A sparse map: pairs in strictly rising order of key. -/
abbrev AMap (α : Type) := List (Nat × α)

/-- The value at a key, if one is listed. -/
def AMap.look {α : Type} : AMap α → Nat → Option α
  | [], _ => none
  | (j, v) :: t, k => if j = k then some v else AMap.look t k

/-- The value at a key, or the default d. -/
def AMap.at {α : Type} (m : AMap α) (k : Nat) (d : α) : α := (m.look k).getD d

/-- The map with v at key k. -/
def AMap.put {α : Type} : AMap α → Nat → α → AMap α
  | [], k, v => [(k, v)]
  | (j, w) :: t, k, v =>
    if k < j then (k, v) :: (j, w) :: t
    else if k = j then (k, v) :: t
    else (j, w) :: AMap.put t k v

/-- The map without key k. -/
def AMap.del {α : Type} : AMap α → Nat → AMap α
  | [], _ => []
  | (j, w) :: t, k => if j = k then t else (j, w) :: AMap.del t k

/-- The map with the value at k changed by f, starting from the default d. -/
def AMap.upd {α : Type} (m : AMap α) (k : Nat) (d : α) (f : α → α) : AMap α := m.put k (f (m.at k d))

/-- The listed values, in order of key. -/
def AMap.vals {α : Type} (m : AMap α) : List α := m.map Prod.snd

/-- The listed keys, in order. -/
def AMap.keys {α : Type} (m : AMap α) : List Nat := m.map Prod.fst

/-- Every listed value changed by f. -/
def AMap.mapVals {α β : Type} (f : α → β) (m : AMap α) : AMap β := m.map fun p => (p.1, f p.2)

/-- A set of numbers as a strictly rising list: insertion. -/
def setAdd : List Nat → Nat → List Nat
  | [], k => [k]
  | j :: t, k => if k < j then k :: j :: t else if k = j then j :: t else j :: setAdd t k

/-- A set of numbers as a strictly rising list: removal. -/
def setDel : List Nat → Nat → List Nat
  | [], _ => []
  | j :: t, k => if j = k then t else j :: setDel t k

/-- The list with entry n changed by f; unchanged when there is no entry n. -/
def updNth {α : Type} : List α → Nat → (α → α) → List α
  | [], _, _ => []
  | x :: t, 0, f => f x :: t
  | x :: t, n + 1, f => x :: updNth t n f

/-- The list without entry n. -/
def delNth {α : Type} : List α → Nat → List α
  | [], _ => []
  | _ :: t, 0 => t
  | x :: t, n + 1 => x :: delNth t n

/-- The place of the first entry that satisfies p. -/
def findPlace {α : Type} (p : α → Bool) : List α → Option Nat
  | [] => none
  | x :: t => if p x then some 0 else (findPlace p t).map (· + 1)

/-- The first n entries, padded with d. -/
def takePad {α : Type} (d : α) : Nat → List α → List α
  | 0, _ => []
  | n + 1, [] => d :: takePad d n []
  | n + 1, x :: t => x :: takePad d n t

end Sys2Proof.Machine
end

