-- ==== Sys2Proof/Machine/Bits.lean ====
section
/-! DEFINITION. Bit-field and integer helpers of the pseudocode (spec/00_scope.md R8; spec/03_reg_core.md R91 to R93). -/

namespace Sys2Proof.Machine

/-- x[hi:lo] of a 64-bit value, as a number. -/
def fld (x : BitVec 64) (hi lo : Nat) : Nat := (x.toNat >>> lo) % 2 ^ (hi + 1 - lo)

/-- Bit i of a 64-bit value. -/
def bitOf (x : BitVec 64) (i : Nat) : Bool := (x.toNat >>> i) % 2 = 1

/-- n[hi:lo] of a number. -/
def nfld (n hi lo : Nat) : Nat := (n >>> lo) % 2 ^ (hi + 1 - lo)

/-- Bit i of a number. -/
def nbit (n i : Nat) : Bool := (n >>> i) % 2 = 1

/-- A truth value as 0 or 1. -/
def bnat (b : Bool) : Nat := if b then 1 else 0

/-- The number with bit i set to b. -/
def nsetBit (n i : Nat) (b : Bool) : Nat :=
  n - bnat (nbit n i) * 2 ^ i + bnat b * 2 ^ i

/-- Place the low w bits of v at bit lo. -/
def place (v lo w : Nat) : Nat := (v % 2 ^ w) * 2 ^ lo

/-- The number of leading zero bits of a 64-bit value; 64 for 0 (R93). -/
def clz64 (x : BitVec 64) : Nat := if x.toNat = 0 then 64 else 63 - x.toNat.log2

/-- The number of trailing zero bits of the low n bits of x; n when all are 0. -/
def ctzFrom : Nat → Nat → Nat
  | 0, _ => 0
  | n + 1, x => if x % 2 = 1 then 0 else 1 + ctzFrom n (x / 2)

/-- The number of trailing zero bits of a 64-bit value; 64 for 0 (R93). -/
def ctz64 (x : BitVec 64) : Nat := ctzFrom 64 x.toNat

/-- The number of one bits among the low n bits of x. -/
def popFrom : Nat → Nat → Nat
  | 0, _ => 0
  | n + 1, x => x % 2 + popFrom n (x / 2)

/-- The number of one bits of a 64-bit value (R93). -/
def popc64 (x : BitVec 64) : Nat := popFrom 64 x.toNat

/-- The low n bits of x in reverse order. -/
def revFrom : Nat → Nat → Nat → Nat
  | 0, _, acc => acc
  | n + 1, x, acc => revFrom n (x / 2) (acc * 2 + x % 2)

/-- The bits of a 64-bit value in reverse order (R93). -/
def brev64 (x : BitVec 64) : BitVec 64 := BitVec.ofNat 64 (revFrom 64 x.toNat 0)

/-- The low n bytes of x in reverse order. -/
def bswapFrom : Nat → Nat → Nat → Nat
  | 0, _, acc => acc
  | n + 1, x, acc => bswapFrom n (x / 256) (acc * 256 + x % 256)

/-- The bytes of a 64-bit value in reverse order (R93). -/
def bswap64 (x : BitVec 64) : BitVec 64 := BitVec.ofNat 64 (bswapFrom 8 x.toNat 0)

/-- The low w bits of n read as a signed number. -/
def sgn (w n : Nat) : Int :=
  let m := n % 2 ^ w
  if w = 0 then 0 else if m < 2 ^ (w - 1) then (m : Int) else (m : Int) - (2 ^ w : Nat)

/-- A signed number as w bits, modulo 2^w. -/
def wrapInt (w : Nat) (i : Int) : Nat := (i % ((2 ^ w : Nat) : Int)).toNat

/-- The value limited to lo .. hi. -/
def clampInt (lo hi i : Int) : Int := if i < lo then lo else if hi < i then hi else i

/-- The little-endian bytes of a number (R1). -/
def toBytes : Nat → Nat → List Byte
  | 0, _ => []
  | n + 1, x => BitVec.ofNat 8 x :: toBytes n (x / 256)

/-- The number that little-endian bytes hold (R1). -/
def ofBytes : List Byte → Nat
  | [] => 0
  | b :: t => b.toNat + 256 * ofBytes t

/-- The number of bits needed for n: 0 for 0. -/
def bitLen (n : Nat) : Nat := if n = 0 then 0 else n.log2 + 1

/-- Is n a multiple of d (and d not 0). -/
def isMult (n d : Nat) : Bool := n % d == 0

/-- The quotient rounded up. -/
def ceilDiv (a b : Nat) : Nat := (a + b - 1) / b

end Sys2Proof.Machine
end

