-- ==== Sys2Proof/Machine/Float.lean ====
section
/-! DEFINITION. W36 and L18: classes, exact values, rounding, NaN selection and the arithmetic that the TCC, the collar cells and
the array share (spec/04_reg_arith.md R108 to R119, R126 to R128, R130, R132; spec/10_q_collar.md R293). -/

namespace Sys2Proof.Machine

/-- The rounding modes (R112). -/
inductive RMode where
  | rne | rtz | rdn | rup
deriving DecidableEq, Repr

/-- RM of FCVT (R50). -/
def RMode.ofCode (c : Nat) : RMode :=
  if c = 0 then .rne else if c = 1 then .rtz else if c = 2 then .rdn else .rup

/-- The five flags NV DZ OF UF NX, from bit 4 to bit 0 (R119). -/
abbrev Flags := BitVec 5
/-- No flag. -/
def fNone : Flags := 0#5
/-- Invalid. -/
def fNV : Flags := 16#5
/-- Divide by zero. -/
def fDZ : Flags := 8#5
/-- Overflow. -/
def fOF : Flags := 4#5
/-- Underflow. -/
def fUF : Flags := 2#5
/-- Inexact. -/
def fNX : Flags := 1#5

/-- A finite value with a sign on zero: (-1)^neg * man * 2^exp. -/
structure Dyadic where
  neg : Bool
  man : Nat
  exp : Int
deriving DecidableEq, Repr

/-- What a float word stands for. -/
inductive FVal where
  | nan (signalling : Bool)
  | inf (neg : Bool)
  | fin (d : Dyadic)
deriving DecidableEq, Repr

/-! ## Rounding -/

/-- RoundInt of (q + r / 2^k) where r < 2^k are the bits cut off (R113). -/
def roundCut (q r k : Nat) (rm : RMode) (neg : Bool) : Nat :=
  match rm with
  | .rne => if 2 * r < 2 ^ k then q else if 2 ^ k < 2 * r then q + 1 else q + q % 2
  | .rtz => q
  | .rdn => if neg && r != 0 then q + 1 else q
  | .rup => if !neg && r != 0 then q + 1 else q

/-- RoundInt of man * 2^exp on the grid 2^g: the number of grid steps (R113). -/
def roundGrid (man : Nat) (exp g : Int) (rm : RMode) (neg : Bool) : Nat :=
  if g ≤ exp then man <<< (exp - g).toNat
  else
    let k := (g - exp).toNat
    roundCut (man >>> k) (man % 2 ^ k) k rm neg

/-- Is man * 2^exp a multiple of 2^g. -/
def onGrid (man : Nat) (exp g : Int) : Bool := g ≤ exp || man % 2 ^ (g - exp).toNat == 0

/-- RoundInt of the absolute value, to an integer (R113, R130). -/
def Dyadic.roundInt (d : Dyadic) (rm : RMode) : Nat := roundGrid d.man d.exp 0 rm d.neg

/-- Is the value an integer. -/
def Dyadic.isInt (d : Dyadic) : Bool := onGrid d.man d.exp 0

/-- The signed integer nearest by the mode. -/
def Dyadic.toInt (d : Dyadic) (rm : RMode) : Int :=
  if d.neg then -(d.roundInt rm : Int) else (d.roundInt rm : Int)

/-- floor(log2) of a nonzero value's magnitude. -/
def Dyadic.log2 (d : Dyadic) : Int := (d.man.log2 : Int) + d.exp

/-- The outcome of RoundFloat: a value of the format, and the flags (R113). -/
structure Rounded where
  val : FVal
  fl  : Flags
deriving DecidableEq, Repr

/-- OverflowValue (R114). -/
def overflowValue (neg : Bool) (p : Nat) (emax : Int) (rm : RMode) : FVal :=
  let top : FVal := .fin ⟨neg, 2 ^ p - 1, emax - (p : Int) + 1⟩
  match rm with
  | .rne => .inf neg
  | .rtz => top
  | .rdn => if neg then .inf neg else top
  | .rup => if neg then top else .inf neg

/-- RoundFloat (R113). -/
def roundFloat (d : Dyadic) (p : Nat) (emin emax : Int) (rm : RMode) (flush : Bool) : Rounded :=
  if d.man = 0 then ⟨.fin ⟨d.neg, 0, 0⟩, fNone⟩
  else
    let k := d.log2
    let g := k - (p : Int) + 1
    let n := roundGrid d.man d.exp g rm d.neg
    let gt := emax - (p : Int) + 1
    -- t > max: n * 2^g > (2^p - 1) * 2^gt
    let ovf := if gt ≤ g then decide (2 ^ p - 1 < n <<< (g - gt).toNat) else false
    if ovf then ⟨overflowValue d.neg p emax rm, fOF ||| fNX⟩
    else
      -- t < 2^emin, n being at most 2^p
      let tiny := decide (g + (n.log2 : Int) < emin)
      if flush then
        if tiny then ⟨.fin ⟨d.neg, 0, 0⟩, fUF ||| fNX⟩
        else ⟨.fin ⟨d.neg, n, g⟩, if onGrid d.man d.exp g then fNone else fNX⟩
      else
        let e := if k < emin then emin else k
        let h := e - (p : Int) + 1
        let r := roundGrid d.man d.exp h rm d.neg
        let exact := onGrid d.man d.exp h
        let f := if exact then fNone else fNX
        ⟨.fin ⟨d.neg, r, h⟩, if tiny && !exact then f ||| fUF else f⟩

/-- The word of a value that lies on the format's grid: sign, eb exponent bits, mb fraction bits (R108, R110, R189). -/
def packFloat (eb mb : Nat) (emin bias : Int) (neg : Bool) (man : Nat) (exp : Int) : Nat :=
  let s := bnat neg * 2 ^ (eb + mb)
  if man = 0 then s
  else
    let k := (man.log2 : Int) + exp
    if k < emin then
      let q := exp - (emin - (mb : Int))
      s + (if 0 ≤ q then man <<< q.toNat else man >>> (-q).toNat)
    else
      let l := man.log2
      let m := if l ≤ mb then man <<< (mb - l) else man >>> (l - mb)
      s + (k + bias).toNat * 2 ^ mb + m % 2 ^ mb

/-! ## W36 -/

/-- The canonical NaN (R108). -/
def w36NaN : W36 := 0x7FF800000#36
/-- The NaN that a decoded NaR becomes (R108). -/
def w36NaR : W36 := 0x7FF800001#36
/-- Infinity of a sign. -/
def w36Inf (neg : Bool) : W36 := if neg then 0xFFF000000#36 else 0x7FF000000#36
/-- Zero of a sign. -/
def w36Zero (neg : Bool) : W36 := if neg then 0x800000000#36 else 0#36

/-- The sign bit. -/
def w36Sign (w : W36) : Bool := w.toNat / 2 ^ 35 = 1
/-- The exponent field. -/
def w36Exp (w : W36) : Nat := w.toNat / 2 ^ 24 % 2 ^ 11
/-- The fraction field. -/
def w36Frac (w : W36) : Nat := w.toNat % 2 ^ 24

/-- The class and value of a W36 word (R108). -/
def w36Val (w : W36) : FVal :=
  let e := w36Exp w
  let f := w36Frac w
  let s := w36Sign w
  if e = 2047 then (if f = 0 then .inf s else .nan (decide (f < 2 ^ 23)))
  else if e = 0 then .fin ⟨s, f, -1046⟩
  else .fin ⟨s, f + 2 ^ 24, (e : Int) - 1047⟩

/-- Is the word a NaN. -/
def w36IsNaN (w : W36) : Bool := match w36Val w with | .nan _ => true | _ => false
/-- Is the word a signalling NaN. -/
def w36IsSNaN (w : W36) : Bool := match w36Val w with | .nan b => b | _ => false
/-- Is the word an infinity. -/
def w36IsInf (w : W36) : Bool := match w36Val w with | .inf _ => true | _ => false
/-- Is the word a zero. -/
def w36IsZero (w : W36) : Bool := w.toNat % 2 ^ 35 = 0
/-- A NaN quieted (R117). -/
def w36Quiet (w : W36) : W36 := w ||| 0x000800000#36
/-- The word with its sign inverted. -/
def w36Flip (w : W36) : W36 := w ^^^ 0x800000000#36

/-- W36Bits of a rounded value (R108). -/
def w36Bits : FVal → W36
  | .nan _ => w36NaN
  | .inf s => w36Inf s
  | .fin d => BitVec.ofNat 36 (packFloat 11 24 (-1022) 1023 d.neg d.man d.exp)

/-- RoundW36 (R115). -/
def roundW36 (d : Dyadic) (rm : RMode) : W36 × Flags :=
  let r := roundFloat d 25 (-1022) 1023 rm false
  (w36Bits r.val, r.fl)

/-- NaNSelect (R117): the first NaN quieted, and NV when any operand is signalling. -/
def nanSelect (ops : List W36) : Option (W36 × Flags) :=
  match ops.find? w36IsNaN with
  | none => none
  | some w => some (w36Quiet w, if ops.any w36IsSNaN then fNV else fNone)

/-- The exact sum of two finite values; a zero sum is - only when both addends are -0 (R115). -/
def Dyadic.add (x y : Dyadic) : Dyadic :=
  let e := min x.exp y.exp
  let a : Int := ((x.man <<< (x.exp - e).toNat : Nat) : Int)
  let b : Int := ((y.man <<< (y.exp - e).toNat : Nat) : Int)
  let v := (if x.neg then -a else a) + (if y.neg then -b else b)
  if v = 0 then ⟨x.man == 0 && y.man == 0 && x.neg && y.neg, 0, 0⟩
  else ⟨decide (v < 0), v.natAbs, e⟩

/-- The exact product of two finite values. -/
def Dyadic.mul (x y : Dyadic) : Dyadic := ⟨x.neg != y.neg, x.man * y.man, x.exp + y.exp⟩

/-- The value with its sign inverted. -/
def Dyadic.flip (x : Dyadic) : Dyadic := ⟨!x.neg, x.man, x.exp⟩

/-- The comparison of two finite values: less, equal or greater (zeros of both signs are equal). -/
def Dyadic.cmp (x y : Dyadic) : Ordering :=
  let e := min x.exp y.exp
  let a : Int := ((x.man <<< (x.exp - e).toNat : Nat) : Int)
  let b : Int := ((y.man <<< (y.exp - e).toNat : Nat) : Int)
  let u := if x.neg then -a else a
  let v := if y.neg then -b else b
  if u < v then .lt else if u = v then .eq else .gt

/-- A quotient of nonzero values with a sticky last bit: enough digits that every rounding of it to 25 bits is right. -/
def Dyadic.quot (x y : Dyadic) : Dyadic :=
  let k := 64 + y.man.log2
  let n := x.man <<< k
  let q := n / y.man
  let r := n % y.man
  ⟨x.neg != y.neg, 2 * q + bnat (r != 0), x.exp - y.exp - (k : Int) - 1⟩

/-- floor(sqrt n), one bit at a time from bit b - 1 of the root down. -/
def isqrtFrom : Nat → Nat → Nat → Nat
  | 0, _, r => r
  | b + 1, n, r => isqrtFrom b n (if (r + 2 ^ b) * (r + 2 ^ b) ≤ n then r + 2 ^ b else r)

/-- floor(sqrt n). -/
def isqrt (n : Nat) : Nat := isqrtFrom (n.log2 / 2 + 1) n 0

/-- A square root with a sticky last bit. -/
def Dyadic.sqrt (x : Dyadic) : Dyadic :=
  let odd := x.exp % 2 = 1
  let m := if odd then 2 * x.man else x.man
  let e := if odd then x.exp - 1 else x.exp
  let n := m <<< 128
  let q := isqrt n
  ⟨false, 2 * q + bnat (q * q != n), e / 2 - 65⟩

/-- The reciprocal of a square root with a sticky last bit. -/
def Dyadic.rsqrt (x : Dyadic) : Dyadic :=
  let odd := x.exp % 2 = 1
  let m := if odd then 2 * x.man else x.man
  let e := if odd then x.exp - 1 else x.exp
  let k := 128 + m.log2
  let n := 2 ^ (2 * k)
  let q := isqrt (n / m)
  ⟨false, 2 * q + bnat (q * q * m != n), -(e / 2) - (k : Int) - 1⟩

/-! ## Operations on words -/

/-- FADD (R126, R127). -/
def w36Add (x y : W36) : W36 × Flags :=
  match nanSelect [x, y] with
  | some r => r
  | none =>
    match w36Val x, w36Val y with
    | .fin a, .fin b => roundW36 (a.add b) .rne
    | .inf s, .inf t => if s = t then (w36Inf s, fNone) else (w36NaN, fNV)
    | .inf s, _ => (w36Inf s, fNone)
    | _, .inf t => (w36Inf t, fNone)
    | _, _ => (w36NaN, fNV)

/-- FSUB: the sum of X and -Y, the NaN operands as read (R117, R126). -/
def w36Sub (x y : W36) : W36 × Flags :=
  match nanSelect [x, y] with
  | some r => r
  | none => w36Add x (w36Flip y)

/-- FMUL (R126, R127). -/
def w36Mul (x y : W36) : W36 × Flags :=
  match nanSelect [x, y] with
  | some r => r
  | none =>
    let s := w36Sign x != w36Sign y
    match w36Val x, w36Val y with
    | .fin a, .fin b => roundW36 (a.mul b) .rne
    | _, _ => if w36IsZero x || w36IsZero y then (w36NaN, fNV) else (w36Inf s, fNone)

/-- FMA: X * Y + Z with one rounding (R118, R126, R127). -/
def w36Fma (x y z : W36) : W36 × Flags :=
  if ((w36IsZero x && w36IsInf y) || (w36IsInf x && w36IsZero y)) && w36IsNaN z then (w36Quiet z, fNV)
  else
    match nanSelect [x, y, z] with
    | some r => r
    | none =>
      let s := w36Sign x != w36Sign y
      match w36Val x, w36Val y with
      | .fin a, .fin b =>
        match w36Val z with
        | .fin c => roundW36 ((a.mul b).add c) .rne
        | _ => (z, fNone)
      | _, _ =>
        if w36IsZero x || w36IsZero y then (w36NaN, fNV)
        else if w36IsInf z && (w36Sign z != s) then (w36NaN, fNV)
        else (w36Inf s, fNone)

/-- FDIV (R126, R127). -/
def w36Div (x y : W36) : W36 × Flags :=
  match nanSelect [x, y] with
  | some r => r
  | none =>
    let s := w36Sign x != w36Sign y
    match w36Val x, w36Val y with
    | .fin a, .fin b =>
      if b.man = 0 then (if a.man = 0 then (w36NaN, fNV) else (w36Inf s, fDZ))
      else if a.man = 0 then (w36Zero s, fNone)
      else roundW36 (a.quot b) .rne
    | .inf _, .inf _ => (w36NaN, fNV)
    | .inf _, _ => (w36Inf s, fNone)
    | _, _ => (w36Zero s, fNone)

/-- FSQRT (R126, R127). -/
def w36Sqrt (x : W36) : W36 × Flags :=
  match nanSelect [x] with
  | some r => r
  | none =>
    match w36Val x with
    | .fin a => if a.man = 0 then (x, fNone) else if a.neg then (w36NaN, fNV) else roundW36 a.sqrt .rne
    | .inf s => if s then (w36NaN, fNV) else (x, fNone)
    | .nan _ => (w36NaN, fNV)

/-- The order of two words that are not NaN, with -0 below +0 (R128): is x below y. -/
def w36Less (x y : W36) : Bool :=
  let key := fun w : W36 => if w36Sign w then -((w.toNat % 2 ^ 35 : Nat) : Int) - 1 else ((w.toNat % 2 ^ 35 : Nat) : Int)
  decide (key x < key y)

/-- FMIN (R128). -/
def w36Min (x y : W36) : W36 × Flags :=
  match nanSelect [x, y] with
  | some r => r
  | none => (if w36Less y x then y else x, fNone)

/-- FMAX (R128). -/
def w36Max (x y : W36) : W36 × Flags :=
  match nanSelect [x, y] with
  | some r => r
  | none => (if w36Less x y then y else x, fNone)

/-- FABS (R128). -/
def w36Abs (x : W36) : W36 := x &&& 0x7FFFFFFFF#36

/-- FCLASS: the one-hot mask (R128). -/
def w36Class (x : W36) : Nat :=
  let s := w36Sign x
  match w36Val x with
  | .nan true => 2 ^ 8
  | .nan false => 2 ^ 9
  | .inf _ => if s then 1 else 2 ^ 7
  | .fin d =>
    if d.man = 0 then (if s then 2 ^ 3 else 2 ^ 4)
    else if w36Exp x = 0 then (if s then 2 ^ 2 else 2 ^ 5)
    else (if s then 2 else 2 ^ 6)

/-- The order of two values that are not NaN (R132). -/
def FVal.cmp (x y : FVal) : Ordering :=
  match x, y with
  | .fin a, .fin b => a.cmp b
  | .inf s, .inf t => if s = t then .eq else if s then .lt else .gt
  | .inf s, _ => if s then .lt else .gt
  | _, .inf t => if t then .gt else .lt
  | _, _ => .eq

/-- FCMP: the condition cc and its flags (R132). -/
def w36Cmp (cc : Nat) (x y : W36) : Bool × Flags :=
  let nan := w36IsNaN x || w36IsNaN y
  let sn := w36IsSNaN x || w36IsSNaN y
  let c := (w36Val x).cmp (w36Val y)
  let quiet := if sn then fNV else fNone
  let loud := if nan then fNV else fNone
  if cc = 0 then (!nan && c == .eq, quiet)
  else if cc = 1 then (nan || c != .eq, quiet)
  else if cc = 2 then (!nan && c == .lt, loud)
  else if cc = 3 then (!nan && c != .gt, loud)
  else if cc = 4 then (nan, quiet)
  else (!nan, quiet)

/-- Conversion to an integer range (R130): the value as a signed number and the flags. -/
def w36ToInt (x : W36) (rm : RMode) (lo hi : Int) : Int × Flags :=
  match w36Val x with
  | .nan _ => (0, fNV)
  | .inf s => (if s then lo else hi, fNV)
  | .fin d =>
    let n := d.toInt rm
    if n < lo then (lo, fNV)
    else if hi < n then (hi, fNV)
    else (n, if d.isInt then fNone else fNX)

/-- RoundW36 of an integer; zero gives +0 (R129). -/
def w36OfInt (n : Int) (rm : RMode) : W36 × Flags := roundW36 ⟨decide (n < 0), n.natAbs, 0⟩ rm

/-- RCP: FDIV of 1.0 by x (R293). -/
def w36Rcp (x : W36) : W36 × Flags := w36Div 0x3FF000000#36 x

/-- RSQRT (R293). -/
def w36Rsqrt (x : W36) : W36 × Flags :=
  match nanSelect [x] with
  | some r => r
  | none =>
    match w36Val x with
    | .fin a =>
      if a.man = 0 then (w36Inf a.neg, fDZ)
      else if a.neg then (w36NaN, fNV)
      else roundW36 a.rsqrt .rne
    | .inf s => if s then (w36NaN, fNV) else (w36Zero false, fNone)
    | .nan _ => (w36NaN, fNV)

/-! ## EXP2 and LOG2, correctly rounded: a fixed-point value with an error bound, at growing precision until both ends of
the interval round alike -/

/-- ln 2 at p fraction bits: the sum of 1 / (k * 2^k), n terms from k on. -/
def ln2Sum : Nat → Nat → Nat → Nat
  | 0, _, _ => 0
  | n + 1, p, k => 2 ^ p / (k * 2 ^ k) + ln2Sum n p (k + 1)

/-- ln 2 at p fraction bits, at most p + 8 units below the exact value. -/
def ln2Fix (p : Nat) : Nat := ln2Sum (p + 4) p 1

/-- e^x at p fraction bits for 0 ≤ x < 1: the Taylor terms from term t of number k on. -/
def expSum : Nat → Nat → Nat → Nat → Nat → Nat
  | 0, _, _, _, _ => 0
  | n + 1, p, x, t, k => t + expSum n p x (t * x / 2 ^ p / k) (k + 1)

/-- atanh z at p fraction bits, by odd powers: term w = z^k, number k. -/
def atanhSum : Nat → Nat → Nat → Nat → Nat → Nat
  | 0, _, _, _, _ => 0
  | n + 1, p, z2, w, k => w / k + atanhSum n p z2 (w * z2 / 2 ^ p) (k + 2)

/-- The correct rounding of a value known to lie strictly between lo and hi (both times 2^exp), when both round alike. -/
def roundBetween (neg : Bool) (lo hi : Nat) (exp : Int) : Option (W36 × Flags) :=
  let a := roundW36 ⟨neg, 2 * lo + 1, exp - 1⟩ .rne
  let b := roundW36 ⟨neg, 2 * hi + 1, exp - 1⟩ .rne
  if a = b then some a else none

/-- 2^(n + f / 2^q) for 0 < f < 2^q, tried at precision p, then at doubled precision. -/
def exp2Try : Nat → Nat → Int → Nat → Nat → W36 × Flags
  | 0, _, n, _, _ => roundW36 ⟨false, 3, n - 1⟩ .rne
  | fuel + 1, p, n, f, q =>
    let x := (f <<< p) / 2 ^ q * ln2Fix p / 2 ^ p
    let v := expSum (p / 2 + 8) p x (2 ^ p) 1
    match roundBetween false (v - (8 * p + 64)) (v + 8 * p + 64) (n - (p : Int)) with
    | some r => r
    | none => exp2Try fuel (2 * p) n f q

/-- EXP2 (R293). -/
def w36Exp2 (x : W36) : W36 × Flags :=
  match nanSelect [x] with
  | some r => r
  | none =>
    match w36Val x with
    | .nan _ => (w36NaN, fNV)
    | .inf s => (if s then w36Zero false else w36Inf false, fNone)
    | .fin d =>
      if d.man = 0 then roundW36 ⟨false, 1, 0⟩ .rne
      else if d.log2 < -40 then roundW36 ⟨false, if d.neg then 2 ^ 60 - 1 else 2 ^ 60 + 1, -60⟩ .rne
      else if 12 < d.log2 then roundW36 ⟨false, 3, if d.neg then -4096 else 4096⟩ .rne
      else if d.isInt then roundW36 ⟨false, 1, d.toInt .rtz⟩ .rne
      else
        let q := (-d.exp).toNat
        let a : Int := if d.neg then -(d.man : Int) else (d.man : Int)
        let n := a / ((2 ^ q : Nat) : Int)
        let f := (a % ((2 ^ q : Nat) : Int)).toNat
        exp2Try 4 160 n f q

/-- e + log2 m for m = u / 2^b between 3/4 and 3/2, not 1, tried at precision p. -/
def log2Try : Nat → Nat → Int → Nat → Nat → W36 × Flags
  | 0, _, e, _, _ => w36OfInt e .rne
  | fuel + 1, p, e, u, b =>
    let one := 2 ^ b
    let below := u < one
    let dlt := if below then one - u else u - one
    let z := (dlt <<< p) / (u + one)
    let l := atanhSum (p / 4 + 8) p (z * z / 2 ^ p) z 1
    let g := (2 * l <<< p) / ln2Fix p
    let v : Int := e * ((2 ^ p : Nat) : Int) + (if below then -(g : Int) else (g : Int))
    let m := v.natAbs
    match roundBetween (decide (v < 0)) (m - (16 * p + 64)) (m + 16 * p + 64) (-(p : Int)) with
    | some r => r
    | none => log2Try fuel (2 * p) e u b

/-- LOG2 (R293). -/
def w36Log2 (x : W36) : W36 × Flags :=
  match nanSelect [x] with
  | some r => r
  | none =>
    match w36Val x with
    | .nan _ => (w36NaN, fNV)
    | .inf s => if s then (w36NaN, fNV) else (w36Inf false, fNone)
    | .fin d =>
      if d.man = 0 then (w36Inf true, fDZ)
      else if d.neg then (w36NaN, fNV)
      else
        let l := d.man.log2
        if d.man = 2 ^ l then w36OfInt ((l : Int) + d.exp) .rne
        else if 3 * 2 ^ l < 2 * d.man then log2Try 4 160 (d.log2 + 1) d.man (l + 1)
        else log2Try 4 160 d.log2 d.man l

/-- SCALE (R293). -/
def w36Scale (x y : W36) : W36 × Flags :=
  match nanSelect [x, y] with
  | some r => r
  | none =>
    match w36Val x with
    | .fin d =>
      if d.man = 0 then (x, fNone)
      else
        let n : Int := match w36Val y with
          | .fin b => if 20 < b.log2 && b.man != 0 then (if b.neg then -2200 else 2200) else clampInt (-2200) 2200 (b.toInt .rtz)
          | .inf s => if s then -2200 else 2200
          | .nan _ => 0
        roundW36 ⟨d.neg, d.man, d.exp + n⟩ .rne
    | _ => (x, fNone)

/-! ## L18 -/

/-- The L18 NaN (R110). -/
def l18NaN : L18 := 0x1FF80#18
/-- L18 infinity. -/
def l18Inf (neg : Bool) : L18 := if neg then 0x3FF00#18 else 0x1FF00#18

/-- The class and value of an L18 word; its NaNs are quiet (R110). -/
def l18Val (w : L18) : FVal :=
  let s : Bool := decide (w.toNat / 2 ^ 17 = 1)
  let e : Nat := w.toNat / 2 ^ 8 % 2 ^ 9
  let f : Nat := w.toNat % 2 ^ 8
  if e = 511 then (if f = 0 then .inf s else .nan false)
  else if e = 0 then .fin ⟨s, f, -262⟩
  else .fin ⟨s, f + 2 ^ 8, (e : Int) - 263⟩

/-- L18ToW36 (R111). -/
def l18ToW36 (w : L18) : W36 := w36Bits (l18Val w)

/-- L18FromReal (R111). -/
def l18FromReal (d : Dyadic) : L18 := BitVec.ofNat 18 (packFloat 9 8 (-254) 255 d.neg d.man d.exp)

/-- L18Split (R111): the significand cut toward zero to 9 bits, and the rest. -/
def l18Split (d : Dyadic) : L18 × L18 :=
  let l := d.man.log2
  if d.man = 0 then (l18FromReal d, l18FromReal d)
  else if l ≤ 8 then (l18FromReal d, l18FromReal ⟨d.neg, 0, 0⟩)
  else
    let k := l - 8
    (l18FromReal ⟨d.neg, d.man >>> k, d.exp + (k : Int)⟩, l18FromReal ⟨d.neg, d.man % 2 ^ k, d.exp⟩)

/-- The L18 of a W36 value, rounded to nearest even (R297). -/
def l18OfW36 (w : W36) : L18 × Flags :=
  match w36Val w with
  | .nan b => (l18NaN, if b then fNV else fNone)
  | .inf s => (l18Inf s, fNone)
  | .fin d =>
    let r := roundFloat d 9 (-254) 255 .rne false
    match r.val with
    | .fin v => (l18FromReal v, r.fl)
    | .inf s => (l18Inf s, r.fl)
    | .nan _ => (l18NaN, r.fl)

end Sys2Proof.Machine
end

