-- ==== Sys2Proof/Machine/Formats.lean ====
section
/-! DEFINITION. The storage formats: decoders into W36, L18 and integer lanes, encoders, MX blocks, grouped codes, EC4 decode tables
and the checksum (spec/07_mem_formats.md R180 to R203; spec/04_reg_arith.md R116, R129, R131). -/

namespace Sys2Proof.Machine

/-! ## Format codes (R180) -/

/-- RAW. -/
def fmtRAW : Nat := 0x00
/-- I8. -/
def fmtI8 : Nat := 0x01
/-- I16. -/
def fmtI16 : Nat := 0x02
/-- I32. -/
def fmtI32 : Nat := 0x03
/-- I4. -/
def fmtI4 : Nat := 0x04
/-- Q4G. -/
def fmtQ4G : Nat := 0x05
/-- Q8G. -/
def fmtQ8G : Nat := 0x06
/-- E4M3. -/
def fmtE4M3 : Nat := 0x07
/-- E5M2. -/
def fmtE5M2 : Nat := 0x08
/-- T8. -/
def fmtT8 : Nat := 0x09
/-- T16. -/
def fmtT16 : Nat := 0x0A
/-- T32. -/
def fmtT32 : Nat := 0x0B
/-- BF16. -/
def fmtBF16 : Nat := 0x0C
/-- FP16. -/
def fmtFP16 : Nat := 0x0D
/-- FP32. -/
def fmtFP32 : Nat := 0x0E
/-- W36 container. -/
def fmtW36 : Nat := 0x0F
/-- MXE4. -/
def fmtMXE4 : Nat := 0x10
/-- MXE5. -/
def fmtMXE5 : Nat := 0x11
/-- MXI8. -/
def fmtMXI8 : Nat := 0x12
/-- EC4. -/
def fmtEC4 : Nat := 0x13

/-- Is the code one of the MX formats. -/
def fmtIsMX (c : Nat) : Bool := c == 0x10 || c == 0x11 || c == 0x12
/-- Is the code decoded through group records: Q4G, Q8G or EC4. -/
def fmtIsGrouped (c : Nat) : Bool := c == 0x05 || c == 0x06 || c == 0x13

/-- Bits of one element; RAW has the lane width and EC4 has no fixed size (0 here). -/
def fmtBits (c : Nat) : Nat :=
  if c = 0x01 || c = 0x06 || c = 0x07 || c = 0x08 || c = 0x09 || c = 0x10 || c = 0x11 || c = 0x12 then 8
  else if c = 0x02 || c = 0x0A || c = 0x0C || c = 0x0D then 16
  else if c = 0x03 || c = 0x0B || c = 0x0E then 32
  else if c = 0x04 || c = 0x05 then 4
  else if c = 0x0F then 64
  else 0

/-! ## Binary floating formats (R189 to R192) -/

/-- The parameters of a binary floating format. -/
structure FloatFmt where
  eb : Nat
  mb : Nat
  bias : Int
  emin : Int
  emax : Int
  e4m3 : Bool := false
  fp8 : Bool := false
deriving DecidableEq, Repr

/-- E4M3 (R189). -/
def ffE4M3 : FloatFmt := ⟨4, 3, 7, -6, 8, true, true⟩
/-- E5M2 (R189). -/
def ffE5M2 : FloatFmt := ⟨5, 2, 15, -14, 15, false, true⟩
/-- FP16 (R189). -/
def ffFP16 : FloatFmt := ⟨5, 10, 15, -14, 15, false, false⟩
/-- BF16 (R189). -/
def ffBF16 : FloatFmt := ⟨8, 7, 127, -126, 127, false, false⟩
/-- FP32 (R189). -/
def ffFP32 : FloatFmt := ⟨8, 23, 127, -126, 127, false, false⟩

/-- The class and value of a code, with its fraction field; a NaN is signalling when its top fraction bit is 0 (R189). -/
def ffVal (t : FloatFmt) (w : Nat) : FVal :=
  let s : Bool := nbit w (t.eb + t.mb)
  let e := nfld w (t.eb + t.mb - 1) t.mb
  let m := w % 2 ^ t.mb
  let top := 2 ^ t.eb - 1
  if e = top ∧ t.e4m3 ∧ m = 2 ^ t.mb - 1 then .nan false
  else if e = top ∧ !t.e4m3 then
    (if m = 0 then .inf s else .nan (decide (m < 2 ^ (t.mb - 1))))
  else if e = 0 then .fin ⟨s, m, t.emin - (t.mb : Int)⟩
  else .fin ⟨s, 2 ^ t.mb + m, (e : Int) - t.bias - (t.mb : Int)⟩

/-- DecodeFloat (R190). -/
def decodeFloat (t : FloatFmt) (w : Nat) : W36 × Flags :=
  match ffVal t w with
  | .nan sn =>
    let s := bnat (nbit w (t.eb + t.mb))
    let m := w % 2 ^ t.mb
    (BitVec.ofNat 36 (s * 2 ^ 35 + ((0x7FF000000 ||| (m <<< (24 - t.mb))) ||| 0x800000)), if sn then fNV else fNone)
  | v => (w36Bits v, fNone)

/-- DecodeFloatL18 (R190). -/
def decodeFloatL18 (t : FloatFmt) (w : Nat) : L18 × Flags :=
  match ffVal t w with
  | .nan sn => (l18NaN, if sn then fNV else fNone)
  | .inf s => (l18Inf s, fNone)
  | .fin d => (l18FromReal d, fNone)

/-- EncodeFloat under a rounding mode; satFl are the flags of an FP8 saturation (R192, R129). -/
def encodeFloat (t : FloatFmt) (rm : RMode) (satFl : Flags) (x : W36) : Nat × Flags :=
  let s := w36Sign x
  let sb := bnat s * 2 ^ (t.eb + t.mb)
  let infCode := (2 ^ t.eb - 1) * 2 ^ t.mb
  match w36Val x with
  | .nan sn =>
    let f := if sn then fNV else fNone
    if t.e4m3 then (sb + 0x7F, f)
    else (sb + infCode + ((w36Frac x >>> (24 - t.mb)) ||| 2 ^ (t.mb - 1)), f)
  | .inf _ =>
    if t.e4m3 then (sb + 0x7E, fOF ||| fNX) else (sb + infCode, fNone)
  | .fin d =>
    let r := roundFloat d (t.mb + 1) t.emin t.emax rm true
    match r.val with
    | .fin v =>
      let code := packFloat t.eb t.mb t.emin t.bias v.neg v.man v.exp
      if t.e4m3 && 0x7E < code % 0x80 then (sb + 0x7E, satFl) else (code, r.fl)
    | _ => if t.e4m3 then (sb + 0x7E, satFl) else if t.fp8 then (sb + 0x7B, satFl) else (sb + infCode, r.fl)

/-! ## Tapered formats (R193 to R196) -/

/-- The length of the run of bits equal to b from bit k - 1 of x down. -/
def runLen (b : Bool) : Nat → Nat → Nat
  | 0, _ => 0
  | k + 1, x => if nbit x k = b then 1 + runLen b k x else 0

/-- DecodeTapered (R195): the value, or none for NaR. -/
def decodeTapered (n es w : Nat) : Option Dyadic :=
  if w = 0 then some ⟨false, 0, 0⟩
  else if w = 2 ^ (n - 1) then none
  else
    let s := nbit w (n - 1)
    let x := if s then 2 ^ n - w else w
    let r := nbit x (n - 2)
    let m := runLen r (n - 1) x
    let k : Int := if r then (m : Int) - 1 else -(m : Int)
    let rest := n - 1 - (m + 1)
    let tail := x % 2 ^ rest
    if es ≤ rest then
      let fb := rest - es
      some ⟨s, 2 ^ fb + tail % 2 ^ fb, k * ((2 ^ es : Nat) : Int) + (tail >>> fb : Nat) - (fb : Int)⟩
    else some ⟨s, 1, k * ((2 ^ es : Nat) : Int) + (tail <<< (es - rest) : Nat)⟩

/-- A tapered code as W36: NaR becomes its own NaN; T32 rounds to nearest even (R195). -/
def taperedToW36 (n es w : Nat) : W36 × Flags :=
  match decodeTapered n es w with
  | none => (w36NaR, fNone)
  | some d => roundW36 d .rne

/-- EncodeTapered (R196). -/
def encodeTapered (n es : Nat) (rm : RMode) (x : W36) : Nat × Flags :=
  match w36Val x with
  | .nan sn => (2 ^ (n - 1), if sn then fNV else fNone)
  | .inf _ => (2 ^ (n - 1), fNV)
  | .fin d =>
    if d.man = 0 then (0, fNone)
    else
      let l := d.man.log2
      let big := d.log2
      let top : Int := (((n - 2) * 2 ^ es : Nat) : Int)
      let frac := d.man % 2 ^ l
      let pf : Nat × Flags :=
        if top < big ∨ (big = top ∧ frac ≠ 0) then (2 ^ (n - 1) - 1, fOF ||| fNX)
        else if big < -top then (1, fUF ||| fNX)
        else
          let k := big / ((2 ^ es : Nat) : Int)
          let e := (big % ((2 ^ es : Nat) : Int)).toNat
          let reg : Nat × Nat := if 0 ≤ k then (2 ^ (k.toNat + 2) - 2, k.toNat + 2) else (1, (-k).toNat + 1)
          let str := ((reg.1 <<< es) + e) <<< l
          let str := str + frac
          let len := reg.2 + es + l
          if len ≤ n - 1 then (str <<< (n - 1 - len), fNone)
          else
            let c := len - (n - 1)
            let r := str % 2 ^ c
            (roundCut (str >>> c) r c rm d.neg, if r = 0 then fNone else fNX)
      (if d.neg then 2 ^ n - pf.1 else pf.1, pf.2)

/-! ## Element codecs -/

/-- A storage element decoded to W36 (R180, column TGT 10), for the codes without metadata. -/
def decodeElem (c raw : Nat) : W36 × Flags :=
  if c = 0x01 then w36OfInt (sgn 8 raw) .rne
  else if c = 0x02 then w36OfInt (sgn 16 raw) .rne
  else if c = 0x03 then w36OfInt (sgn 32 raw) .rne
  else if c = 0x04 then w36OfInt (sgn 4 raw) .rne
  else if c = 0x07 then decodeFloat ffE4M3 raw
  else if c = 0x08 then decodeFloat ffE5M2 raw
  else if c = 0x09 then taperedToW36 8 1 raw
  else if c = 0x0A then taperedToW36 16 1 raw
  else if c = 0x0B then taperedToW36 32 2 raw
  else if c = 0x0C then decodeFloat ffBF16 raw
  else if c = 0x0D then decodeFloat ffFP16 raw
  else if c = 0x0E then decodeFloat ffFP32 raw
  else (BitVec.ofNat 36 raw, fNone)

/-- A W36 word encoded to an integer format of w bits (R184). -/
def encodeIntFmt (w : Nat) (x : W36) : Nat × Flags :=
  let r := w36ToInt x .rne (-((2 ^ (w - 1) : Nat) : Int)) (((2 ^ (w - 1) : Nat) : Int) - 1)
  (wrapInt w r.1, r.2)

/-- A W36 word encoded to a storage format without metadata (R180, last column; R184, R192, R196, R197). -/
def encodeElem (c : Nat) (x : W36) : Nat × Flags :=
  if c = 0x01 then encodeIntFmt 8 x
  else if c = 0x02 then encodeIntFmt 16 x
  else if c = 0x03 then encodeIntFmt 32 x
  else if c = 0x04 then encodeIntFmt 4 x
  else if c = 0x07 then encodeFloat ffE4M3 .rne (fOF ||| fNX) x
  else if c = 0x08 then encodeFloat ffE5M2 .rne (fOF ||| fNX) x
  else if c = 0x09 then encodeTapered 8 1 .rne x
  else if c = 0x0A then encodeTapered 16 1 .rne x
  else if c = 0x0B then encodeTapered 32 2 .rne x
  else if c = 0x0C then encodeFloat ffBF16 .rne (fOF ||| fNX) x
  else if c = 0x0D then encodeFloat ffFP16 .rne (fOF ||| fNX) x
  else if c = 0x0E then encodeFloat ffFP32 .rne (fOF ||| fNX) x
  else (x.toNat, fNone)

/-- A finite or infinite or NaN split pair (R191): high part, low part, flags. -/
def splitPair (v : FVal) : L18 × L18 × Flags :=
  match v with
  | .nan sn => (l18NaN, 0, if sn then fNV else fNone)
  | .inf s => (l18Inf s, 0, fNone)
  | .fin d => let p := l18Split d; (p.1, p.2, fNone)

/-- A storage element decoded to one L18 word (R180, column TGT 01), for I8, I4, E4M3, E5M2, T8 and BF16. -/
def decodeElemL18 (c raw : Nat) : L18 × Flags :=
  let ofInt := fun (i : Int) => (l18FromReal ⟨decide (i < 0), i.natAbs, 0⟩, fNone)
  if c = 0x01 then ofInt (sgn 8 raw)
  else if c = 0x04 then ofInt (sgn 4 raw)
  else if c = 0x07 then decodeFloatL18 ffE4M3 raw
  else if c = 0x08 then decodeFloatL18 ffE5M2 raw
  else if c = 0x0C then decodeFloatL18 ffBF16 raw
  else if c = 0x10 then decodeFloatL18 ffE4M3 raw
  else if c = 0x11 then decodeFloatL18 ffE5M2 raw
  else if c = 0x12 then
    let i := sgn 8 raw
    (l18FromReal ⟨decide (i < 0), i.natAbs, -6⟩, fNone)
  else
    match decodeTapered 8 1 raw with
    | none => (l18NaN, fNone)
    | some d => (l18FromReal d, fNone)

/-- A storage element decoded to a split pair (R191), for T16 and FP16. -/
def decodeElemPair (c raw : Nat) : L18 × L18 × Flags :=
  if c = 0x0D then splitPair (ffVal ffFP16 raw)
  else
    match decodeTapered 16 1 raw with
    | none => (l18NaN, 0, fNone)
    | some d => splitPair (.fin d)

/-! ## Grouped codes (R185 to R188) -/

/-- The W36 scale of a group record, with the flags of its decoding (R187). -/
def recScale (rec : Nat) : W36 × Flags := decodeFloat ffFP16 (rec % 2 ^ 16)
/-- The zero point of a group record (R185). -/
def recZp (rec : Nat) : Nat := nfld rec 23 16

/-- DecodeQ with TGT 10 (R187). -/
def decodeQW36 (code rec : Nat) : W36 × Flags :=
  let d : Int := (code : Int) - (recZp rec : Int)
  let sw := recScale rec
  let finite : Bool := match w36Val sw.1 with | .fin _ => true | _ => false
  if d = 0 ∧ finite then (0, sw.2)
  else
    let p := w36Mul sw.1 (w36OfInt d .rne).1
    (p.1, sw.2 ||| p.2)

/-- DecodeQ with TGT 01 (R187). -/
def decodeQL18 (code rec : Nat) : L18 :=
  let d : Int := (code : Int) - (recZp rec : Int)
  l18FromReal ⟨decide (d < 0), d.natAbs, 0⟩

/-! ## MX blocks (R198 to R200) -/

/-- The value of an MX element without its scale. -/
def mxElem (c raw : Nat) : FVal :=
  if c = 0x10 then ffVal ffE4M3 raw
  else if c = 0x11 then ffVal ffE5M2 raw
  else let i := sgn 8 raw; .fin ⟨decide (i < 0), i.natAbs, -6⟩

/-- The W36 scale of an E8M0 byte (R199). -/
def mxScale (x : Nat) : W36 := if x = 255 then w36NaN else w36Bits (.fin ⟨false, 1, (x : Int) - 127⟩)

/-- An MX element decoded to W36 (R199). -/
def decodeMX (c x raw : Nat) : W36 × Flags :=
  if x = 255 then (w36NaN, fNone)
  else
    match mxElem c raw with
    | .fin d => roundW36 ⟨d.neg, d.man, d.exp + (x : Int) - 127⟩ .rne
    | _ => if c = 0x10 then decodeFloat ffE4M3 raw else decodeFloat ffE5M2 raw

/-- The greatest magnitude among finite words: floor(log2) of it, or none when all are zero. -/
def maxLog2 : List W36 → Option Int
  | [] => none
  | w :: t =>
    match w36Val w, maxLog2 t with
    | .fin d, r =>
      if d.man = 0 then r
      else match r with
        | none => some d.log2
        | some k => some (if k < d.log2 then d.log2 else k)
    | _, r => r

/-- One element of an MX block under scale X (R200). -/
def encodeMXElem (c x : Nat) (w : W36) : Nat × Flags :=
  match w36Val w with
  | .fin d =>
    let y : Dyadic := ⟨d.neg, d.man, d.exp - ((x : Int) - 127)⟩
    if c = 0x12 then
      let z : Dyadic := ⟨y.neg, y.man, y.exp + 6⟩
      let n := clampInt (-128) 127 (z.toInt .rne)
      let back : Dyadic := ⟨decide (n < 0), n.natAbs, 0⟩
      (wrapInt 8 n, if back.cmp z = .eq then fNone else fNX)
    else
      -- y is a dyadic of at most 25 significant bits: rounded straight into the element format
      let t := if c = 0x10 then ffE4M3 else ffE5M2
      let sb := bnat y.neg * 0x80
      let sat := if c = 0x10 then 0x7E else 0x7B
      let r := roundFloat y (t.mb + 1) t.emin t.emax .rne true
      match r.val with
      | .fin v =>
        let code := packFloat t.eb t.mb t.emin t.bias v.neg v.man v.exp
        if t.e4m3 && 0x7E < code % 0x80 then (sb + sat, fNX) else (code, r.fl)
      | _ => (sb + sat, fNX)
  | _ => (0, fNone)

/-- EncodeMX (R200): the scale, the codes and the flags. -/
def encodeMX (c : Nat) (xs : List W36) : Nat × List Nat × Flags :=
  if xs.any (fun w => w36IsNaN w || w36IsInf w) then
    (255, xs.map (fun _ => 0), if xs.any (fun w => w36IsSNaN w || w36IsInf w) then fNV else fNone)
  else
    let emax : Int := if c = 0x10 then 8 else if c = 0x11 then 15 else 0
    let x : Nat := match maxLog2 xs with
      | none => 0
      | some l => (clampInt 0 254 (l - emax + 127)).toNat
    let es := xs.map (encodeMXElem c x)
    (x, es.map Prod.fst, (es.map Prod.snd).foldl (· ||| ·) fNone)

/-! ## EC4 decode tables (R202, R203) -/

/-- The length of symbol i in a table image. -/
def ecLen (image i : Nat) : Nat := nfld image (4 * i + 3) (4 * i)

/-- The check code of a table image: the XOR of its nibbles (R202). -/
def ecCheck (image : Nat) : Nat := (List.range 16).foldl (fun a i => a ^^^ ecLen image i) 0

/-- Is the table valid (R202): the code is complete, or it has one symbol, of length 1. -/
def ecValid (image : Nat) : Bool :=
  let lens := (List.range 16).map (ecLen image)
  let present := lens.filter (· != 0)
  let kraft := present.foldl (fun a l => a + 2 ^ (15 - l)) 0
  kraft == 2 ^ 15 || (present == [1])

/-- The symbols in canonical order, each with its length and code word (R202). -/
def ecCodesFrom : List (Nat × Nat) → Nat → Nat → List (Nat × Nat × Nat)
  | [], _, _ => []
  | (l, i) :: t, c, prev =>
    let c := c <<< (l - prev)
    (i, l, c) :: ecCodesFrom t (c + 1) l

/-- CanonicalCodes (R202): symbol, length, code word. -/
def ecCodes (image : Nat) : List (Nat × Nat × Nat) :=
  let byLen := (List.range 16).flatMap fun l =>
    if l = 0 then [] else ((List.range 16).filter fun i => ecLen image i == l).map fun i => (l, i)
  ecCodesFrom byLen 0 0

/-- The symbol whose code word is the l bits read so far, v. -/
def ecMatch (codes : List (Nat × Nat × Nat)) (l v : Nat) : Option Nat :=
  (codes.find? fun e => e.2.1 == l && e.2.2 == v).map (·.1)

/-- Can the l bits read so far begin a code word (R203 step 3). -/
def ecViable (codes : List (Nat × Nat × Nat)) (l v : Nat) : Bool :=
  codes.any fun e => decide (l ≤ e.2.1) && (e.2.2 >>> (e.2.1 - l)) == v

/-! ## CRC-32C. PRESUMED (notes/assumptions/10.md): the standard reflected polynomial 0x82F63B78, start and final inversion all ones. -/

/-- Eight steps of the remainder. -/
def crcBits : Nat → Nat → Nat
  | 0, c => c
  | n + 1, c => crcBits n (if c % 2 = 1 then (c / 2) ^^^ 0x82F63B78 else c / 2)

/-- The remainder after more bytes. -/
def crcBytes (c : Nat) : List Byte → Nat
  | [] => c
  | b :: t => crcBytes (crcBits 8 (c ^^^ b.toNat)) t

/-- CRC-32C of bytes. -/
def crc32c (bs : List Byte) : Nat := crcBytes 0xFFFFFFFF bs ^^^ 0xFFFFFFFF

/-- n zero bits more: the remainder is a linear map, so long runs of zero bytes go by squaring its matrix. -/
def gf2Times (mat : List Nat) (v : Nat) : Nat :=
  match mat with
  | [] => 0
  | r :: t => (if v % 2 = 1 then r else 0) ^^^ gf2Times t (v / 2)

/-- The matrix applied twice. -/
def gf2Square (mat : List Nat) : List Nat := mat.map (gf2Times mat)

/-- The matrix of one zero bit. -/
def crcBitMat : List Nat := 0x82F63B78 :: (List.range 31).map fun i => 2 ^ i

/-- The remainder after n zero bytes, n in binary with f digits. -/
def crcZerosFrom : Nat → List Nat → Nat → Nat → Nat
  | 0, _, _, c => c
  | f + 1, mat, n, c =>
    if n = 0 then c
    else crcZerosFrom f (gf2Square mat) (n / 2) (if n % 2 = 1 then gf2Times mat c else c)

/-- The remainder after n zero bytes. -/
def crcZeros (n c : Nat) : Nat := crcZerosFrom 64 (gf2Square (gf2Square (gf2Square crcBitMat))) n c

end Sys2Proof.Machine
end

