-- ==== Sys2Proof/Syntax.lean ====
section
/-! DEFINITION. The syntax of the machine's steps: one constructor per row of spec/opcode_table.json. Rows 0 to 119
are the TCC's 32-bit instruction words (spec/02_encoding.md R42 to R53); their arguments are the fields of the word.
The other rows are the events of the engines, the fabric, the tables and the package; they have no encoding, and their
arguments say which unit acts, or carry what the outside world supplies. -/

namespace Sys2Proof

/-- The engines that take commands and carry clock divisors (R13, R146). -/
inductive Eng where
  | tcc | col | cpy
deriving DecidableEq, Repr

/-- The two networks of the collar (R258). -/
inductive Net where
  | data | control
deriving DecidableEq, Repr

/-- A place of the fabric: a tile by its number ((stack × 4 + layer) × 6 + row) × 8 + column (R6), or a base die by its stack. -/
inductive Node where
  | tile (t : Nat)
  | die (d : Nat)
deriving DecidableEq, Repr

/-- The memories whose words an error may strike: those of a tile, with the tile and the word's number (R152), and HBM and the second tier, with the number
of the 32-byte granule (R161, R177). -/
inductive ErrPlace where
  | spill (tile word : Nat)
  | scratch (tile word : Nat)
  | istore (tile word : Nat)
  | ctx (tile word : Nat)
  | acc (tile word : Nat)
  | hbm (granule : Nat)
  | second (granule : Nat)
deriving DecidableEq, Repr

/-- The word a package port exchanges with its partner when it trains (R479). -/
structure TrainWord where
  package : BitVec 12
  dir : Nat
  port : Nat
deriving DecidableEq, Repr

/-- How the mask ROM's reading of the firmware image ends (R478 phase 1, R482 causes 1 and 2), with the SHA3-512
digest of the authenticated image as the measurement (R443). -/
inductive FwResult where
  | ok (image : List (BitVec 8))
  | badSignature
  | badFormat
deriving DecidableEq, Repr

/-- One step of the machine: a TCC instruction with the fields of its word, or an event. The order of the constructors means nothing. -/
inductive Instr where
  | add (g : BitVec 4) (d : BitVec 6) (a : BitVec 6) (b : BitVec 6)  -- ADD, R91
  | sub (g : BitVec 4) (d : BitVec 6) (a : BitVec 6) (b : BitVec 6)  -- SUB, R91
  | and (g : BitVec 4) (d : BitVec 6) (a : BitVec 6) (b : BitVec 6)  -- AND, R91
  | or (g : BitVec 4) (d : BitVec 6) (a : BitVec 6) (b : BitVec 6)  -- OR, R91
  | xor (g : BitVec 4) (d : BitVec 6) (a : BitVec 6) (b : BitVec 6)  -- XOR, R91
  | andn (g : BitVec 4) (d : BitVec 6) (a : BitVec 6) (b : BitVec 6)  -- ANDN, R91
  | shl (g : BitVec 4) (d : BitVec 6) (a : BitVec 6) (b : BitVec 6)  -- SHL, R91
  | shr (g : BitVec 4) (d : BitVec 6) (a : BitVec 6) (b : BitVec 6)  -- SHR, R91
  | sra (g : BitVec 4) (d : BitVec 6) (a : BitVec 6) (b : BitVec 6)  -- SRA, R91
  | rol (g : BitVec 4) (d : BitVec 6) (a : BitVec 6) (b : BitVec 6)  -- ROL, R91
  | min (g : BitVec 4) (d : BitVec 6) (a : BitVec 6) (b : BitVec 6)  -- MIN, R91
  | max (g : BitVec 4) (d : BitVec 6) (a : BitVec 6) (b : BitVec 6)  -- MAX, R91
  | minu (g : BitVec 4) (d : BitVec 6) (a : BitVec 6) (b : BitVec 6)  -- MINU, R91
  | maxu (g : BitVec 4) (d : BitVec 6) (a : BitVec 6) (b : BitVec 6)  -- MAXU, R91
  | mul (g : BitVec 4) (d : BitVec 6) (a : BitVec 6) (b : BitVec 6)  -- MUL, R92
  | mulh (g : BitVec 4) (d : BitVec 6) (a : BitVec 6) (b : BitVec 6)  -- MULH, R92
  | mulhu (g : BitVec 4) (d : BitVec 6) (a : BitVec 6) (b : BitVec 6)  -- MULHU, R92
  | madd (g : BitVec 4) (d : BitVec 6) (a : BitVec 6) (b : BitVec 6)  -- MADD, R92
  | div (g : BitVec 4) (d : BitVec 6) (a : BitVec 6) (b : BitVec 6)  -- DIV, R92
  | divu (g : BitVec 4) (d : BitVec 6) (a : BitVec 6) (b : BitVec 6)  -- DIVU, R92
  | rem (g : BitVec 4) (d : BitVec 6) (a : BitVec 6) (b : BitVec 6)  -- REM, R92
  | remu (g : BitVec 4) (d : BitVec 6) (a : BitVec 6) (b : BitVec 6)  -- REMU, R92
  | clz (g : BitVec 4) (d : BitVec 6) (a : BitVec 6)  -- CLZ, R93
  | ctz (g : BitVec 4) (d : BitVec 6) (a : BitVec 6)  -- CTZ, R93
  | popc (g : BitVec 4) (d : BitVec 6) (a : BitVec 6)  -- POPC, R93
  | brev (g : BitVec 4) (d : BitVec 6) (a : BitVec 6)  -- BREV, R93
  | bswap (g : BitVec 4) (d : BitVec 6) (a : BitVec 6)  -- BSWAP, R93
  | sextb (g : BitVec 4) (d : BitVec 6) (a : BitVec 6)  -- SEXTB, R93
  | sexth (g : BitVec 4) (d : BitVec 6) (a : BitVec 6)  -- SEXTH, R93
  | sextw (g : BitVec 4) (d : BitVec 6) (a : BitVec 6)  -- SEXTW, R93
  | zextb (g : BitVec 4) (d : BitVec 6) (a : BitVec 6)  -- ZEXTB, R93
  | zexth (g : BitVec 4) (d : BitVec 6) (a : BitVec 6)  -- ZEXTH, R93
  | zextw (g : BitVec 4) (d : BitVec 6) (a : BitVec 6)  -- ZEXTW, R93
  | addi (g : BitVec 4) (d : BitVec 6) (a : BitVec 6) (i : BitVec 10)  -- ADDI, R94
  | andi (g : BitVec 4) (d : BitVec 6) (a : BitVec 6) (i : BitVec 10)  -- ANDI, R94
  | ori (g : BitVec 4) (d : BitVec 6) (a : BitVec 6) (i : BitVec 10)  -- ORI, R94
  | xori (g : BitVec 4) (d : BitVec 6) (a : BitVec 6) (i : BitVec 10)  -- XORI, R94
  | shli (g : BitVec 4) (d : BitVec 6) (a : BitVec 6) (n : BitVec 6)  -- SHLI, R94
  | shri (g : BitVec 4) (d : BitVec 6) (a : BitVec 6) (n : BitVec 6)  -- SHRI, R94
  | srai (g : BitVec 4) (d : BitVec 6) (a : BitVec 6) (n : BitVec 6)  -- SRAI, R94
  | movi (g : BitVec 4) (d : BitVec 6) (i : BitVec 16)  -- MOVI, R95
  | movh (g : BitVec 4) (d : BitVec 6) (i : BitVec 16)  -- MOVH, R95
  | cmp (g : BitVec 4) (p : BitVec 3) (c : BitVec 3) (a : BitVec 6) (b : BitVec 6)  -- CMP, R97
  | cmpi (g : BitVec 4) (p : BitVec 3) (c : BitVec 3) (a : BitVec 6) (i : BitVec 10)  -- CMPI, R97
  | pand (g : BitVec 4) (d : BitVec 3) (a : BitVec 3) (b : BitVec 3)  -- PAND, R98
  | por (g : BitVec 4) (d : BitVec 3) (a : BitVec 3) (b : BitVec 3)  -- POR, R98
  | pxor (g : BitVec 4) (d : BitVec 3) (a : BitVec 3) (b : BitVec 3)  -- PXOR, R98
  | pandn (g : BitVec 4) (d : BitVec 3) (a : BitVec 3) (b : BitVec 3)  -- PANDN, R98
  | pnot (g : BitVec 4) (d : BitVec 3) (a : BitVec 3)  -- PNOT, R98
  | pmov (g : BitVec 4) (d : BitVec 3) (a : BitVec 3)  -- PMOV, R98
  | sel (g : BitVec 4) (d : BitVec 6) (a : BitVec 6) (b : BitVec 6) (n : BitVec 1) (p : BitVec 3)  -- SEL, R99
  | adds (g : BitVec 4) (d : BitVec 6) (a : BitVec 6) (b : BitVec 6) (k : BitVec 4)  -- ADDS, R96
  | fadd (g : BitVec 4) (d : BitVec 6) (a : BitVec 6) (b : BitVec 6)  -- FADD, R126
  | fsub (g : BitVec 4) (d : BitVec 6) (a : BitVec 6) (b : BitVec 6)  -- FSUB, R126
  | fmul (g : BitVec 4) (d : BitVec 6) (a : BitVec 6) (b : BitVec 6)  -- FMUL, R126
  | fma (g : BitVec 4) (d : BitVec 6) (a : BitVec 6) (b : BitVec 6)  -- FMA, R126
  | fdiv (g : BitVec 4) (d : BitVec 6) (a : BitVec 6) (b : BitVec 6)  -- FDIV, R126
  | fsqrt (g : BitVec 4) (d : BitVec 6) (a : BitVec 6)  -- FSQRT, R126
  | fmin (g : BitVec 4) (d : BitVec 6) (a : BitVec 6) (b : BitVec 6)  -- FMIN, R128
  | fmax (g : BitVec 4) (d : BitVec 6) (a : BitVec 6) (b : BitVec 6)  -- FMAX, R128
  | fabs (g : BitVec 4) (d : BitVec 6) (a : BitVec 6)  -- FABS, R128
  | fneg (g : BitVec 4) (d : BitVec 6) (a : BitVec 6)  -- FNEG, R128
  | fclass (g : BitVec 4) (d : BitVec 6) (a : BitVec 6)  -- FCLASS, R128
  | fcvt (g : BitVec 4) (d : BitVec 6) (a : BitVec 6) (x : BitVec 3) (y : BitVec 3) (r : BitVec 2)  -- FCVT, R129
  | fcmp (g : BitVec 4) (p : BitVec 3) (c : BitVec 3) (a : BitVec 6) (b : BitVec 6)  -- FCMP, R132
  | br (g : BitVec 4) (d : BitVec 22)  -- BR, R100
  | call (g : BitVec 4) (d : BitVec 22)  -- CALL, R101
  | jmpr (g : BitVec 4) (a : BitVec 6)  -- JMPR, R102
  | callr (g : BitVec 4) (a : BitVec 6)  -- CALLR, R101
  | ret (g : BitVec 4)  -- RET, R103
  | loop (g : BitVec 4) (n : BitVec 1) (a : BitVec 6) (i : BitVec 10)  -- LOOP, R105
  | ldb (g : BitVec 4) (d : BitVec 6) (b : BitVec 6) (i : BitVec 10)  -- LDB, R167
  | ldh (g : BitVec 4) (d : BitVec 6) (b : BitVec 6) (i : BitVec 10)  -- LDH, R167
  | ldw (g : BitVec 4) (d : BitVec 6) (b : BitVec 6) (i : BitVec 10)  -- LDW, R167
  | ldd (g : BitVec 4) (d : BitVec 6) (b : BitVec 6) (i : BitVec 10)  -- LDD, R167
  | ldbu (g : BitVec 4) (d : BitVec 6) (b : BitVec 6) (i : BitVec 10)  -- LDBU, R167
  | ldhu (g : BitVec 4) (d : BitVec 6) (b : BitVec 6) (i : BitVec 10)  -- LDHU, R167
  | ldwu (g : BitVec 4) (d : BitVec 6) (b : BitVec 6) (i : BitVec 10)  -- LDWU, R167
  | stb (g : BitVec 4) (d : BitVec 6) (b : BitVec 6) (i : BitVec 10)  -- STB, R167
  | sth (g : BitVec 4) (d : BitVec 6) (b : BitVec 6) (i : BitVec 10)  -- STH, R167
  | stw (g : BitVec 4) (d : BitVec 6) (b : BitVec 6) (i : BitVec 10)  -- STW, R167
  | std (g : BitVec 4) (d : BitVec 6) (b : BitVec 6) (i : BitVec 10)  -- STD, R167
  | amo (g : BitVec 4) (d : BitVec 6) (a : BitVec 6) (b : BitVec 6) (o : BitVec 4)  -- AMO, R171
  | amoAcq (g : BitVec 4) (d : BitVec 6) (a : BitVec 6) (b : BitVec 6) (o : BitVec 4)  -- AMO_ACQ, R172
  | amoRel (g : BitVec 4) (d : BitVec 6) (a : BitVec 6) (b : BitVec 6) (o : BitVec 4)  -- AMO_REL, R172
  | amoAr (g : BitVec 4) (d : BitVec 6) (a : BitVec 6) (b : BitVec 6) (o : BitVec 4)  -- AMO_AR, R172
  | fence (g : BitVec 4) (s : BitVec 2)  -- FENCE, R220
  | fenceAcq (g : BitVec 4) (s : BitVec 2)  -- FENCE_ACQ, R220
  | fenceRel (g : BitVec 4) (s : BitVec 2)  -- FENCE_REL, R220
  | bpost (g : BitVec 4) (a : BitVec 6) (b : BitVec 6)  -- BPOST, R453
  | bwait (g : BitVec 4) (a : BitVec 6)  -- BWAIT, R454
  | tokw (g : BitVec 4) (e : BitVec 1)  -- TOKW, R240
  | toks (g : BitVec 4) (e : BitVec 1)  -- TOKS, R240
  | send (g : BitVec 4) (a : BitVec 6) (b : BitVec 6)  -- SEND, R246
  | recv (g : BitVec 4) (d : BitVec 6)  -- RECV, R247
  | trap (g : BitVec 4) (c : BitVec 6)  -- TRAP, R141
  | svc (g : BitVec 4) (c : BitVec 6)  -- SVC, R141
  | eret (g : BitVec 4)  -- ERET, R142
  | exit (g : BitVec 4)  -- EXIT, R143
  | yield (g : BitVec 4)  -- YIELD, R144
  | wait (g : BitVec 4) (d : BitVec 6) (a : BitVec 6)  -- WAIT, R145
  | gets (g : BitVec 4) (d : BitVec 6) (s : BitVec 10)  -- GETS, R137
  | scnr (g : BitVec 4) (d : BitVec 6) (a : BitVec 6)  -- SCNR, R149
  | puts (g : BitVec 4) (a : BitVec 6) (s : BitVec 10)  -- PUTS, R137
  | scnw (g : BitVec 4) (d : BitVec 6) (a : BitVec 6)  -- SCNW, R149
  | clkdiv (g : BitVec 4) (d : BitVec 6) (a : BitVec 6) (e : BitVec 2)  -- CLKDIV, R146
  | launch (g : BitVec 4) (d : BitVec 6) (a : BitVec 6)  -- LAUNCH, R415
  | depdone (g : BitVec 4) (a : BitVec 6)  -- DEPDONE, R416
  | cfgld (g : BitVec 4) (a : BitVec 6) (f : BitVec 4)  -- CFGLD, R283
  | cfgpart (g : BitVec 4) (a : BitVec 6) (b : BitVec 6) (f : BitVec 4)  -- CFGPART, R284
  | fire (g : BitVec 4) (a : BitVec 6) (b : BitVec 6) (f : BitVec 4)  -- FIRE, R285
  | bind (g : BitVec 4) (a : BitVec 6) (b : BitVec 6) (f : BitVec 4)  -- BIND, R286
  | tset (g : BitVec 4) (a : BitVec 6) (b : BitVec 6) (f : BitVec 4)  -- TSET, R287
  | cstop (g : BitVec 4) (a : BitVec 6) (f : BitVec 4)  -- CSTOP, R288
  | cpys (g : BitVec 4) (a : BitVec 6) (b : BitVec 6) (f : BitVec 4)  -- CPYS, R248
  | cpyd (g : BitVec 4) (a : BitVec 6) (b : BitVec 6) (f : BitVec 4)  -- CPYD, R248
  | copy (g : BitVec 4) (a : BitVec 6) (b : BitVec 6) (f : BitVec 4)  -- COPY, R251
  | cpyf (g : BitVec 4) (a : BitVec 6) (b : BitVec 6) (f : BitVec 4)  -- CPYF, R248
  | efence (g : BitVec 4) (m : BitVec 2)  -- EFENCE, R243
  | eqry (g : BitVec 4) (d : BitVec 6) (m : BitVec 2)  -- EQRY, R244
  | instructionCompletion (tile : Nat) (slot : Nat) (k : Nat)  -- INSTRUCTION_COMPLETION, R121
  | trapEntry (tile : Nat) (slot : Nat)  -- TRAP_ENTRY, R140
  | waitTimerExpiry (tile : Nat) (slot : Nat)  -- WAIT_TIMER_EXPIRY, R145
  | taskState2Stop (tile : Nat) (slot : Nat)  -- TASK_STATE_2_STOP, R391
  | taskState1Stop (tile : Nat) (slot : Nat)  -- TASK_STATE_1_STOP, R391
  | preemptOverrun (tile : Nat) (slot : Nat)  -- PREEMPT_OVERRUN, R392
  | courtWindowCompletion (tile : Nat) (slot : Nat)  -- COURT_WINDOW_COMPLETION, R170
  | scanCompletion (tile : Nat) (slot : Nat)  -- SCAN_COMPLETION, R150
  | clkdivEffect (tile : Nat)  -- CLKDIV_EFFECT, R146
  | commandStart (tile : Nat) (eng : Eng)  -- COMMAND_START, R234
  | commandRetire (tile : Nat) (eng : Eng)  -- COMMAND_RETIRE, R235
  | cfgldCheck (tile : Nat)  -- CFGLD_CHECK, R283
  | cfgpartWrite (tile : Nat)  -- CFGPART_WRITE, R284
  | bindPlace (tile : Nat)  -- BIND_PLACE, R286
  | copyComplete (tile : Nat) (k : Nat)  -- COPY_COMPLETE, R251
  | busyResend (node : Node) (k : Nat)  -- BUSY_RESEND, R369
  | bankGrant (tile : Nat) (bank : Nat)  -- BANK_GRANT, R157
  | changeNotice (tile : Nat) (word : Nat)  -- CHANGE_NOTICE, R455
  | bwaitRepoll (tile : Nat) (slot : Nat)  -- BWAIT_REPOLL, R455
  | baseDieRequest (die : Nat) (k : Nat)  -- BASE_DIE_REQUEST, R176
  | rmwWritePhase (die : Nat) (k : Nat)  -- RMW_WRITE_PHASE, R177
  | hbmWheelSlot (hbm : Nat) (pch : Nat)  -- HBM_WHEEL_SLOT, R178
  | baseDieReply (tile : Nat)  -- BASE_DIE_REPLY, R176
  | granuleEviction (die : Nat) (frame : Nat)  -- GRANULE_EVICTION, R165
  | granuleMigration (die : Nat) (frame : Nat)  -- GRANULE_MIGRATION, R165
  | residentNotice (tile : Nat)  -- RESIDENT_NOTICE, R352
  | mcellReply (tile : Nat) (m : Nat)  -- MCELL_REPLY, R353
  | decodeTableLoad (tile : Nat) (m : Nat)  -- DECODE_TABLE_LOAD, R348
  | xboxTokenMove (tile : Nat) (net : Net) (xbox : Nat) (port : Nat)  -- XBOX_TOKEN_MOVE, R261
  | whistleWave (tile : Nat)  -- WHISTLE_WAVE, R278
  | statusRecordWrite (tile : Nat)  -- STATUS_RECORD_WRITE, R280
  | cellAdd (tile : Nat) (cell : Nat) (slot : Nat)  -- CELL_ADD, R292
  | cellSub (tile : Nat) (cell : Nat) (slot : Nat)  -- CELL_SUB, R292
  | cellMul (tile : Nat) (cell : Nat) (slot : Nat)  -- CELL_MUL, R292
  | cellMulh (tile : Nat) (cell : Nat) (slot : Nat)  -- CELL_MULH, R292
  | cellMac (tile : Nat) (cell : Nat) (slot : Nat)  -- CELL_MAC, R292
  | cellAnd (tile : Nat) (cell : Nat) (slot : Nat)  -- CELL_AND, R292
  | cellOr (tile : Nat) (cell : Nat) (slot : Nat)  -- CELL_OR, R292
  | cellXor (tile : Nat) (cell : Nat) (slot : Nat)  -- CELL_XOR, R292
  | cellShl (tile : Nat) (cell : Nat) (slot : Nat)  -- CELL_SHL, R292
  | cellShr (tile : Nat) (cell : Nat) (slot : Nat)  -- CELL_SHR, R292
  | cellSra (tile : Nat) (cell : Nat) (slot : Nat)  -- CELL_SRA, R292
  | cellMin (tile : Nat) (cell : Nat) (slot : Nat)  -- CELL_MIN, R292
  | cellMax (tile : Nat) (cell : Nat) (slot : Nat)  -- CELL_MAX, R292
  | cellAbs (tile : Nat) (cell : Nat) (slot : Nat)  -- CELL_ABS, R292
  | cellSat (tile : Nat) (cell : Nat) (slot : Nat)  -- CELL_SAT, R292
  | cellClamp (tile : Nat) (cell : Nat) (slot : Nat)  -- CELL_CLAMP, R292
  | cellCmp (tile : Nat) (cell : Nat) (slot : Nat)  -- CELL_CMP, R292
  | cellSel (tile : Nat) (cell : Nat) (slot : Nat)  -- CELL_SEL, R292
  | cellFadd (tile : Nat) (cell : Nat) (slot : Nat)  -- CELL_FADD, R293
  | cellFsub (tile : Nat) (cell : Nat) (slot : Nat)  -- CELL_FSUB, R293
  | cellFmul (tile : Nat) (cell : Nat) (slot : Nat)  -- CELL_FMUL, R293
  | cellFma (tile : Nat) (cell : Nat) (slot : Nat)  -- CELL_FMA, R293
  | cellFmin (tile : Nat) (cell : Nat) (slot : Nat)  -- CELL_FMIN, R293
  | cellFmax (tile : Nat) (cell : Nat) (slot : Nat)  -- CELL_FMAX, R293
  | cellFabs (tile : Nat) (cell : Nat) (slot : Nat)  -- CELL_FABS, R293
  | cellFneg (tile : Nat) (cell : Nat) (slot : Nat)  -- CELL_FNEG, R293
  | cellFcmp (tile : Nat) (cell : Nat) (slot : Nat)  -- CELL_FCMP, R293
  | rcp (tile : Nat) (cell : Nat) (slot : Nat)  -- RCP, R293
  | rsqrt (tile : Nat) (cell : Nat) (slot : Nat)  -- RSQRT, R293
  | exp2 (tile : Nat) (cell : Nat) (slot : Nat)  -- EXP2, R293
  | log2 (tile : Nat) (cell : Nat) (slot : Nat)  -- LOG2, R293
  | scale (tile : Nat) (cell : Nat) (slot : Nat)  -- SCALE, R293
  | rsum (tile : Nat) (cell : Nat) (slot : Nat)  -- RSUM, R294
  | rmax (tile : Nat) (cell : Nat) (slot : Nat)  -- RMAX, R294
  | rmin (tile : Nat) (cell : Nat) (slot : Nat)  -- RMIN, R294
  | acc (tile : Nat) (cell : Nat) (slot : Nat)  -- ACC, R295
  | shuf (tile : Nat) (cell : Nat) (slot : Nat)  -- SHUF, R296
  | rot (tile : Nat) (cell : Nat) (slot : Nat)  -- ROT, R296
  | bcast (tile : Nat) (cell : Nat) (slot : Nat)  -- BCAST, R296
  | pack (tile : Nat) (cell : Nat) (slot : Nat)  -- PACK, R297
  | unpack (tile : Nat) (cell : Nat) (slot : Nat)  -- UNPACK, R297
  | reord (tile : Nat) (cell : Nat) (slot : Nat)  -- REORD, R298
  | pass (tile : Nat) (cell : Nat) (slot : Nat)  -- PASS, R300
  | fifo (tile : Nat) (cell : Nat) (slot : Nat)  -- FIFO, R299
  | steer (tile : Nat) (cell : Nat) (slot : Nat)  -- STEER, R300
  | merge (tile : Nat) (cell : Nat) (slot : Nat)  -- MERGE, R300
  | gate (tile : Nat) (cell : Nat) (slot : Nat)  -- GATE, R300
  | tagget (tile : Nat) (cell : Nat) (slot : Nat)  -- TAGGET, R270
  | tagput (tile : Nat) (cell : Nat) (slot : Nat)  -- TAGPUT, R300
  | cellCnt (tile : Nat) (cell : Nat) (slot : Nat)  -- CELL_CNT, R275
  | join (tile : Nat) (cell : Nat) (slot : Nat)  -- JOIN, R300
  | sink (tile : Nat) (cell : Nat) (slot : Nat)  -- SINK, R300
  | aff (tile : Nat) (acell : Nat)  -- AFF, R330
  | idx (tile : Nat) (acell : Nat)  -- IDX, R331
  | acellCnt (tile : Nat) (acell : Nat)  -- ACELL_CNT, R332
  | lds (tile : Nat) (m : Nat)  -- LDS, R340
  | sts (tile : Nat) (m : Nat)  -- STS, R341
  | gath (tile : Nat) (m : Nat)  -- GATH, R340
  | scat (tile : Nat) (m : Nat)  -- SCAT, R341
  | atom (tile : Nat) (m : Nat)  -- ATOM, R342
  | tas (tile : Nat) (m : Nat)  -- TAS, R342
  | dcmp (tile : Nat) (m : Nat)  -- DCMP, R347
  | qnt (tile : Nat) (m : Nat)  -- QNT, R341
  | rld (tile : Nat) (m : Nat)  -- RLD, R340
  | rst (tile : Nat) (m : Nat)  -- RST, R341
  | ramo (tile : Nat) (m : Nat)  -- RAMO, R342
  | counterPort (tile : Nat) (m : Nat)  -- COUNTER_PORT, R332
  | wld (tile : Nat)  -- WLD, R307
  | scaleRowTake (tile : Nat)  -- SCALE_ROW_TAKE, R308
  | arrayPass (tile : Nat)  -- ARRAY_PASS, R310
  | accw (tile : Nat)  -- ACCW, R310
  | mma (tile : Nat)  -- MMA, R311
  | mmaG (tile : Nat)  -- MMA_G, R311
  | accr (tile : Nat)  -- ACCR, R310
  | flitSend (node : Node) (out : Nat)  -- FLIT_SEND, R366
  | trim (node : Node) (out : Nat)  -- TRIM, R372
  | requestArrival (node : Node)  -- REQUEST_ARRIVAL, R369
  | reseqRelease (node : Node)  -- RESEQ_RELEASE, R370
  | responseArrival (node : Node)  -- RESPONSE_ARRIVAL, R364
  | buntHeaderArrival (node : Node)  -- BUNT_HEADER_ARRIVAL, R372
  | letSend (node : Node)  -- LET_SEND, R373
  | letBucketRefill (node : Node)  -- LET_BUCKET_REFILL, R373
  | letReceive (node : Node)  -- LET_RECEIVE, R374
  | imageHeaderRead (entry : Nat) (img : Nat)  -- IMAGE_HEADER_READ, R422
  | imageReadComplete (entry : Nat) (img : Nat)  -- IMAGE_READ_COMPLETE, R423
  | taskStart (entry : Nat)  -- TASK_START, R423
  | launchEnd (entry : Nat)  -- LAUNCH_END, R427
  | launchAbort (entry : Nat)  -- LAUNCH_ABORT, R386
  | scanOut (court : Nat)  -- SCAN_OUT, R401
  | illegal (w : BitVec 32)  -- ILLEGAL, R54
  | registerWrite (addr : BitVec 64) (value : BitVec 64)  -- REGISTER_WRITE, R2
  | hostRequest (asid : Nat) (addr : Nat) (n : Nat) (data : List (BitVec 8))  -- HOST_REQUEST, R379
  | launchPacketArrival (words : List (BitVec 64))  -- LAUNCH_PACKET_ARRIVAL, R379
  | preemptRequest (court : Nat) (reason : Nat)  -- PREEMPT_REQUEST, R387
  | ackTimeout (node : Node) (k : Nat)  -- ACK_TIMEOUT, R371
  | pairTimeout (tile : Nat)  -- PAIR_TIMEOUT, R323
  | drainTimeout (tile : Nat)  -- DRAIN_TIMEOUT, R390
  | trapsetWrite (tile : Nat) (value : BitVec 16)  -- TRAPSET_WRITE, R142
  | engineReset (tile : Nat) (mask : BitVec 2)  -- ENGINE_RESET, R239
  | ringTailWrite (court : Nat) (dirty : Bool) (value : BitVec 32)  -- RING_TAIL_WRITE, R439
  | laneShed (die : Nat) (port : Nat) (lanes : Nat)  -- LANE_SHED, R377
  | linkRetrain (die : Nat) (port : Nat) (ok : Bool)  -- LINK_RETRAIN, R377
  | linkReplay (die : Nat) (port : Nat) (n : Nat)  -- LINK_REPLAY, R376
  | roleCheck (powerGood : BitVec 16)  -- ROLE_CHECK, R442
  | powerControllerStep (energy : List (Nat × Nat))  -- POWER_CONTROLLER_STEP, R458
  | rstnRise (pkgid : BitVec 12) (railsGood : Bool)  -- RSTN_RISE, R478
  | phaseAuth (fw : FwResult)  -- PHASE_AUTH, R478
  | phaseBase (hbmOk : BitVec 8) (cxl : List Nat) (base : List (List (BitVec 64)))  -- PHASE_BASE, R478
  | phaseLinks (ngambiOk : Bool)  -- PHASE_LINKS, R478
  | portTraining (dir : Nat) (port : Nat) (word : TrainWord)  -- PORT_TRAINING, R479
  | portTrainingTimeout (dir : Nat) (port : Nat)  -- PORT_TRAINING_TIMEOUT, R479
  | phaseRoles (pats : List (BitVec 32))  -- PHASE_ROLES, R478
  | softError (place : ErrPlace) (multi : Bool)  -- SOFT_ERROR, R152
  | preemptRelease  -- PREEMPT_RELEASE, R388
  | post  -- POST, R413
  | abort  -- ABORT, R417
  | cancel  -- CANCEL, R417
  | preempt  -- PREEMPT, R387
  | resume  -- RESUME, R403
  | intervalBoundary  -- INTERVAL_BOUNDARY, R419
  | create  -- CREATE, R431
  | destroy  -- DESTROY, R432
  | grant  -- GRANT, R433
  | courtPreempt  -- COURT_PREEMPT, R434
  | rwrite  -- RWRITE, R437
  | attest  -- ATTEST, R444
  | roleDrain  -- ROLE_DRAIN, R442
  | roleFlush  -- ROLE_FLUSH, R442
  | roleGate  -- ROLE_GATE, R442
  | roleEnum  -- ROLE_ENUM, R442
  | roleRelease  -- ROLE_RELEASE, R442
  | roleAbort  -- ROLE_ABORT, R442
  | phaseRun  -- PHASE_RUN, R478
  | thermtrip  -- THERMTRIP, R477
  | packageReset  -- PACKAGE_RESET, R475
deriving DecidableEq, Repr

end Sys2Proof
end

