-- ==== Sys2Proof/WellFormed.lean ====
section
/-! DEFINITION. Which instructions and events are well formed: the limits the encoding tables put on the fields of
a TCC word (spec/02_encoding.md R43 to R54), and for an event the numbers of the units the part has (R6, R14, R22). -/

namespace Sys2Proof

/-- The selectors that R134 assigns. -/
def selectorAssigned (s : BitVec 10) : Bool :=
  let n := s.toNat
  decide (n ≤ 0x004) || (decide (0x008 ≤ n) && decide (n ≤ 0x00C)) || (decide (0x010 ≤ n) && decide (n ≤ 0x012)) ||
  (decide (0x014 ≤ n) && decide (n ≤ 0x016)) || n == 0x018 || n == 0x020 ||
  (decide (0x030 ≤ n) && decide (n ≤ 0x032)) || n == 0x038 || n == 0x040 ||
  (decide (0x048 ≤ n) && decide (n ≤ 0x04A)) || n == 0x050 || (decide (0x060 ≤ n) && decide (n ≤ 0x067))

/-- Exactly one of the two format codes of FCVT is W36, and neither is 7 (R50). -/
def fcvtPairOk (x y : BitVec 3) : Bool :=
  x != 7 && y != 7 && ((x == 0) != (y == 0))

/-- A place of the fabric that the package has (R14). -/
def Node.wf : Node → Bool
  | .tile t => decide (t < 768)
  | .die d => decide (d < 4)

/-- The tile an error strikes exists (R14). -/
def ErrPlace.wf : ErrPlace → Bool
  | .spill t w => decide (t < 768) && decide (w < 8192)
  | .scratch t w => decide (t < 768) && decide (w < 524288)
  | .istore t w => decide (t < 768) && decide (w < 32768)
  | .ctx t w => decide (t < 768) && decide (w < 32768)
  | .acc t w => decide (t < 768) && decide (w < 131072)
  | .hbm g => decide (g < 2 ^ 34)
  | .second g => decide (g < 2 ^ 38)

/-- An instruction that some word encodes, or an event about units the part has. -/
def Instr.wf : Instr → Bool
  | .add g _ _ _ => g != 8#4
  | .sub g _ _ _ => g != 8#4
  | .and g _ _ _ => g != 8#4
  | .or g _ _ _ => g != 8#4
  | .xor g _ _ _ => g != 8#4
  | .andn g _ _ _ => g != 8#4
  | .shl g _ _ _ => g != 8#4
  | .shr g _ _ _ => g != 8#4
  | .sra g _ _ _ => g != 8#4
  | .rol g _ _ _ => g != 8#4
  | .min g _ _ _ => g != 8#4
  | .max g _ _ _ => g != 8#4
  | .minu g _ _ _ => g != 8#4
  | .maxu g _ _ _ => g != 8#4
  | .mul g _ _ _ => g != 8#4
  | .mulh g _ _ _ => g != 8#4
  | .mulhu g _ _ _ => g != 8#4
  | .madd g _ _ _ => g != 8#4
  | .div g _ _ _ => g != 8#4
  | .divu g _ _ _ => g != 8#4
  | .rem g _ _ _ => g != 8#4
  | .remu g _ _ _ => g != 8#4
  | .clz g _ _ => g != 8#4
  | .ctz g _ _ => g != 8#4
  | .popc g _ _ => g != 8#4
  | .brev g _ _ => g != 8#4
  | .bswap g _ _ => g != 8#4
  | .sextb g _ _ => g != 8#4
  | .sexth g _ _ => g != 8#4
  | .sextw g _ _ => g != 8#4
  | .zextb g _ _ => g != 8#4
  | .zexth g _ _ => g != 8#4
  | .zextw g _ _ => g != 8#4
  | .addi g _ _ _ => g != 8#4
  | .andi g _ _ _ => g != 8#4
  | .ori g _ _ _ => g != 8#4
  | .xori g _ _ _ => g != 8#4
  | .shli g _ _ _ => g != 8#4
  | .shri g _ _ _ => g != 8#4
  | .srai g _ _ _ => g != 8#4
  | .movi g _ _ => g != 8#4
  | .movh g _ _ => g != 8#4
  | .cmp g _ c _ _ => g != 8#4 && decide (c.toNat < 6)
  | .cmpi g _ c _ _ => g != 8#4 && decide (c.toNat < 6)
  | .pand g _ _ _ => g != 8#4
  | .por g _ _ _ => g != 8#4
  | .pxor g _ _ _ => g != 8#4
  | .pandn g _ _ _ => g != 8#4
  | .pnot g _ _ => g != 8#4
  | .pmov g _ _ => g != 8#4
  | .sel g _ _ _ _ _ => g != 8#4
  | .adds g _ _ _ _ => g != 8#4
  | .fadd g _ _ _ => g != 8#4
  | .fsub g _ _ _ => g != 8#4
  | .fmul g _ _ _ => g != 8#4
  | .fma g _ _ _ => g != 8#4
  | .fdiv g _ _ _ => g != 8#4
  | .fsqrt g _ _ => g != 8#4
  | .fmin g _ _ _ => g != 8#4
  | .fmax g _ _ _ => g != 8#4
  | .fabs g _ _ => g != 8#4
  | .fneg g _ _ => g != 8#4
  | .fclass g _ _ => g != 8#4
  | .fcvt g _ _ x y _ => g != 8#4 && fcvtPairOk x y
  | .fcmp g _ c _ _ => g != 8#4 && decide (c.toNat < 6)
  | .br g _ => g != 8#4
  | .call g _ => g != 8#4
  | .jmpr g _ => g != 8#4
  | .callr g _ => g != 8#4
  | .ret g => g != 8#4
  | .loop g _ _ i => g != 8#4 && decide (i ≠ 0)
  | .ldb g _ _ _ => g != 8#4
  | .ldh g _ _ _ => g != 8#4
  | .ldw g _ _ _ => g != 8#4
  | .ldd g _ _ _ => g != 8#4
  | .ldbu g _ _ _ => g != 8#4
  | .ldhu g _ _ _ => g != 8#4
  | .ldwu g _ _ _ => g != 8#4
  | .stb g _ _ _ => g != 8#4
  | .sth g _ _ _ => g != 8#4
  | .stw g _ _ _ => g != 8#4
  | .std g _ _ _ => g != 8#4
  | .amo g _ _ _ o => g != 8#4 && decide (o.toNat < 10)
  | .amoAcq g _ _ _ o => g != 8#4 && decide (o.toNat < 10)
  | .amoRel g _ _ _ o => g != 8#4 && decide (o.toNat < 10)
  | .amoAr g _ _ _ o => g != 8#4 && decide (o.toNat < 10)
  | .fence g _ => g != 8#4
  | .fenceAcq g _ => g != 8#4
  | .fenceRel g _ => g != 8#4
  | .bpost g _ _ => g != 8#4
  | .bwait g _ => g != 8#4
  | .tokw g _ => g != 8#4
  | .toks g _ => g != 8#4
  | .send g _ _ => g != 8#4
  | .recv g _ => g != 8#4
  | .trap g _ => g != 8#4
  | .svc g _ => g != 8#4
  | .eret g => g != 8#4
  | .exit g => g != 8#4
  | .yield g => g != 8#4
  | .wait g _ _ => g != 8#4
  | .gets g _ s => g != 8#4 && selectorAssigned s
  | .scnr g _ _ => g != 8#4
  | .puts g _ s => g != 8#4 && selectorAssigned s
  | .scnw g _ _ => g != 8#4
  | .clkdiv g _ _ e => g != 8#4 && decide (e ≠ 3)
  | .launch g _ _ => g != 8#4
  | .depdone g _ => g != 8#4
  | .cfgld g _ _ => g != 8#4
  | .cfgpart g _ _ _ => g != 8#4
  | .fire g _ _ _ => g != 8#4
  | .bind g _ _ _ => g != 8#4
  | .tset g _ _ _ => g != 8#4
  | .cstop g _ _ => g != 8#4
  | .cpys g _ _ _ => g != 8#4
  | .cpyd g _ _ _ => g != 8#4
  | .copy g _ _ _ => g != 8#4
  | .cpyf g _ _ _ => g != 8#4
  | .efence g m => g != 8#4 && decide (m ≠ 0)
  | .eqry g _ m => g != 8#4 && decide (m ≠ 0)
  | .instructionCompletion tile slot _ => decide (tile < 768) && decide (slot < 16)
  | .trapEntry tile slot => decide (tile < 768) && decide (slot < 16)
  | .waitTimerExpiry tile slot => decide (tile < 768) && decide (slot < 16)
  | .taskState2Stop tile slot => decide (tile < 768) && decide (slot < 16)
  | .taskState1Stop tile slot => decide (tile < 768) && decide (slot < 16)
  | .preemptOverrun tile slot => decide (tile < 768) && decide (slot < 16)
  | .courtWindowCompletion tile slot => decide (tile < 768) && decide (slot < 16)
  | .scanCompletion tile slot => decide (tile < 768) && decide (slot < 16)
  | .clkdivEffect tile => decide (tile < 768)
  | .trapsetWrite tile _ => decide (tile < 768)
  | .engineReset tile _ => decide (tile < 768)
  | .registerWrite _ _ => true
  | .commandStart tile eng => decide (tile < 768) && (eng != .tcc)
  | .commandRetire tile eng => decide (tile < 768) && (eng != .tcc)
  | .cfgldCheck tile => decide (tile < 768)
  | .cfgpartWrite tile => decide (tile < 768)
  | .bindPlace tile => decide (tile < 768)
  | .copyComplete tile _ => decide (tile < 768)
  | .busyResend node _ => node.wf
  | .bankGrant tile bank => decide (tile < 768) && decide (bank < 32)
  | .changeNotice tile _ => decide (tile < 768)
  | .bwaitRepoll tile slot => decide (tile < 768) && decide (slot < 16)
  | .baseDieRequest die _ => decide (die < 4)
  | .rmwWritePhase die _ => decide (die < 4)
  | .hbmWheelSlot hbm pch => decide (hbm < 8) && decide (pch < 64)
  | .baseDieReply tile => decide (tile < 768)
  | .granuleEviction die frame => decide (die < 4) && decide (frame < 262144)
  | .granuleMigration die frame => decide (die < 4) && decide (frame < 262144)
  | .residentNotice tile => decide (tile < 768)
  | .mcellReply tile m => decide (tile < 768) && decide (m < 32)
  | .decodeTableLoad tile m => decide (tile < 768) && decide (m < 32)
  | .xboxTokenMove tile _ xbox _ => decide (tile < 768) && decide (xbox < 128)
  | .whistleWave tile => decide (tile < 768)
  | .statusRecordWrite tile => decide (tile < 768)
  | .cellAdd tile cell slot => decide (tile < 768) && decide (cell < 96) && decide (slot < 4)
  | .cellSub tile cell slot => decide (tile < 768) && decide (cell < 96) && decide (slot < 4)
  | .cellMul tile cell slot => decide (tile < 768) && decide (cell < 96) && decide (slot < 4)
  | .cellMulh tile cell slot => decide (tile < 768) && decide (cell < 96) && decide (slot < 4)
  | .cellMac tile cell slot => decide (tile < 768) && decide (cell < 96) && decide (slot < 4)
  | .cellAnd tile cell slot => decide (tile < 768) && decide (cell < 96) && decide (slot < 4)
  | .cellOr tile cell slot => decide (tile < 768) && decide (cell < 96) && decide (slot < 4)
  | .cellXor tile cell slot => decide (tile < 768) && decide (cell < 96) && decide (slot < 4)
  | .cellShl tile cell slot => decide (tile < 768) && decide (cell < 96) && decide (slot < 4)
  | .cellShr tile cell slot => decide (tile < 768) && decide (cell < 96) && decide (slot < 4)
  | .cellSra tile cell slot => decide (tile < 768) && decide (cell < 96) && decide (slot < 4)
  | .cellMin tile cell slot => decide (tile < 768) && decide (cell < 96) && decide (slot < 4)
  | .cellMax tile cell slot => decide (tile < 768) && decide (cell < 96) && decide (slot < 4)
  | .cellAbs tile cell slot => decide (tile < 768) && decide (cell < 96) && decide (slot < 4)
  | .cellSat tile cell slot => decide (tile < 768) && decide (cell < 96) && decide (slot < 4)
  | .cellClamp tile cell slot => decide (tile < 768) && decide (cell < 96) && decide (slot < 4)
  | .cellCmp tile cell slot => decide (tile < 768) && decide (cell < 96) && decide (slot < 4)
  | .cellSel tile cell slot => decide (tile < 768) && decide (cell < 96) && decide (slot < 4)
  | .cellFadd tile cell slot => decide (tile < 768) && decide (cell < 96) && decide (slot < 4)
  | .cellFsub tile cell slot => decide (tile < 768) && decide (cell < 96) && decide (slot < 4)
  | .cellFmul tile cell slot => decide (tile < 768) && decide (cell < 96) && decide (slot < 4)
  | .cellFma tile cell slot => decide (tile < 768) && decide (cell < 96) && decide (slot < 4)
  | .cellFmin tile cell slot => decide (tile < 768) && decide (cell < 96) && decide (slot < 4)
  | .cellFmax tile cell slot => decide (tile < 768) && decide (cell < 96) && decide (slot < 4)
  | .cellFabs tile cell slot => decide (tile < 768) && decide (cell < 96) && decide (slot < 4)
  | .cellFneg tile cell slot => decide (tile < 768) && decide (cell < 96) && decide (slot < 4)
  | .cellFcmp tile cell slot => decide (tile < 768) && decide (cell < 96) && decide (slot < 4)
  | .rcp tile cell slot => decide (tile < 768) && decide (cell < 96) && decide (slot < 4)
  | .rsqrt tile cell slot => decide (tile < 768) && decide (cell < 96) && decide (slot < 4)
  | .exp2 tile cell slot => decide (tile < 768) && decide (cell < 96) && decide (slot < 4)
  | .log2 tile cell slot => decide (tile < 768) && decide (cell < 96) && decide (slot < 4)
  | .scale tile cell slot => decide (tile < 768) && decide (cell < 96) && decide (slot < 4)
  | .rsum tile cell slot => decide (tile < 768) && decide (cell < 96) && decide (slot < 4)
  | .rmax tile cell slot => decide (tile < 768) && decide (cell < 96) && decide (slot < 4)
  | .rmin tile cell slot => decide (tile < 768) && decide (cell < 96) && decide (slot < 4)
  | .acc tile cell slot => decide (tile < 768) && decide (cell < 96) && decide (slot < 4)
  | .shuf tile cell slot => decide (tile < 768) && decide (cell < 96) && decide (slot < 4)
  | .rot tile cell slot => decide (tile < 768) && decide (cell < 96) && decide (slot < 4)
  | .bcast tile cell slot => decide (tile < 768) && decide (cell < 96) && decide (slot < 4)
  | .pack tile cell slot => decide (tile < 768) && decide (cell < 96) && decide (slot < 4)
  | .unpack tile cell slot => decide (tile < 768) && decide (cell < 96) && decide (slot < 4)
  | .reord tile cell slot => decide (tile < 768) && decide (cell < 96) && decide (slot < 4)
  | .pass tile cell slot => decide (tile < 768) && decide (cell < 96) && decide (slot < 4)
  | .fifo tile cell slot => decide (tile < 768) && decide (cell < 96) && decide (slot < 4)
  | .steer tile cell slot => decide (tile < 768) && decide (cell < 96) && decide (slot < 4)
  | .merge tile cell slot => decide (tile < 768) && decide (cell < 96) && decide (slot < 4)
  | .gate tile cell slot => decide (tile < 768) && decide (cell < 96) && decide (slot < 4)
  | .tagget tile cell slot => decide (tile < 768) && decide (cell < 96) && decide (slot < 4)
  | .tagput tile cell slot => decide (tile < 768) && decide (cell < 96) && decide (slot < 4)
  | .cellCnt tile cell slot => decide (tile < 768) && decide (cell < 96) && decide (slot < 4)
  | .join tile cell slot => decide (tile < 768) && decide (cell < 96) && decide (slot < 4)
  | .sink tile cell slot => decide (tile < 768) && decide (cell < 96) && decide (slot < 4)
  | .aff tile acell => decide (tile < 768) && decide (acell < 16)
  | .idx tile acell => decide (tile < 768) && decide (acell < 16)
  | .acellCnt tile acell => decide (tile < 768) && decide (acell < 16)
  | .lds tile m => decide (tile < 768) && decide (m < 32)
  | .sts tile m => decide (tile < 768) && decide (m < 32)
  | .gath tile m => decide (tile < 768) && decide (m < 32)
  | .scat tile m => decide (tile < 768) && decide (m < 32)
  | .atom tile m => decide (tile < 768) && decide (m < 32)
  | .tas tile m => decide (tile < 768) && decide (m < 32)
  | .dcmp tile m => decide (tile < 768) && decide (m < 32)
  | .qnt tile m => decide (tile < 768) && decide (m < 32)
  | .rld tile m => decide (tile < 768) && decide (m < 32)
  | .rst tile m => decide (tile < 768) && decide (m < 32)
  | .ramo tile m => decide (tile < 768) && decide (m < 32)
  | .counterPort tile m => decide (tile < 768) && decide (m < 32)
  | .wld tile => decide (tile < 768)
  | .scaleRowTake tile => decide (tile < 768)
  | .arrayPass tile => decide (tile < 768)
  | .accw tile => decide (tile < 768)
  | .mma tile => decide (tile < 768)
  | .mmaG tile => decide (tile < 768)
  | .accr tile => decide (tile < 768)
  | .pairTimeout tile => decide (tile < 768)
  | .flitSend node _ => node.wf
  | .trim node _ => node.wf
  | .requestArrival node => node.wf
  | .reseqRelease node => node.wf
  | .responseArrival node => node.wf
  | .buntHeaderArrival node => node.wf
  | .letSend node => node.wf
  | .letBucketRefill node => node.wf
  | .letReceive node => node.wf
  | .ackTimeout node _ => node.wf
  | .linkReplay die _ _ => decide (die < 4)
  | .laneShed die _ _ => decide (die < 4)
  | .linkRetrain die _ _ => decide (die < 4)
  | .hostRequest asid addr n data => decide (asid < 2048) && decide (addr < 2 ^ 56) && decide (0 < n) && decide (n ≤ 256) && (data.isEmpty || data.length == n)
  | .launchPacketArrival _ => true
  | .post => true
  | .abort => true
  | .cancel => true
  | .preempt => true
  | .resume => true
  | .intervalBoundary => true
  | .imageHeaderRead entry img => decide (entry < 4096) && decide (img < 4)
  | .imageReadComplete entry img => decide (entry < 4096) && decide (img < 4)
  | .taskStart entry => decide (entry < 4096)
  | .launchEnd entry => decide (entry < 4096)
  | .launchAbort entry => decide (entry < 4096)
  | .preemptRequest court _ => decide (court < 64)
  | .drainTimeout tile => decide (tile < 768)
  | .scanOut court => decide (court < 64)
  | .preemptRelease => true
  | .create => true
  | .destroy => true
  | .grant => true
  | .courtPreempt => true
  | .rwrite => true
  | .attest => true
  | .ringTailWrite court _ _ => decide (court < 64)
  | .roleDrain => true
  | .roleFlush => true
  | .roleGate => true
  | .roleEnum => true
  | .roleCheck _ => true
  | .roleRelease => true
  | .roleAbort => true
  | .powerControllerStep _ => true
  | .rstnRise _ _ => true
  | .phaseAuth _ => true
  | .phaseBase _ _ _ => true
  | .phaseLinks _ => true
  | .portTraining _ _ _ => true
  | .portTrainingTimeout _ _ => true
  | .phaseRoles _ => true
  | .phaseRun => true
  | .thermtrip => true
  | .illegal _ => true
  | .packageReset => true
  | .softError place _ => place.wf

end Sys2Proof
end

