-- ==== Sys2Proof/Decode.lean ====
section
/-! DEFINITION. The decoder of TCC instruction words and the encoder, both written from the encoding tables of
spec/02_encoding.md (R42 to R54), and the reading of a word from its bytes (R1, R44). -/

namespace Sys2Proof

/-- Why a word is no defined instruction: the cases of R54 step 1. -/
inductive Reject where
  /-- fewer than four bytes were given -/
  | short
  /-- MAJ is 00, 09, 18 to 1F, 27, 3A, 3B or 3F -/
  | major
  /-- the guard is 0b1000 (R43) -/
  | guard
  /-- a fn, cmd, cc, kind, function, engine, format code, selector or count that is marked ILLEGAL -/
  | code
  /-- a reserved or must-be-zero bit or field is nonzero -/
  | reserved
deriving DecidableEq, Repr

/-- Field d, bits [21:16] (R42). -/
def fieldD (w : IWord) : BitVec 6 := w.extractLsb' 16 6
/-- Field a, bits [15:10]. -/
def fieldA (w : IWord) : BitVec 6 := w.extractLsb' 10 6
/-- Field b, bits [9:4]. -/
def fieldB (w : IWord) : BitVec 6 := w.extractLsb' 4 6
/-- Field fn, bits [3:0]. -/
def fieldFn (w : IWord) : BitVec 4 := w.extractLsb' 0 4
/-- Field imm10, bits [9:0]. -/
def fieldImm10 (w : IWord) : BitVec 10 := w.extractLsb' 0 10
/-- Field imm16, bits [15:0]. -/
def fieldImm16 (w : IWord) : BitVec 16 := w.extractLsb' 0 16
/-- Field disp22, bits [21:0]. -/
def fieldDisp22 (w : IWord) : BitVec 22 := w.extractLsb' 0 22
/-- The guard, bits [25:22] (R43). -/
def fieldGuard (w : IWord) : BitVec 4 := w.extractLsb' 22 4
/-- The major opcode, bits [31:26]. -/
def fieldMaj (w : IWord) : BitVec 6 := w.extractLsb' 26 6
/-- Field pd, bits [21:19] of F7. -/
def fieldPd (w : IWord) : BitVec 3 := w.extractLsb' 19 3
/-- Field cc, bits [18:16] of F7. -/
def fieldCc (w : IWord) : BitVec 3 := w.extractLsb' 16 3
/-- The token flags of F6, bits [9:6] (R53). -/
def fieldFlags (w : IWord) : BitVec 4 := w.extractLsb' 6 4
/-- The cmd code of F6, bits [5:0]. -/
def fieldCmd (w : IWord) : BitVec 6 := w.extractLsb' 0 6

/-- Accept `i` when a must-be-zero condition holds (R54). -/
def mustBeZero (ok : Bool) (i : Instr) : Except Reject Instr :=
  if ok then .ok i else .error .reserved

/-- MAJ 01, ALU (R46). -/
def decodeAlu (w : IWord) : Except Reject Instr :=
  let g := fieldGuard w
  let d := fieldD w
  let a := fieldA w
  let b := fieldB w
  match (fieldFn w).toNat with
  | 0 => .ok (.add g d a b)
  | 1 => .ok (.sub g d a b)
  | 2 => .ok (.and g d a b)
  | 3 => .ok (.or g d a b)
  | 4 => .ok (.xor g d a b)
  | 5 => .ok (.andn g d a b)
  | 6 => .ok (.shl g d a b)
  | 7 => .ok (.shr g d a b)
  | 8 => .ok (.sra g d a b)
  | 9 => .ok (.rol g d a b)
  | 10 => .ok (.min g d a b)
  | 11 => .ok (.max g d a b)
  | 12 => .ok (.minu g d a b)
  | 13 => .ok (.maxu g d a b)
  | _ => .error .code

/-- MAJ 02, MULDIV (R46). -/
def decodeMulDiv (w : IWord) : Except Reject Instr :=
  let g := fieldGuard w
  let d := fieldD w
  let a := fieldA w
  let b := fieldB w
  match (fieldFn w).toNat with
  | 0 => .ok (.mul g d a b)
  | 1 => .ok (.mulh g d a b)
  | 2 => .ok (.mulhu g d a b)
  | 3 => .ok (.madd g d a b)
  | 4 => .ok (.div g d a b)
  | 5 => .ok (.divu g d a b)
  | 6 => .ok (.rem g d a b)
  | 7 => .ok (.remu g d a b)
  | _ => .error .code

/-- MAJ 03, BITS: b = 0 (R45, R46). -/
def decodeBits (w : IWord) : Except Reject Instr :=
  let g := fieldGuard w
  let d := fieldD w
  let a := fieldA w
  let b := fieldB w
  match (fieldFn w).toNat with
  | 0 => mustBeZero (b == 0) (.clz g d a)
  | 1 => mustBeZero (b == 0) (.ctz g d a)
  | 2 => mustBeZero (b == 0) (.popc g d a)
  | 3 => mustBeZero (b == 0) (.brev g d a)
  | 4 => mustBeZero (b == 0) (.bswap g d a)
  | 5 => mustBeZero (b == 0) (.sextb g d a)
  | 6 => mustBeZero (b == 0) (.sexth g d a)
  | 7 => mustBeZero (b == 0) (.sextw g d a)
  | 8 => mustBeZero (b == 0) (.zextb g d a)
  | 9 => mustBeZero (b == 0) (.zexth g d a)
  | 10 => mustBeZero (b == 0) (.zextw g d a)
  | _ => .error .code

/-- MAJ 11, FP on W36 (R46). -/
def decodeFp (w : IWord) : Except Reject Instr :=
  let g := fieldGuard w
  let d := fieldD w
  let a := fieldA w
  let b := fieldB w
  match (fieldFn w).toNat with
  | 0 => .ok (.fadd g d a b)
  | 1 => .ok (.fsub g d a b)
  | 2 => .ok (.fmul g d a b)
  | 3 => .ok (.fma g d a b)
  | 4 => .ok (.fdiv g d a b)
  | 5 => mustBeZero (b == 0) (.fsqrt g d a)
  | 6 => .ok (.fmin g d a b)
  | 7 => .ok (.fmax g d a b)
  | 8 => mustBeZero (b == 0) (.fabs g d a)
  | 9 => mustBeZero (b == 0) (.fneg g d a)
  | 10 => mustBeZero (b == 0) (.fclass g d a)
  | _ => .error .code

/-- MAJ 08, SHIFTI: imm10 [9:8] the kind, [7:6] reserved, [5:0] the shift (R47). -/
def decodeShiftImm (w : IWord) : Except Reject Instr :=
  let g := fieldGuard w
  let d := fieldD w
  let a := fieldA w
  let n : BitVec 6 := w.extractLsb' 0 6
  let z := (w.extractLsb' 6 2 : BitVec 2) == 0
  match (w.extractLsb' 8 2 : BitVec 2).toNat with
  | 0 => mustBeZero z (.shli g d a n)
  | 1 => mustBeZero z (.shri g d a n)
  | 2 => mustBeZero z (.srai g d a n)
  | _ => .error .code

/-- MAJ 0C and 13 (R48): compare with registers; bits [3:0] reserved. -/
def decodeCompare (mk : BitVec 4 → BitVec 3 → BitVec 3 → BitVec 6 → BitVec 6 → Instr) (w : IWord) : Except Reject Instr :=
  if (fieldCc w).toNat < 6 then
    mustBeZero (fieldFn w == 0) (mk (fieldGuard w) (fieldPd w) (fieldCc w) (fieldA w) (fieldB w))
  else .error .code

/-- MAJ 0D (R47, R48). -/
def decodeCmpi (w : IWord) : Except Reject Instr :=
  if (fieldCc w).toNat < 6 then
    .ok (.cmpi (fieldGuard w) (fieldPd w) (fieldCc w) (fieldA w) (fieldImm10 w))
  else .error .code

/-- MAJ 0E, PLOG: predicates in d [18:16], a [12:10], b [6:4] (R49). -/
def decodePlog (w : IWord) : Except Reject Instr :=
  let g := fieldGuard w
  let d : BitVec 3 := w.extractLsb' 16 3
  let a : BitVec 3 := w.extractLsb' 10 3
  let b : BitVec 3 := w.extractLsb' 4 3
  let z := (w.extractLsb' 19 3 : BitVec 3) == 0 && (w.extractLsb' 13 3 : BitVec 3) == 0 && (w.extractLsb' 7 3 : BitVec 3) == 0
  match (fieldFn w).toNat with
  | 0 => mustBeZero z (.pand g d a b)
  | 1 => mustBeZero z (.por g d a b)
  | 2 => mustBeZero z (.pxor g d a b)
  | 3 => mustBeZero z (.pandn g d a b)
  | 4 => mustBeZero (z && b == 0) (.pnot g d a)
  | 5 => mustBeZero (z && b == 0) (.pmov g d a)
  | _ => .error .code

/-- MAJ 12, FCVT: format codes in b, rounding mode in fn [3:2], fn [1:0] reserved (R50). -/
def decodeFcvt (w : IWord) : Except Reject Instr :=
  let x : BitVec 3 := w.extractLsb' 7 3
  let y : BitVec 3 := w.extractLsb' 4 3
  if fcvtPairOk x y then
    mustBeZero ((w.extractLsb' 0 2 : BitVec 2) == 0)
      (.fcvt (fieldGuard w) (fieldD w) (fieldA w) x y (w.extractLsb' 2 2))
  else .error .code

/-- MAJ 16: JMPR, CALLR, RET (R46, R89). -/
def decodeJump (w : IWord) : Except Reject Instr :=
  let g := fieldGuard w
  let a := fieldA w
  let z := fieldD w == 0 && fieldB w == 0
  match (fieldFn w).toNat with
  | 0 => mustBeZero z (.jmpr g a)
  | 1 => mustBeZero z (.callr g a)
  | 2 => mustBeZero (z && a == 0) (.ret g)
  | _ => .error .code

/-- MAJ 17, LOOP: d [16] the counter, d [21:17] reserved, imm10 nonzero (R47, R89). -/
def decodeLoop (w : IWord) : Except Reject Instr :=
  if fieldImm10 w == 0 then .error .code
  else mustBeZero ((w.extractLsb' 17 5 : BitVec 5) == 0)
    (.loop (fieldGuard w) (w.extractLsb' 16 1) (fieldA w) (fieldImm10 w))

/-- MAJ 2C to 2F: fn 0 to 9 (R46). -/
def decodeAmo (mk : BitVec 4 → BitVec 6 → BitVec 6 → BitVec 6 → BitVec 4 → Instr) (w : IWord) : Except Reject Instr :=
  if (fieldFn w).toNat < 10 then .ok (mk (fieldGuard w) (fieldD w) (fieldA w) (fieldB w) (fieldFn w))
  else .error .code

/-- MAJ 30, FENCE: scope [1:0], kind [3:2], [9:4], d and a zero (R52). -/
def decodeFence (w : IWord) : Except Reject Instr :=
  let g := fieldGuard w
  let s : BitVec 2 := w.extractLsb' 0 2
  let z := (w.extractLsb' 4 18 : BitVec 18) == 0
  match (w.extractLsb' 2 2 : BitVec 2).toNat with
  | 0 => mustBeZero z (.fence g s)
  | 1 => mustBeZero z (.fenceAcq g s)
  | 2 => mustBeZero z (.fenceRel g s)
  | _ => .error .code

/-- MAJ 31: BPOST and BWAIT (R52). -/
def decodeBarrier (w : IWord) : Except Reject Instr :=
  let g := fieldGuard w
  match (fieldFn w).toNat with
  | 0 => mustBeZero (fieldD w == 0) (.bpost g (fieldA w) (fieldB w))
  | 1 => mustBeZero (fieldD w == 0 && fieldB w == 0) (.bwait g (fieldA w))
  | _ => .error .code

/-- MAJ 32: fn 0 TOKW COL, 1 TOKW CPY, 2 TOKS COL, 3 TOKS CPY; d = a = b = 0 (R52). -/
def decodeToken (w : IWord) : Except Reject Instr :=
  let g := fieldGuard w
  let z := (w.extractLsb' 4 18 : BitVec 18) == 0
  match (w.extractLsb' 1 3 : BitVec 3).toNat with
  | 0 => mustBeZero z (.tokw g (w.extractLsb' 0 1))
  | 1 => mustBeZero z (.toks g (w.extractLsb' 0 1))
  | _ => .error .code

/-- MAJ 33: SEND and RECV (R52). -/
def decodeChannel (w : IWord) : Except Reject Instr :=
  let g := fieldGuard w
  match (fieldFn w).toNat with
  | 0 => mustBeZero (fieldD w == 0) (.send g (fieldA w) (fieldB w))
  | 1 => mustBeZero (fieldA w == 0 && fieldB w == 0) (.recv g (fieldD w))
  | _ => .error .code

/-- MAJ 34, SYS: imm10 [9:6] the function, [5:0] the code (R52). -/
def decodeSys (w : IWord) : Except Reject Instr :=
  let g := fieldGuard w
  let c := fieldCmd w
  let z := fieldD w == 0 && fieldA w == 0
  match (fieldFlags w).toNat with
  | 0 => mustBeZero z (.trap g c)
  | 1 => mustBeZero z (.svc g c)
  | 2 => mustBeZero (z && c == 0) (.eret g)
  | 3 => mustBeZero (z && c == 0) (.exit g)
  | 4 => mustBeZero (z && c == 0) (.yield g)
  | 5 => mustBeZero (c == 0) (.wait g (fieldD w) (fieldA w))
  | _ => .error .code

/-- MAJ 35: GETS with an assigned selector and a = 0, or SCNR (R52, R134). -/
def decodeGets (w : IWord) : Except Reject Instr :=
  let g := fieldGuard w
  let s := fieldImm10 w
  if s == 0x3FF#10 then .ok (.scnr g (fieldD w) (fieldA w))
  else if selectorAssigned s then mustBeZero (fieldA w == 0) (.gets g (fieldD w) s)
  else .error .code

/-- MAJ 36: PUTS with an assigned selector and d = 0, or SCNW (R52, R134). -/
def decodePuts (w : IWord) : Except Reject Instr :=
  let g := fieldGuard w
  let s := fieldImm10 w
  if s == 0x3FF#10 then .ok (.scnw g (fieldD w) (fieldA w))
  else if selectorAssigned s then mustBeZero (fieldD w == 0) (.puts g (fieldA w) s)
  else .error .code

/-- MAJ 37, CLKDIV: imm10 [1:0] the engine, [9:2] reserved (R52). -/
def decodeClkdiv (w : IWord) : Except Reject Instr :=
  let e : BitVec 2 := w.extractLsb' 0 2
  if e == 3 then .error .code
  else mustBeZero ((w.extractLsb' 2 8 : BitVec 8) == 0) (.clkdiv (fieldGuard w) (fieldD w) (fieldA w) e)

/-- MAJ 38, LAUNCH: fn 0, b 0 (R52). -/
def decodeLaunch (w : IWord) : Except Reject Instr :=
  if fieldFn w == 0 then mustBeZero (fieldB w == 0) (.launch (fieldGuard w) (fieldD w) (fieldA w)) else .error .code

/-- MAJ 39, DEPDONE: fn 0, d = b = 0 (R52). -/
def decodeDepdone (w : IWord) : Except Reject Instr :=
  if fieldFn w == 0 then mustBeZero (fieldD w == 0 && fieldB w == 0) (.depdone (fieldGuard w) (fieldA w)) else .error .code

/-- MAJ 3C, COL commands; here the word's [21:16] names value a and [15:10] value b (R42 F6, R53). -/
def decodeCol (w : IWord) : Except Reject Instr :=
  let g := fieldGuard w
  let a := fieldD w
  let b := fieldA w
  let f := fieldFlags w
  match (fieldCmd w).toNat with
  | 0 => mustBeZero (b == 0) (.cfgld g a f)
  | 1 => .ok (.cfgpart g a b f)
  | 2 => .ok (.fire g a b f)
  | 3 => .ok (.bind g a b f)
  | 4 => .ok (.tset g a b f)
  | 5 => mustBeZero (b == 0) (.cstop g a f)
  | _ => .error .code

/-- MAJ 3D, CPY commands (R53). -/
def decodeCpy (w : IWord) : Except Reject Instr :=
  let g := fieldGuard w
  let a := fieldD w
  let b := fieldA w
  let f := fieldFlags w
  match (fieldCmd w).toNat with
  | 0 => .ok (.cpys g a b f)
  | 1 => .ok (.cpyd g a b f)
  | 2 => .ok (.copy g a b f)
  | 3 => .ok (.cpyf g a b f)
  | _ => .error .code

/-- MAJ 3E: EFENCE and EQRY; b [5:2] reserved, a mask of 0 is ILLEGAL (R52, R242). -/
def decodeEngineFence (w : IWord) : Except Reject Instr :=
  let g := fieldGuard w
  let m : BitVec 2 := w.extractLsb' 4 2
  let z := (w.extractLsb' 6 4 : BitVec 4) == 0 && fieldA w == 0
  if m == 0 then .error .code
  else match (fieldFn w).toNat with
    | 0 => mustBeZero (z && fieldD w == 0) (.efence g m)
    | 1 => mustBeZero z (.eqry g (fieldD w) m)
    | _ => .error .code

/-- The instruction a 32-bit word stands for, or why it stands for none (R45, R54 step 1). -/
def decodeWord (w : IWord) : Except Reject Instr :=
  let g := fieldGuard w
  let d := fieldD w
  let a := fieldA w
  let b := fieldB w
  let i := fieldImm10 w
  if g == 8 then .error .guard
  else match (fieldMaj w).toNat with
    | 0x01 => decodeAlu w
    | 0x02 => decodeMulDiv w
    | 0x03 => decodeBits w
    | 0x04 => .ok (.addi g d a i)
    | 0x05 => .ok (.andi g d a i)
    | 0x06 => .ok (.ori g d a i)
    | 0x07 => .ok (.xori g d a i)
    | 0x08 => decodeShiftImm w
    | 0x0A => .ok (.movi g d (fieldImm16 w))
    | 0x0B => .ok (.movh g d (fieldImm16 w))
    | 0x0C => decodeCompare .cmp w
    | 0x0D => decodeCmpi w
    | 0x0E => decodePlog w
    | 0x0F => .ok (.sel g d a b (w.extractLsb' 3 1) (w.extractLsb' 0 3))
    | 0x10 => .ok (.adds g d a b (fieldFn w))
    | 0x11 => decodeFp w
    | 0x12 => decodeFcvt w
    | 0x13 => decodeCompare .fcmp w
    | 0x14 => .ok (.br g (fieldDisp22 w))
    | 0x15 => .ok (.call g (fieldDisp22 w))
    | 0x16 => decodeJump w
    | 0x17 => decodeLoop w
    | 0x20 => .ok (.ldb g d a i)
    | 0x21 => .ok (.ldh g d a i)
    | 0x22 => .ok (.ldw g d a i)
    | 0x23 => .ok (.ldd g d a i)
    | 0x24 => .ok (.ldbu g d a i)
    | 0x25 => .ok (.ldhu g d a i)
    | 0x26 => .ok (.ldwu g d a i)
    | 0x28 => .ok (.stb g d a i)
    | 0x29 => .ok (.sth g d a i)
    | 0x2A => .ok (.stw g d a i)
    | 0x2B => .ok (.std g d a i)
    | 0x2C => decodeAmo .amo w
    | 0x2D => decodeAmo .amoAcq w
    | 0x2E => decodeAmo .amoRel w
    | 0x2F => decodeAmo .amoAr w
    | 0x30 => decodeFence w
    | 0x31 => decodeBarrier w
    | 0x32 => decodeToken w
    | 0x33 => decodeChannel w
    | 0x34 => decodeSys w
    | 0x35 => decodeGets w
    | 0x36 => decodePuts w
    | 0x37 => decodeClkdiv w
    | 0x38 => decodeLaunch w
    | 0x39 => decodeDepdone w
    | 0x3C => decodeCol w
    | 0x3D => decodeCpy w
    | 0x3E => decodeEngineFence w
    | _ => .error .major

/-- A word from its four bytes, lowest address first (R1). -/
def wordOfBytes (b0 b1 b2 b3 : Byte) : IWord := b3 ++ b2 ++ b1 ++ b0

/-- The four bytes of a word, lowest address first (R1). -/
def bytesOfWord (w : IWord) : List Byte :=
  [w.extractLsb' 0 8, w.extractLsb' 8 8, w.extractLsb' 16 8, w.extractLsb' 24 8]

/-- The instruction at the head of a list of bytes and the bytes after it; total on any bytes. -/
def decode : List Byte → Except Reject (Instr × List Byte)
  | b0 :: b1 :: b2 :: b3 :: rest =>
    match decodeWord (wordOfBytes b0 b1 b2 b3) with
    | .ok i => .ok (i, rest)
    | .error r => .error r
  | _ => .error .short

/-- A word from its major opcode, guard and bits [21:0] (R42). -/
def packWord (maj : BitVec 6) (g : BitVec 4) (body : BitVec 22) : IWord := maj ++ g ++ body

/-- The word of a TCC instruction, from the same tables; an event has none. -/
def encode : Instr → Option IWord
  | .add g d a b => some (packWord 0x01 g (d ++ a ++ b ++ 0#4))
  | .sub g d a b => some (packWord 0x01 g (d ++ a ++ b ++ 1#4))
  | .and g d a b => some (packWord 0x01 g (d ++ a ++ b ++ 2#4))
  | .or g d a b => some (packWord 0x01 g (d ++ a ++ b ++ 3#4))
  | .xor g d a b => some (packWord 0x01 g (d ++ a ++ b ++ 4#4))
  | .andn g d a b => some (packWord 0x01 g (d ++ a ++ b ++ 5#4))
  | .shl g d a b => some (packWord 0x01 g (d ++ a ++ b ++ 6#4))
  | .shr g d a b => some (packWord 0x01 g (d ++ a ++ b ++ 7#4))
  | .sra g d a b => some (packWord 0x01 g (d ++ a ++ b ++ 8#4))
  | .rol g d a b => some (packWord 0x01 g (d ++ a ++ b ++ 9#4))
  | .min g d a b => some (packWord 0x01 g (d ++ a ++ b ++ 10#4))
  | .max g d a b => some (packWord 0x01 g (d ++ a ++ b ++ 11#4))
  | .minu g d a b => some (packWord 0x01 g (d ++ a ++ b ++ 12#4))
  | .maxu g d a b => some (packWord 0x01 g (d ++ a ++ b ++ 13#4))
  | .mul g d a b => some (packWord 0x02 g (d ++ a ++ b ++ 0#4))
  | .mulh g d a b => some (packWord 0x02 g (d ++ a ++ b ++ 1#4))
  | .mulhu g d a b => some (packWord 0x02 g (d ++ a ++ b ++ 2#4))
  | .madd g d a b => some (packWord 0x02 g (d ++ a ++ b ++ 3#4))
  | .div g d a b => some (packWord 0x02 g (d ++ a ++ b ++ 4#4))
  | .divu g d a b => some (packWord 0x02 g (d ++ a ++ b ++ 5#4))
  | .rem g d a b => some (packWord 0x02 g (d ++ a ++ b ++ 6#4))
  | .remu g d a b => some (packWord 0x02 g (d ++ a ++ b ++ 7#4))
  | .clz g d a => some (packWord 0x03 g (d ++ a ++ 0#10))
  | .ctz g d a => some (packWord 0x03 g (d ++ a ++ 1#10))
  | .popc g d a => some (packWord 0x03 g (d ++ a ++ 2#10))
  | .brev g d a => some (packWord 0x03 g (d ++ a ++ 3#10))
  | .bswap g d a => some (packWord 0x03 g (d ++ a ++ 4#10))
  | .sextb g d a => some (packWord 0x03 g (d ++ a ++ 5#10))
  | .sexth g d a => some (packWord 0x03 g (d ++ a ++ 6#10))
  | .sextw g d a => some (packWord 0x03 g (d ++ a ++ 7#10))
  | .zextb g d a => some (packWord 0x03 g (d ++ a ++ 8#10))
  | .zexth g d a => some (packWord 0x03 g (d ++ a ++ 9#10))
  | .zextw g d a => some (packWord 0x03 g (d ++ a ++ 10#10))
  | .addi g d a i => some (packWord 0x04 g (d ++ a ++ i))
  | .andi g d a i => some (packWord 0x05 g (d ++ a ++ i))
  | .ori g d a i => some (packWord 0x06 g (d ++ a ++ i))
  | .xori g d a i => some (packWord 0x07 g (d ++ a ++ i))
  | .shli g d a n => some (packWord 0x08 g (d ++ a ++ 0#4 ++ n))
  | .shri g d a n => some (packWord 0x08 g (d ++ a ++ 4#4 ++ n))
  | .srai g d a n => some (packWord 0x08 g (d ++ a ++ 8#4 ++ n))
  | .movi g d i => some (packWord 0x0a g (d ++ i))
  | .movh g d i => some (packWord 0x0b g (d ++ i))
  | .cmp g p c a b => some (packWord 0x0c g (p ++ c ++ a ++ b ++ 0#4))
  | .cmpi g p c a i => some (packWord 0x0d g (p ++ c ++ a ++ i))
  | .pand g d a b => some (packWord 0x0e g (0#3 ++ d ++ 0#3 ++ a ++ 0#3 ++ b ++ 0#4))
  | .por g d a b => some (packWord 0x0e g (0#3 ++ d ++ 0#3 ++ a ++ 0#3 ++ b ++ 1#4))
  | .pxor g d a b => some (packWord 0x0e g (0#3 ++ d ++ 0#3 ++ a ++ 0#3 ++ b ++ 2#4))
  | .pandn g d a b => some (packWord 0x0e g (0#3 ++ d ++ 0#3 ++ a ++ 0#3 ++ b ++ 3#4))
  | .pnot g d a => some (packWord 0x0e g (0#3 ++ d ++ 0#3 ++ a ++ 4#10))
  | .pmov g d a => some (packWord 0x0e g (0#3 ++ d ++ 0#3 ++ a ++ 5#10))
  | .sel g d a b n p => some (packWord 0x0f g (d ++ a ++ b ++ n ++ p))
  | .adds g d a b k => some (packWord 0x10 g (d ++ a ++ b ++ k))
  | .fadd g d a b => some (packWord 0x11 g (d ++ a ++ b ++ 0#4))
  | .fsub g d a b => some (packWord 0x11 g (d ++ a ++ b ++ 1#4))
  | .fmul g d a b => some (packWord 0x11 g (d ++ a ++ b ++ 2#4))
  | .fma g d a b => some (packWord 0x11 g (d ++ a ++ b ++ 3#4))
  | .fdiv g d a b => some (packWord 0x11 g (d ++ a ++ b ++ 4#4))
  | .fsqrt g d a => some (packWord 0x11 g (d ++ a ++ 5#10))
  | .fmin g d a b => some (packWord 0x11 g (d ++ a ++ b ++ 6#4))
  | .fmax g d a b => some (packWord 0x11 g (d ++ a ++ b ++ 7#4))
  | .fabs g d a => some (packWord 0x11 g (d ++ a ++ 8#10))
  | .fneg g d a => some (packWord 0x11 g (d ++ a ++ 9#10))
  | .fclass g d a => some (packWord 0x11 g (d ++ a ++ 10#10))
  | .fcvt g d a x y r => some (packWord 0x12 g (d ++ a ++ x ++ y ++ r ++ 0#2))
  | .fcmp g p c a b => some (packWord 0x13 g (p ++ c ++ a ++ b ++ 0#4))
  | .br g d => some (packWord 0x14 g (d))
  | .call g d => some (packWord 0x15 g (d))
  | .jmpr g a => some (packWord 0x16 g (0#6 ++ a ++ 0#10))
  | .callr g a => some (packWord 0x16 g (0#6 ++ a ++ 1#10))
  | .ret g => some (packWord 0x16 g (2#22))
  | .loop g n a i => some (packWord 0x17 g (0#5 ++ n ++ a ++ i))
  | .ldb g d b i => some (packWord 0x20 g (d ++ b ++ i))
  | .ldh g d b i => some (packWord 0x21 g (d ++ b ++ i))
  | .ldw g d b i => some (packWord 0x22 g (d ++ b ++ i))
  | .ldd g d b i => some (packWord 0x23 g (d ++ b ++ i))
  | .ldbu g d b i => some (packWord 0x24 g (d ++ b ++ i))
  | .ldhu g d b i => some (packWord 0x25 g (d ++ b ++ i))
  | .ldwu g d b i => some (packWord 0x26 g (d ++ b ++ i))
  | .stb g d b i => some (packWord 0x28 g (d ++ b ++ i))
  | .sth g d b i => some (packWord 0x29 g (d ++ b ++ i))
  | .stw g d b i => some (packWord 0x2a g (d ++ b ++ i))
  | .std g d b i => some (packWord 0x2b g (d ++ b ++ i))
  | .amo g d a b o => some (packWord 0x2c g (d ++ a ++ b ++ o))
  | .amoAcq g d a b o => some (packWord 0x2d g (d ++ a ++ b ++ o))
  | .amoRel g d a b o => some (packWord 0x2e g (d ++ a ++ b ++ o))
  | .amoAr g d a b o => some (packWord 0x2f g (d ++ a ++ b ++ o))
  | .fence g s => some (packWord 0x30 g (0#20 ++ s))
  | .fenceAcq g s => some (packWord 0x30 g (1#20 ++ s))
  | .fenceRel g s => some (packWord 0x30 g (2#20 ++ s))
  | .bpost g a b => some (packWord 0x31 g (0#6 ++ a ++ b ++ 0#4))
  | .bwait g a => some (packWord 0x31 g (0#6 ++ a ++ 1#10))
  | .tokw g e => some (packWord 0x32 g (0#21 ++ e))
  | .toks g e => some (packWord 0x32 g (1#21 ++ e))
  | .send g a b => some (packWord 0x33 g (0#6 ++ a ++ b ++ 0#4))
  | .recv g d => some (packWord 0x33 g (d ++ 1#16))
  | .trap g c => some (packWord 0x34 g (0#16 ++ c))
  | .svc g c => some (packWord 0x34 g (1#16 ++ c))
  | .eret g => some (packWord 0x34 g (128#22))
  | .exit g => some (packWord 0x34 g (192#22))
  | .yield g => some (packWord 0x34 g (256#22))
  | .wait g d a => some (packWord 0x34 g (d ++ a ++ 320#10))
  | .gets g d s => some (packWord 0x35 g (d ++ 0#6 ++ s))
  | .scnr g d a => some (packWord 0x35 g (d ++ a ++ 1023#10))
  | .puts g a s => some (packWord 0x36 g (0#6 ++ a ++ s))
  | .scnw g d a => some (packWord 0x36 g (d ++ a ++ 1023#10))
  | .clkdiv g d a e => some (packWord 0x37 g (d ++ a ++ 0#8 ++ e))
  | .launch g d a => some (packWord 0x38 g (d ++ a ++ 0#10))
  | .depdone g a => some (packWord 0x39 g (0#6 ++ a ++ 0#10))
  | .cfgld g a f => some (packWord 0x3c g (a ++ 0#6 ++ f ++ 0#6))
  | .cfgpart g a b f => some (packWord 0x3c g (a ++ b ++ f ++ 1#6))
  | .fire g a b f => some (packWord 0x3c g (a ++ b ++ f ++ 2#6))
  | .bind g a b f => some (packWord 0x3c g (a ++ b ++ f ++ 3#6))
  | .tset g a b f => some (packWord 0x3c g (a ++ b ++ f ++ 4#6))
  | .cstop g a f => some (packWord 0x3c g (a ++ 0#6 ++ f ++ 5#6))
  | .cpys g a b f => some (packWord 0x3d g (a ++ b ++ f ++ 0#6))
  | .cpyd g a b f => some (packWord 0x3d g (a ++ b ++ f ++ 1#6))
  | .copy g a b f => some (packWord 0x3d g (a ++ b ++ f ++ 2#6))
  | .cpyf g a b f => some (packWord 0x3d g (a ++ b ++ f ++ 3#6))
  | .efence g m => some (packWord 0x3e g (0#16 ++ m ++ 0#4))
  | .eqry g d m => some (packWord 0x3e g (d ++ 0#10 ++ m ++ 1#4))
  | .instructionCompletion _ _ _ => none
  | .trapEntry _ _ => none
  | .waitTimerExpiry _ _ => none
  | .taskState2Stop _ _ => none
  | .taskState1Stop _ _ => none
  | .preemptOverrun _ _ => none
  | .courtWindowCompletion _ _ => none
  | .scanCompletion _ _ => none
  | .clkdivEffect _ => none
  | .trapsetWrite _ _ => none
  | .engineReset _ _ => none
  | .registerWrite _ _ => none
  | .commandStart _ _ => none
  | .commandRetire _ _ => none
  | .cfgldCheck _ => none
  | .cfgpartWrite _ => none
  | .bindPlace _ => none
  | .copyComplete _ _ => none
  | .busyResend _ _ => none
  | .bankGrant _ _ => none
  | .changeNotice _ _ => none
  | .bwaitRepoll _ _ => none
  | .baseDieRequest _ _ => none
  | .rmwWritePhase _ _ => none
  | .hbmWheelSlot _ _ => none
  | .baseDieReply _ => none
  | .granuleEviction _ _ => none
  | .granuleMigration _ _ => none
  | .residentNotice _ => none
  | .mcellReply _ _ => none
  | .decodeTableLoad _ _ => none
  | .xboxTokenMove _ _ _ _ => none
  | .whistleWave _ => none
  | .statusRecordWrite _ => none
  | .cellAdd _ _ _ => none
  | .cellSub _ _ _ => none
  | .cellMul _ _ _ => none
  | .cellMulh _ _ _ => none
  | .cellMac _ _ _ => none
  | .cellAnd _ _ _ => none
  | .cellOr _ _ _ => none
  | .cellXor _ _ _ => none
  | .cellShl _ _ _ => none
  | .cellShr _ _ _ => none
  | .cellSra _ _ _ => none
  | .cellMin _ _ _ => none
  | .cellMax _ _ _ => none
  | .cellAbs _ _ _ => none
  | .cellSat _ _ _ => none
  | .cellClamp _ _ _ => none
  | .cellCmp _ _ _ => none
  | .cellSel _ _ _ => none
  | .cellFadd _ _ _ => none
  | .cellFsub _ _ _ => none
  | .cellFmul _ _ _ => none
  | .cellFma _ _ _ => none
  | .cellFmin _ _ _ => none
  | .cellFmax _ _ _ => none
  | .cellFabs _ _ _ => none
  | .cellFneg _ _ _ => none
  | .cellFcmp _ _ _ => none
  | .rcp _ _ _ => none
  | .rsqrt _ _ _ => none
  | .exp2 _ _ _ => none
  | .log2 _ _ _ => none
  | .scale _ _ _ => none
  | .rsum _ _ _ => none
  | .rmax _ _ _ => none
  | .rmin _ _ _ => none
  | .acc _ _ _ => none
  | .shuf _ _ _ => none
  | .rot _ _ _ => none
  | .bcast _ _ _ => none
  | .pack _ _ _ => none
  | .unpack _ _ _ => none
  | .reord _ _ _ => none
  | .pass _ _ _ => none
  | .fifo _ _ _ => none
  | .steer _ _ _ => none
  | .merge _ _ _ => none
  | .gate _ _ _ => none
  | .tagget _ _ _ => none
  | .tagput _ _ _ => none
  | .cellCnt _ _ _ => none
  | .join _ _ _ => none
  | .sink _ _ _ => none
  | .aff _ _ => none
  | .idx _ _ => none
  | .acellCnt _ _ => none
  | .lds _ _ => none
  | .sts _ _ => none
  | .gath _ _ => none
  | .scat _ _ => none
  | .atom _ _ => none
  | .tas _ _ => none
  | .dcmp _ _ => none
  | .qnt _ _ => none
  | .rld _ _ => none
  | .rst _ _ => none
  | .ramo _ _ => none
  | .counterPort _ _ => none
  | .wld _ => none
  | .scaleRowTake _ => none
  | .arrayPass _ => none
  | .accw _ => none
  | .mma _ => none
  | .mmaG _ => none
  | .accr _ => none
  | .pairTimeout _ => none
  | .flitSend _ _ => none
  | .trim _ _ => none
  | .requestArrival _ => none
  | .reseqRelease _ => none
  | .responseArrival _ => none
  | .buntHeaderArrival _ => none
  | .letSend _ => none
  | .letBucketRefill _ => none
  | .letReceive _ => none
  | .ackTimeout _ _ => none
  | .linkReplay _ _ _ => none
  | .laneShed _ _ _ => none
  | .linkRetrain _ _ _ => none
  | .hostRequest _ _ _ _ => none
  | .launchPacketArrival _ => none
  | .post => none
  | .abort => none
  | .cancel => none
  | .preempt => none
  | .resume => none
  | .intervalBoundary => none
  | .imageHeaderRead _ _ => none
  | .imageReadComplete _ _ => none
  | .taskStart _ => none
  | .launchEnd _ => none
  | .launchAbort _ => none
  | .preemptRequest _ _ => none
  | .drainTimeout _ => none
  | .scanOut _ => none
  | .preemptRelease => none
  | .create => none
  | .destroy => none
  | .grant => none
  | .courtPreempt => none
  | .rwrite => none
  | .attest => none
  | .ringTailWrite _ _ _ => none
  | .roleDrain => none
  | .roleFlush => none
  | .roleGate => none
  | .roleEnum => none
  | .roleCheck _ => none
  | .roleRelease => none
  | .roleAbort => none
  | .powerControllerStep _ => none
  | .rstnRise _ _ => none
  | .phaseAuth _ => none
  | .phaseBase _ _ _ => none
  | .phaseLinks _ => none
  | .portTraining _ _ _ => none
  | .portTrainingTimeout _ _ => none
  | .phaseRoles _ => none
  | .phaseRun => none
  | .thermtrip => none
  | .illegal _ => none
  | .packageReset => none
  | .softError _ _ => none

/-- The instruction the decoder reads from an instruction whose bits are `w`, laid out as the instruction store holds
it: one 32-bit word, its bytes in little-endian order (R1, R44); bits above `nbits` are zero. -/
def decodeTableWord (nbits w : Nat) : Option Instr :=
  match decode (bytesOfWord (BitVec.ofNat 32 (w % 2 ^ nbits))) with
  | .ok (i, _) => some i
  | .error _ => none

end Sys2Proof
end

