-- ==== Sys2Proof/Machine/Mem.lean ====
section
/-! DEFINITION. Memory: one list of bytes for every memory that agents address by bytes (spec/06_mem_spaces.md R151), in one
canonical form, with the poison marks beside it. The place of each memory in the one address line is the model's own
(notes/assumptions/6.md). -/

namespace Sys2Proof.Machine

/-- Bytes of memory: addresses strictly rising, no entry equal to what an unlisted address reads as. -/
abbrev Memory := List Host.Cell

/-- What an address that nothing has written reads as. DESIGN CHOICE (notes/assumptions/1.md): the spec gives no contents
for memories after reset (R11, R151). -/
def blankByte : Byte := 0

/-- One byte. -/
def Memory.get : Memory → Nat → Byte
  | [], _ => blankByte
  | (a, b) :: t, k => if a = k then b else if k < a then blankByte else Memory.get t k

/-- Write one byte, keeping the canonical form. -/
def Memory.set : Memory → Nat → Byte → Memory
  | [], k, v => if v = blankByte then [] else [(k, v)]
  | (a, b) :: t, k, v =>
    if k < a then (if v = blankByte then (a, b) :: t else (k, v) :: (a, b) :: t)
    else if k = a then (if v = blankByte then t else (k, v) :: t)
    else (a, b) :: Memory.set t k v

/-- The canonical form, from a lowest permitted address on. -/
def Memory.wfFrom : Nat → Memory → Bool
  | _, [] => true
  | lo, (a, b) :: t => decide (lo ≤ a) && decide (b ≠ blankByte) && Memory.wfFrom (a + 1) t

/-- The canonical form. -/
def Memory.wf (m : Memory) : Bool := Memory.wfFrom 0 m

/-- n bytes from an address on. -/
def Memory.read (m : Memory) (a : Nat) : Nat → List Byte
  | 0 => []
  | n + 1 => Memory.get m a :: Memory.read m (a + 1) n

/-- Write bytes from an address on. -/
def Memory.write (m : Memory) (a : Nat) : List Byte → Memory
  | [] => m
  | b :: t => Memory.write (Memory.set m a b) (a + 1) t

/-- The little-endian number held in n bytes. -/
def Memory.readN (m : Memory) (a n : Nat) : Nat := ofBytes (m.read a n)

/-- Write the low n bytes of a number, little-endian. -/
def Memory.writeN (m : Memory) (a n v : Nat) : Memory := m.write a (toBytes n v)

/-- One byte in transit: its value, whether it is written at all (a masked write), and whether it carries poison. -/
structure MByte where
  val : Byte := 0
  en  : Bool := true
  poi : Bool := false
deriving DecidableEq, Repr

/-- Write the enabled bytes. -/
def Memory.writeM (m : Memory) (a : Nat) : List MByte → Memory
  | [] => m
  | b :: t => Memory.writeM (if b.en then Memory.set m a b.val else m) (a + 1) t

/-! ## Places of the memories in the one address line -/

/-- HBM, physical addresses 0 to 2^39 - 1. -/
def hbmBase : Nat := 0
/-- Second tier, 0 to 2^43 - 1. -/
def secondBase : Nat := 2 ^ 44
/-- Host memory, 56-bit addresses. -/
def hostBase : Nat := 2 ^ 58
/-- Scratchpad of tile t: 4 MiB at scratchBase + t * 2^22. -/
def scratchBase : Nat := 2 ^ 60
/-- Spill memory of tile t: 64 KiB at spillBase + t * 2^16. -/
def spillBase : Nat := 2 ^ 61
/-- Instruction store of tile t: 256 KiB at istoreBase + t * 2^18. -/
def istoreBase : Nat := 2 ^ 62
/-- Context store of tile t: 256 KiB at ctxBase + t * 2^18. -/
def ctxBase : Nat := 2 ^ 63

/-- The place of a scratchpad byte. -/
def scratchKey (tile off : Nat) : Nat := scratchBase + tile * 2 ^ 22 + off
/-- The place of a spill byte. -/
def spillKey (tile off : Nat) : Nat := spillBase + tile * 2 ^ 16 + off
/-- The place of an instruction-store byte. -/
def istoreKey (tile off : Nat) : Nat := istoreBase + tile * 2 ^ 18 + off
/-- The place of a context-store byte. -/
def ctxKey (tile off : Nat) : Nat := ctxBase + tile * 2 ^ 18 + off

/-! ## Poison marks: a sorted list of the marked units, named by the address of their first byte -/

/-- The poison marks of memory: 8-byte words of spill memory and scratchpad (R151), 32-byte granules elsewhere (R177). -/
abbrev Marks := List Nat

/-- The first byte of the unit that carries the mark of an address. -/
def markUnit (key : Nat) : Nat :=
  if scratchBase ≤ key ∧ key < istoreBase then key / 8 * 8 else key / 32 * 32

/-- Is the byte poisoned. -/
def Marks.has (p : Marks) (key : Nat) : Bool := p.contains (markUnit key)

/-- Set or clear the mark of a byte's unit. -/
def Marks.setTo (p : Marks) (key : Nat) (b : Bool) : Marks :=
  if b then setAdd p (markUnit key) else setDel p (markUnit key)

/-- Is any of n bytes from key on poisoned. -/
def Marks.any (p : Marks) (key : Nat) : Nat → Bool
  | 0 => false
  | n + 1 => p.has key || Marks.any p (key + 1) n

end Sys2Proof.Machine
end

