-- ==== Sys2Proof/Machine/TaskState.lean ====
section
/-! DEFINITION. The state of a task slot of a TCC (spec/03_reg_core.md R77, spec/04_reg_arith.md R120, spec/05_reg_state.md R134, R135,
spec/09_q_engines.md R230, R248, spec/14_q_stop.md R391 to R398), and of the accesses in transit. -/

namespace Sys2Proof.Machine

/-- A 64-bit word with its poison bit. -/
structure PWord where
  val : Word := 0
  poi : Bool := false
deriving DecidableEq, Repr

/-! ## Accesses -/

/-- What an access does at its home (R207): it reads or writes bytes, updates a word in one step (w bytes: an AMO of R171 with fn code op,
an ATOM of R342, or TAS as op 10), or posts bytes to an arrival counter, or subtracts the bytes of a COPY from one (R252, R449). A write may name the counter it arrives at (R215). watch is the read of a BWAIT, which takes a watch
entry where its counter is incomplete (R455). -/
inductive MemOp where
  | read (n : Nat)
  | watch
  | write (data : List MByte) (ctr : Option Nat)
  | atomic (w op : Nat) (x : Word) (xp : Bool) (c : Word)
  | post (n : Nat)
  | arrive (n : Nat)
deriving DecidableEq, Repr

/-- How an access ends (R170, R174, R362). -/
inductive RStat where
  | ok | poison | notres | fail | unknown | busy
deriving DecidableEq, Repr

/-- The answer to an access: its status, and the bytes read or the old value. -/
structure Reply where
  stat : RStat
  data : List MByte
deriving DecidableEq, Repr

/-- The home of an access (R151, R159, R163). -/
inductive Home where
  | scratch (tile off : Nat)
  | hbm (p : Nat)
  | second (p : Nat)
  | host (p : Nat)
  | mig (asid v : Nat)
  | ctx (tile off : Nat)
  | istore (tile off : Nat)
  | far (pkg tile off : Nat)
deriving DecidableEq, Repr

/-- A packet header (R362), field by field. -/
structure Hdr where
  dpkg : Nat := 0
  dtile : Nat := 0
  spkg : Nat := 0
  stile : Nat := 0
  vc : Nat := 0
  kind : Nat := 0
  trim : Bool := false
  ord : Bool := false
  depoff : Nat := 0
  stream : Nat := 0
  seq : Nat := 0
  lowoff : Nat := 0
  len : Nat := 0
  asid : Nat := 0
  tslot : Nat := 0
  unit : Nat := 0
  status : Nat := 0
  aop : Nat := 0
  cen : Bool := false
  nbm1 : Nat := 0
  coff : Nat := 0
  rtag : Nat := 0
  ded : Bool := false
  crt : Nat := 0
  bd : Bool := false
  mig : Bool := false
  tgt : Nat := 0
  rsv : Nat := 0
  addr : Nat := 0
deriving DecidableEq, Repr

/-- The unit to which an answer goes: a task's access k, a memory cell's element access k, the copy engine's chunk k,
the status record of a tile's FIRE, the fabric request that the header names or part k of it, or nobody. -/
inductive Who where
  | task (tile slot k : Nat)
  | cell (tile m k : Nat)
  | copy (tile k : Nat)
  | status (tile : Nat)
  | net (h : Hdr)
  | part (h : Hdr) (k : Nat)
  | nobody
deriving DecidableEq, Repr

/-- A request waiting for a scratchpad bank (R157). -/
structure BankReq where
  who : Who
  off : Nat
  op : MemOp
deriving DecidableEq, Repr

/-- A fabric request whose bytes lie in several lines of a scratchpad: its header, the arrival counter it names and the bytes to count there, the parts not yet
granted, and what those granted have read, by part (R156, R157, R215). -/
structure Gather where
  h : Hdr
  ctr : Option Nat := none
  bytes : Nat := 0
  left : Nat
  got : AMap (List MByte) := []
deriving DecidableEq, Repr

/-! ## The slot -/

/-- A hardware loop counter (R77). -/
structure LoopCtr where
  count : Word := 0
  start : BitVec 32 := 0
  stop : BitVec 32 := 0
deriving DecidableEq, Repr

/-- Scalar, predicate, link and loop registers and the PC (R77). An s register that s does not list is 0 with poison clear. -/
structure RegFile where
  s : AMap PWord := []
  p : BitVec 8 := 1
  lk0 : BitVec 32 := 0
  lk1 : BitVec 32 := 0
  lk2 : BitVec 32 := 0
  lk3 : BitVec 32 := 0
  lkd : BitVec 3 := 0
  lc0 : LoopCtr := {}
  lc1 : LoopCtr := {}
  pc : BitVec 32 := 0
deriving DecidableEq, Repr

/-- The per-task state registers (R120, R134, R135). -/
structure TaskRegs where
  fen : BitVec 5 := 0
  flg : BitVec 5 := 0
  wrec : BitVec 5 := 0
  priv : Bool := false
  prio : BitVec 2 := 0
  slot : BitVec 4 := 0
  tcause : BitVec 8 := 0
  tval : Word := 0
  tepc : BitVec 32 := 0
  spBase : BitVec 16 := 0
  spSize : BitVec 16 := 0
deriving DecidableEq, Repr

/-- The copy settings of a slot (R248). -/
structure CopySet where
  cshape : Word := 0
  csstr : Word := 0
  cdstr : Word := 0
  cctr : Word := 0
  cxf : Word := 0
  crec : Word := 0
  cseq : BitVec 32 := 0
deriving DecidableEq, Repr

/-- A write of a multi-cycle instruction that has issued and not completed (R84, R121): to a scalar register or to a predicate, with the
flags it raises. late: the task stands at the instruction until it completes, because FEN is nonzero (R122). -/
structure Inflight where
  isPred : Bool := false
  dst : Nat := 0
  val : PWord := {}
  flags : BitVec 5 := 0
  isFp : Bool := false
  isDiv : Bool := false
  isFdiv : Bool := false
  late : Bool := false
deriving DecidableEq, Repr

/-- What a task access is, for the write-back of its answer (R166, R170, R171, R246, R453), or a word of its launch packet (R415). -/
inductive AccKind where
  | load (size : Nat) (signed : Bool)
  | store
  | amo
  | send
  | post
  | bwait
  | packet
deriving DecidableEq, Repr

/-- An access of a task that has been issued and has not completed (R168). -/
structure TaskAcc where
  k : Nat
  kind : AccKind
  window : Bool
  dst : Nat := 0
  ea : Word := 0
  acq : Bool := false
  pc : BitVec 32 := 0
deriving DecidableEq, Repr

/-- The trap a task takes as soon as its outstanding writes have completed (R140 step 1, R170). late: a late failure of an access, whose TEPC is the
address of the instruction that then is next. -/
structure TrapInfo where
  cause : BitVec 8
  tval : Word
  tepc : BitVec 32
  ipc : BitVec 32
  late : Bool := false
deriving DecidableEq, Repr

/-- Why a live task does not issue its next instruction, beyond the interlocks that its instruction itself meets. A BWAIT whose read is on its way
notes whether a change notice has come meanwhile (R455). -/
inductive Hold where
  | none
  | wait (mask : BitVec 5) (deadline : Nat) (dst : Nat)
  | yield (since : Nat) (others : List (Nat × Nat))
  | bwait (ea : Word) (k : Nat) (again : Bool)
  | bwatch (ea : Word) (since : Nat) (watched : Bool)
  | efence (mask : Nat) (cmds : List Nat)
  | fence (accs : List Nat) (cmds : List Nat)
  | clkdiv (eng dst old : Nat)
  | launch (dst : Nat) (p : Word) (words : List PWord)
deriving DecidableEq, Repr

/-- The fences that hold some later instructions only (R220): a release holds later stores, an acquire later accesses,
until the accesses and commands listed have completed. -/
structure FenceHold where
  rel : Bool
  accs : List Nat
  cmds : List Nat
deriving DecidableEq, Repr

/-- A scan in progress (R150). -/
structure ScanOp where
  isWrite : Bool
  addr : Word
  data : PWord
  dst : Nat
  pc : BitVec 32
  since : Nat
deriving DecidableEq, Repr

/-- The live task of a slot: the launch entry that started it, its image and court; whether its TRAPSET bit stops it, whether a court's stop or
an abort has stopped it; what holds it; the trap it is about to take; its scan; whether an ERET with KILL ends it as soon as nothing of it is
outstanding (R142, R143). -/
structure TaskInfo where
  entry : Nat
  img : Nat := 0
  court : Nat := 0
  stopped : Bool := false
  halted : Bool := false
  hold : Hold := .none
  fences : List FenceHold := []
  trap : Option TrapInfo := none
  scan : Option ScanOp := none
  ending : Bool := false
deriving DecidableEq, Repr

/-- What the stop of a court records for a slot (R391 to R393, R398). -/
structure StopRec where
  stbase : BitVec 18 := 0
  stcnt : BitVec 13 := 0
  state : BitVec 2 := 0
  ovr : Bool := false
  issued : Nat := 0
  notReady : Nat := 0
  smask : Word := 0
  pmask : BitVec 8 := 0
deriving DecidableEq, Repr

/-- A task slot; issues counts the instructions its tasks have issued (R144, R392). -/
structure Slot where
  rf : RegFile := {}
  sr : TaskRegs := {}
  cs : CopySet := {}
  lcol : BitVec 8 := 0
  lcpy : BitVec 8 := 0
  chan : List PWord := []
  task : Option TaskInfo := none
  infl : List Inflight := []
  accs : List TaskAcc := []
  stop : StopRec := {}
  issues : Nat := 0
deriving DecidableEq, Repr

end Sys2Proof.Machine
end

