-- ==== Sys2Proof/Machine/CollarState.lean ====
section
/-! DEFINITION. The state of a tile's collar, memory cells, address cells and array (spec/10_q_collar.md R263, spec/11_q_array.md R301,
spec/12_q_cells.md R328, spec/17_counters.md R445 to R447, R456). -/

namespace Sys2Proof.Machine

/-- The lanes of a token or a cell register: 32 values of 36 bits and their poison bits (R260, R263). -/
structure Lanes where
  v : List W36 := []
  poi : BitVec 32 := 0
deriving DecidableEq, Repr

/-- A data token (R260). -/
structure Token where
  d : Lanes := {}
  mask : BitVec 32 := 0
  tag : Nat := 0
deriving DecidableEq, Repr

/-- A rack (R264, R270, R271): free list, allocation-order queue, COUNT of the live tags, the tags whose record says LIVE, and whether it is closed to
TAGGET (R284). -/
structure Rack where
  free : List Nat := []
  alloc : List Nat := []
  count : AMap Nat := []
  on : List Nat := []
  closed : Bool := false
deriving DecidableEq, Repr

/-- The storage of a cell (R263): the tokens held, the taken bits of an ordered cell, the count of ACC or the position of a draining REORD,
whether REORD drains, and whether it is b's turn in the alternation of a MERGE (R267). -/
structure CellStore where
  held : List Token := []
  taken : List Nat := []
  k : Nat := 0
  drain : Bool := false
  turn : Bool := false
deriving DecidableEq, Repr

/-- The last wave of the whistle network (R278, R279): its collar cycle, whether it found every node empty (or settled), and the token sum. -/
structure Wave where
  cyc : Nat
  clean : Bool
  toks : Nat
deriving DecidableEq, Repr

/-- A running rally: the collar cycle of phase 0, the start ports that still hold their token, the units that have faulted, the
modes of CSTOP and of a court's stop, whether a CSTOP HALT has acted, the image, its status record, the last cycle of activity and the last waves, and the slot and launch entry
of its FIRE. -/
structure Rally where
  t0 : Nat
  starts : List Nat := []
  faulted : List Nat := []
  drain : Bool := false
  halt : Bool := false
  cstopHalt : Bool := false
  abort : Bool := false
  recAt : Option Nat := none
  image : BitVec 32 := 0
  act : Nat := 0
  wave : Option Wave := none
  whistle : Option Nat := none
  recStep : Nat := 0
  saved : Bool := false
  slot : Nat := 0
  entry : Nat := 0
deriving DecidableEq, Repr

/-- An entry of a memory cell's spill queue (R328): the stream position, the mask of unanswered packets or lanes, the address; the name of the first access of
the element that it stands for, and its place in the queue. -/
structure SpillEnt where
  pos : Nat
  mask : Nat
  addr : Nat
  id : Nat := 0
  slot : Nat := 0
deriving DecidableEq, Repr

/-- One access of a memory cell: its name, its address in the cell's space, its bytes, what it does, the packets or lanes it serves as a mask, the address
that a spill entry and a fault record give for it, whether it belongs to the metadata stream, where it stands (0 to issue, 1 out, 2 diverted,
3 answered, 4 due to be reissued), and how many bytes of its packet come before it. -/
structure CellAcc where
  k : Nat := 0
  addr : Nat
  len : Nat
  op : MemOp
  serve : Nat := 0
  ea : Nat := 0
  isMeta : Bool := false
  st : Nat := 0
  skip : Nat := 0
deriving DecidableEq, Repr

/-- A symbol that DCMP has decoded and not given: its code, its poison, the byte position of its block in the run, and the bank it was decoded from. -/
structure EcSym where
  code : Nat
  poi : Bool
  blk : Nat
  bank : Bool
deriving DecidableEq, Repr

/-- A firing of a memory cell that has not left the return buffer (R328, R353): its stream position, the mask and tag of its output token, the addresses
of its lanes, the number of its token in its row and the row's metadata address, the bytes read by address (for an atomic by 8 times the lane), its
accesses, lanes poisoned by a failed access, whether a write ended UNKNOWN, whether it ends its row and its run, whether it gives a data token, the
token when it is known beforehand or a scan has written it, the lanes that take what is answered after such a write, the symbols of a DCMP token, a fault
that follows its last issued access, whether its token has been given, and its place among the 16 tokens of the buffer. -/
structure RetEnt where
  pos : Nat := 0
  mask : BitVec 32 := 0xFFFFFFFF#32
  tag : Nat := 0
  lanes : List (Nat × Nat) := []
  i0 : Nat := 0
  maddr : Nat := 0
  got : AMap MByte := []
  mgot : AMap MByte := []
  accs : List CellAcc := []
  lanePoi : BitVec 32 := 0
  unk : Bool := false
  rowEnd : Bool := false
  runEnd : Bool := false
  data : Bool := true
  tok : Option Token := none
  late : Option (List Nat) := none
  syms : List EcSym := []
  fault : Option (Nat × Nat) := none
  given : Bool := false
  slot : Nat := 0
deriving DecidableEq, Repr

/-- A decode-table bank (R328). -/
structure EcBank where
  image : BitVec 64 := 0
  chk : BitVec 4 := 0
  v : Bool := false
  ld : Bool := false
deriving DecidableEq, Repr

/-- A table record that waits to be loaded (R348): its image, the address of its header and the stream position of its line for a fault, and the collar
cycle in which it was read. -/
structure TableLoad where
  image : BitVec 64
  addr : Nat
  pos : Nat
  since : Nat
deriving DecidableEq, Repr

/-- The decoder of a DCMP cell (R347 to R349): whether it is in a run, the stream position and the address of the run's first line; the byte position in
the run of the block or of the next header; of the block it stands in, the symbol count, the symbols left, the payload length and the next payload bit,
the check expected and so far, a nibble not yet checked, and whether the payload was poisoned; the symbols decoded and not given, and the number in the
run of the first of them; whether the run has ended; the number of the run's line that the oldest return-buffer entry holds; the table record that waits
to be loaded. Outside a run pos, left and bit stay as the last run left them: they are the parse state that R328 keeps. -/
structure Decomp where
  started : Bool := false
  pos0 : Nat := 0
  pos : Nat := 0
  inBlock : Bool := false
  nsym : Nat := 0
  left : Nat := 0
  plen : Nat := 0
  bit : Nat := 0
  want : Nat := 0
  crc : Nat := 0xFFFFFFFF
  half : Option Nat := none
  blockPoi : Bool := false
  syms : List EcSym := []
  elem : Nat := 0
  ended : Bool := false
  line0 : Nat := 0
  base : Nat := 0
  table : Option TableLoad := none
deriving DecidableEq, Repr

/-- A memory cell (R328, R446, R456), with the run it is in (R334): addr and maddr hold the addresses that its address cells have given and no firing has
used yet, issued counts the lines of a DCMP run, out is DCMP's token that waits for its records, and owe the completion tokens not yet given. raw holds the
words that a scan has written into empty entries of the spill queue and the return buffer, by 64 times the item of R329 plus the word. -/
structure MCell where
  spill : List SpillEnt := []
  ret : List RetEnt := []
  raw : AMap Nat := []
  latch : BitVec 256 := 0
  mlatch : BitVec 256 := 0
  bank0 : EcBank := {}
  bank1 : EcBank := {}
  u : Bool := false
  dec : Decomp := {}
  out : Option RetEnt := none
  dlo : Nat := 0
  dhi : Nat := 0
  dv : Bool := false
  mlo : Nat := 0
  mhi : Nat := 0
  mv : Bool := false
  spos : BitVec 32 := 0
  dpos : BitVec 32 := 0
  pgev : BitVec 32 := 0
  mcred : Nat := 64
  mcredAt : Nat := 0
  tags : BitVec 8 := 0
  nextK : Nat := 0
  addr : Option (List (Nat × Nat)) := none
  maddr : Option Nat := none
  mdone : Bool := false
  running : Bool := false
  runDone : Bool := false
  runUnk : Bool := false
  owe : List Bool := []
  allOut : Bool := false
deriving DecidableEq, Repr

/-- The array (R301, R302): its memories, the accumulator words that an error has struck, beyond correction or not (R152), the fields of ARP, ALD and PSKEW; since when it waits on its partner; the image that ran when ARP.V was last set
(R319); whether it owes the token of a completed plane and whether the halves of a pair have been compared in this rally (R324); the A rows taken and not
committed, with the array cycle of each. A missing word of a plane, the scale store or the accumulator memory reads 0 (notes/assumptions/1.md, 2.md). -/
structure ArrayState where
  b0 : AMap (BitVec 18) := []
  b1 : AMap (BitVec 18) := []
  sc : AMap W36 := []
  acc : AMap W36 := []
  accBad : List Nat := []
  accSoft : List Nat := []
  cmd : BitVec 32 := 0
  v : Bool := false
  cpl : Bool := false
  lrow : Nat := 0
  mrow : Nat := 0
  orow : Nat := 0
  full : Bool := false
  lpl : Bool := false
  sgrp : Nat := 0
  stok : Nat := 0
  lrows : Nat := 0
  pskew : Nat := 0
  skewAt : Option Nat := none
  hasImg : Bool := false
  imgId : BitVec 32 := 0
  img1 : BitVec 256 := 0
  img2 : BitVec 256 := 0
  planeOwed : Bool := false
  paired : Bool := false
  pipe : List (Nat × Token × Token) := []
deriving DecidableEq, Repr

/-- A configuration plane: frames by their number in the canonical order of R59. -/
abbrev Plane := AMap (BitVec 256)

/-- The collar of a tile (R263). Frames are numbered 0 to 419 in the canonical order of R59. xdAcc and xcAcc say, for each X-box input, which outputs have accepted
the token that stands before it (R69). -/
structure Collar where
  active : Plane := []
  deck : Plane := []
  ld : Bool := false
  dv : Bool := false
  av : Bool := false
  vr : AMap Lanes := []
  cb : AMap Word := []
  xd : AMap (List Token) := []
  xc : AMap (List Bool) := []
  xdAcc : AMap Nat := []
  xcAcc : AMap Nat := []
  cin : AMap (List Token) := []
  cctl : AMap (List Bool) := []
  minp : AMap (List Token) := []
  mord : AMap (List Bool) := []
  ain : AMap (List Token) := []
  store : AMap CellStore := []
  racks : AMap Rack := []
  bound : AMap Nat := []
  cstat : BitVec 64 := 0xFFFF000000000000#64
  rseq : BitVec 32 := 0
  rally : Option Rally := none
  phaseEnd : Nat := 0
  cnt : AMap (Nat × Nat) := []
  cntWrapped : List Nat := []
  acnt : AMap (Nat × Nat) := []
  given : AMap Nat := []
  taken : AMap Nat := []
  reqout : AMap Nat := []
  lastFire : AMap Nat := []
  mc : AMap MCell := []
  arr : ArrayState := {}
deriving DecidableEq, Repr

end Sys2Proof.Machine
end

