-- ==== Sys2Proof/Machine/FabricState.lean ====
section
/-! DEFINITION. The state of the fabric: packets, routers, interfaces, package ports and base die controllers (spec/13_q_fabric.md R380,
spec/06_mem_spaces.md R151, R153, R164, R174 to R178). -/

namespace Sys2Proof.Machine

/-- A packet: its header and its payload bytes (R362, R363). -/
structure Packet where
  h : Hdr
  pay : List MByte := []
deriving DecidableEq, Repr

/-- A flit in a VC buffer (R358, R362): the header flit of a packet or 32 bytes of its payload, and the TIME it came to stand there. -/
inductive Flit where
  | head (h : Hdr) (since : Nat)
  | body (bs : List MByte) (last : Bool)
deriving DecidableEq, Repr

/-- An output of a router (R358, R365, R366, R372, R380): the trim threshold, the slot table and VC map as written and those in force, which follow at the
start of a slot-table cycle (a VC map entry has V in bit 18, the package in 17:6 and the court in 5:0), the input each VC's current packet comes
from, the round-robin pointers, the slot position, the flit slots since the last system and bunt flit, the pairs owed a slot, and the counts. -/
structure OutPort where
  trimth : Nat := 4096
  slots : BitVec 64 := 0
  vcmap : AMap Nat := []
  slotsIn : BitVec 64 := 0
  mapIn : AMap Nat := []
  lock : AMap Nat := []
  rr : Nat := 0
  rrSys : Nat := 0
  pos : Nat := 0
  sysGap : Nat := 15
  buntGap : Nat := 15
  owed : List Nat := []
  trims : Nat := 0
  border : Nat := 0
deriving DecidableEq, Repr

/-- A router: its input VC buffers, by port * 16 + VC, and its outputs. -/
structure Router where
  ins : AMap (List Flit) := []
  outs : AMap OutPort := []
deriving DecidableEq, Repr

/-- A request sent and not yet answered (R368, R371, R374): its packet (the retransmit copy), the unit that asked, the times of its first and
latest transmission, whether a BUSY answer has it wait, and whether the copy engine or cell splits it further. -/
structure Outst where
  h : Hdr
  pay : List MByte
  who : Who
  sent : Nat
  busy : Option Nat := none
deriving DecidableEq, Repr

/-- An entry of the duplicate window table (R369). -/
structure WinEnt where
  pkg : Nat
  tile : Nat
  stream : Nat
  base : Nat
  mask : BitVec 64
  perf : BitVec 64
  used : Nat
deriving DecidableEq, Repr

/-- A let request waiting to be sent (R373): to which package and tile, for which stream and sequence number. -/
structure LetReq where
  pkg : Nat
  tile : Nat
  stream : Nat
  seq : Nat
deriving DecidableEq, Repr

/-- A network interface (R368 to R374, R380): packets waiting for injection, requests out, sequence counters, the duplicate window, the
resequencing buffer, the let queue and bucket, NICTL, the counters, packets being received by VC, and packets received. -/
structure NetIf where
  txq : List Packet := []
  outst : List Outst := []
  seqs : AMap Nat := []
  win : List WinEnt := []
  reseq : List Packet := []
  letq : List LetReq := []
  bucket : Nat := 8
  bucketAt : Nat := 0
  nictl : BitVec 32 := 0x0001F8F5#32
  lettx : Nat := 0
  letrx : Nat := 0
  retx : Nat := 0
  reseqN : Nat := 0
  rx : AMap Packet := []
  reqs : List Packet := []
  rsps : List Packet := []
  bunts : List Hdr := []
  lets : List Hdr := []
deriving DecidableEq, Repr

/-- A package port's link (R358, R363, R376 to R380, R479): lanes, STATE (0 up, 1 shedding, 2 training, 3 DOWN), the width that an SCNW of LANES asks for (0
none), the flits sent and not acknowledged, how many of the latest of them are to be sent again, the sequence number of the next flit sent and of the next
flit expected (none after a retrain), by VC the credits that the partner has yet to return and the credits returned to it, by VC the packet that is coming
in (the sequence numbers of its flits received, and how many are still to come), the times of the failed trainings, and the counters. The Ngambi link of base
die s0 is one more such link (notes/assumptions/118.md). -/
structure PortLink where
  lanes : Nat := 2
  want : Nat := 0
  st : Nat := 3
  replay : List (Nat × Flit) := []
  resend : Nat := 0
  txSeq : Nat := 0
  rxSeq : Option Nat := none
  used : AMap Nat := []
  ret : AMap Nat := []
  opens : AMap (List Nat × Nat) := []
  fails : List Nat := []
  shed : Nat := 0
  crc : Nat := 0
deriving DecidableEq, Repr

/-- A request at a base die controller (R176 to R178): its packet, its home, the court whose wheel slots it may use, the bytes done so far
(32 bytes a burst), the granule of a read-modify-write that stands between its phases with its mark, and whether the controller has taken it in. -/
structure DieReq where
  h : Hdr
  pay : List MByte
  home : Home
  frame : Option Nat := none
  arrived : Nat := 0
  done : Nat := 0
  out : List MByte := []
  poi : Bool := false
  rmw : Option (List MByte × Bool) := none
  adm : Bool := false
deriving DecidableEq, Repr

/-- A migration or eviction in progress (R165): the frame, the granule coming in (ASID and VGN) or none for an eviction alone, and the step
(0 wait for requests to the frame, 1 copy in). -/
structure Migr where
  frame : Nat
  asid : Nat
  vgn : Nat
  incoming : Bool
  phase : Nat := 0
deriving DecidableEq, Repr

/-- A base die (R153, R164, R165, R178, R369, R376): notices lists, by granule, the ports that wait for it, and due the notices to be delivered. -/
structure Die where
  hwbase : Word := 0
  swbase : Word := 0
  mpbase : Word := 0
  mpframes : Word := 0
  cxlwin0 : Word := 0
  cxlwin1 : Word := 0
  cxlbase0 : Word := 0
  cxlbase1 : Word := 0
  resmap : AMap Word := []
  ptr : Nat := 0
  notices : AMap (List Nat) := []
  due : List (Nat × Nat) := []
  migr : List Migr := []
  reqs : List DieReq := []
  wheel : AMap Nat := []
  slotUsed : AMap Nat := []
  rt : Router := {}
  ni : NetIf := {}
  ports : AMap PortLink := []
deriving DecidableEq, Repr

end Sys2Proof.Machine
end

