-- ==== Sys2Proof/Machine/SysState.lean ====
section
/-! DEFINITION. The state of a tile as a whole and of the package's tables (spec/05_reg_state.md R134, spec/09_q_engines.md R230,
spec/15_t_launch.md R405, R406, spec/16_t_system.md R429, R430, R441, spec/17_counters.md R456 to R460, spec/23_package.md R482). -/

namespace Sys2Proof.Machine

/-- An engine command in a queue (R230, R232): uid is the model's own name for it; st is 0 waiting, 1 started, 2 finished. entry is the
launch entry of the task that issued it, deck whether a started BIND is for the on-deck plane (R286). -/
structure Cmd where
  uid : Nat
  cmd : Nat
  flags : Nat
  slot : Nat
  a : Word
  b : Word
  st : Nat := 0
  cause : Nat := 0
  entry : Nat := 0
  priv : Bool := false
  removed : Bool := false
  deck : Bool := false
deriving DecidableEq, Repr

/-- One chunk of a COPY in flight: its number, the first of its elements and how many, whether its writes are out, and the bytes and block scale read. -/
structure Chunk where
  k : Nat
  first : Nat
  count : Nat
  written : Bool := false
  raw : List MByte := []
  scale : MByte := {}
deriving DecidableEq, Repr

/-- One request of a COPY: its name, the chunk it belongs to (none for a record word), whether it writes, the bytes of the chunk it covers, its copy
address, whether it is a scale access, the bytes to write, how many bytes of its packet come before it, and its state (0 to issue, 1 out, 2 waiting
for residency). -/
structure CopyReq where
  k : Nat
  chunk : Option Nat
  wr : Bool
  off : Nat
  len : Nat
  addr : Word
  isMeta : Bool := false
  data : List MByte := []
  skip : Nat := 0
  tag : Option Nat := none
  st : Nat := 0
deriving DecidableEq, Repr

/-- A COPY in progress (R251): its settings, its launch entry and start order, the next element, what it has found so far, its chunks and requests, the fingerprint, and
the step of its ending (0 elements, 1 fingerprint words, 2 completion words, 3 over) with the next record word. -/
structure CopyRun where
  uid : Nat
  set : CopySet
  entry : Nat := 0
  ord : Nat := 0
  n : Nat := 0
  next : Nat := 0
  stopped : Bool := false
  killed : Bool := false
  cause : Nat := 0
  tval : Word := 0
  unk : Bool := false
  dflag : BitVec 5 := 0
  poi : Bool := false
  bytes : Nat := 0
  chunks : List Chunk := []
  reqs : List CopyReq := []
  chunkNo : Nat := 0
  fcnt : Nat := 0
  famax : W36 := 0
  fsum : W36 := 0
  fsq : W36 := 0
  fff : BitVec 5 := 0
  fin : Nat := 0
  word : Nat := 0
deriving DecidableEq, Repr

/-- An outbound SEND in the message port (R230, R246). -/
structure OutMsg where
  slot : Nat
  dst : Word
  w : PWord
  k : Nat
  sent : Bool := false
deriving DecidableEq, Repr

/-- The registers of a tile (R134) and its bookkeeping. -/
structure TileRegs where
  handler : BitVec 5 := 0
  htgt : BitVec 5 := 0
  trapset : BitVec 16 := 0
  lock : Bool := false
  tccm1 : Nat := 0
  colm1 : Nat := 1
  cpym1 : Nat := 1
  newDiv : List (Nat × Nat × Nat × Nat) := []
  court : Word := 0
  asid : BitVec 11 := 0
  grant : BitVec 25 := 0
  pmsel : AMap (BitVec 18) := []
  pmcnt : AMap Word := []
  ptr : AMap Nat := []
  cyc0 : AMap (Nat × Nat) := []
  mlevel : Nat := 64
  clevel : Nat := 64
  ccred : Nat := 64
  ccredAt : Nat := 0
deriving DecidableEq, Repr

/-- The fields of a fault record that its poster supplies (R382). -/
structure FaultRec where
  cause : Nat
  kind : Nat
  slot : Nat := 0
  cmd : Nat := 0x3F
  eng : Nat := 3
  unit : Nat := 0xFFFF
  row : Nat := 0
  col : Nat := 0
  crt : Nat
  launch : Nat
  tval : Word := 0
  w2 : Word := 0
  w3 : Word := 0
deriving DecidableEq, Repr

/-- A fault record of the present TCC cycle (R384): its fields and the TIME of its fault, its number or the number it would have taken, whether it found room in the
table, and whether it is the first of its launch. -/
structure PostedRec where
  f : FaultRec
  time : Nat
  seq : Nat
  kept : Bool
  first : Bool
deriving DecidableEq, Repr

/-- A tile: its slots and registers, queues, FIFOs, the message port, answers to court-window accesses and to memory-cell requests not yet taken, copies in progress and their port
tags, requests at the banks, watch entries and notices due, the collar, the router and the interface, when the court's stop began, and the TCC cycle of the
latest fault records with these records (R384). -/
structure Tile where
  slots : AMap Slot := []
  reg : TileRegs := {}
  colq : List Cmd := []
  cpyq : List Cmd := []
  fifo : AMap (List (BitVec 16)) := []
  outbox : List OutMsg := []
  wdone : List (Nat × Nat × Reply) := []
  copies : List CopyRun := []
  ctags : BitVec 8 := 0
  copyNo : Nat := 0
  tccReq : List BankReq := []
  cellReq : AMap (List BankReq) := []
  cpyReq : List BankReq := []
  netReq : List BankReq := []
  gather : List Gather := []
  bankPtr : AMap Nat := []
  bankAt : AMap Nat := []
  tccAt : Nat := 0
  watch : AMap (List (Nat × Who)) := []
  notice : List Nat := []
  cdone : List (Nat × Nat × Reply) := []
  col : Collar := {}
  rt : Router := {}
  ni : NetIf := {}
  stopAt : Option Nat := none
  stopCyc : Nat := 0
  postCyc : Nat := 0
  posted : List PostedRec := []
deriving DecidableEq, Repr

/-! ## Tables -/

/-- What the dispatcher knows of an image of a launch: the header words, once read, and how its reading ended (R422, R424). -/
structure ImgInfo where
  hdr : List Word := []
  ok : Bool := false
  cause : Nat := 0
  readAt : Nat := 0
  placed : Bool := false
deriving DecidableEq, Repr

/-- One task that dispatch has given a slot (R423): tile, slot, image, page base, spill base. -/
structure Placed where
  tile : Nat
  slot : Nat
  img : Nat
  base : Nat
  spill : Nat
deriving DecidableEq, Repr

/-- An entry of the launch dependence table (R406): succ holds the NSUCC references that count, past the SUCC fields behind them. -/
structure Entry where
  w : AMap Word := []
  succ : List Nat := []
  past : List Nat := []
  fdrop : Bool := false
  cause : Nat := 0
  live : Nat := 0
  eclass : Nat := 0
  age : Nat := 0
  gen : Nat := 0
  extcnt : Nat := 0
  predcnt : Nat := 0
  st : Nat := 0
  tpost : Nat := 0
  fseq : Nat := 0
  readyAt : Nat := 0
  imgs : AMap ImgInfo := []
  placed : List Placed := []
  started : Bool := false
  aborting : Bool := false
  noticed : Bool := false
deriving DecidableEq, Repr

/-- Who posts a packet: the host or a task (R410). -/
inductive Poster where
  | host
  | task (tile slot : Nat)
deriving DecidableEq, Repr

/-- A packet at the dispatcher, with the poison of its words (R411) and the TIME at which it came there (R418). -/
structure PostReq where
  from_ : Poster
  words : List Word
  poi : Bool := false
  came : Nat := 0
deriving DecidableEq, Repr

/-- A read of a scratchpad in another package that the dispatcher has sent over the fabric (R163, R422): what it reads, and the answer once it has come. -/
structure FarRead where
  asid : Nat
  pkg : Nat
  tile : Nat
  off : Nat
  n : Nat
  ans : Option Reply := none
deriving DecidableEq, Repr

/-- The pre-emption of a court in progress (R387, R388): the reason, when it was asked for and began, and how far it is (0 asked for, 2 phases 1 and 2
begun, 3 the save area written). -/
structure StopProc where
  reason : Nat
  asked : Nat
  phase : Nat := 0
  began : Nat := 0
deriving DecidableEq, Repr

/-- A court table entry (R430), with its quota counter (R459). -/
structure Court where
  w : AMap Word := []
  v : Bool := false
  unpl : Bool := false
  st : Nat := 0
  curasid : Nat := 0
  frhead : Nat := 0
  frtail : Nat := 0
  dlhead : Nat := 0
  dltail : Nat := 0
  dldrop : Nat := 0
  frdrop : Nat := 0
  sseq : Nat := 0
  eqrem : Nat := 0
  ex : Bool := false
  lastE : Nat := 0
  stop : Option StopProc := none
deriving DecidableEq, Repr

/-- A command in the court command interface (R429). -/
structure CmdPort where
  stage : AMap Word := []
  copy : AMap Word := []
  cmd : BitVec 64 := 0
  busy : Bool := false
  miss : Bool := false
  status : Nat := 0
deriving DecidableEq, Repr

/-- The role state (R441, R442): the step that runs, and the ROLES value that an open sequence is to write. -/
structure Roles where
  roles : BitVec 32 := 0
  rstk : Nat := 0
  rlyr : Nat := 0
  rrole : Nat := 0
  busy : Bool := false
  step : Nat := 0
  closing : Bool := false
  rdone : Nat := 0
  rstat : Nat := 0
  lmsize : AMap Nat := []
  tplock : Bool := false
  tpcnt : Nat := 0
  tpat : AMap (BitVec 32) := []
  newRoles : BitVec 32 := 0
deriving DecidableEq, Repr

/-- A notice to the host (R428). -/
structure Notice where
  w : List Word
deriving DecidableEq, Repr

/-- A host request in HQ (R379): a read or a write of device memory under an ASID. -/
structure HostReq where
  asid : Nat
  addr : Nat
  wr : Bool
  data : List MByte
  n : Nat
  sent : Bool := false
deriving DecidableEq, Repr

/-- Bring-up and package state (R443, R475 to R482); msAt is the TIME of the last change of PHASE. -/
structure Pkg where
  rstn : Bool := false
  pkgid : BitVec 12 := 0
  phase : Nat := 0
  fatal : Bool := false
  prior : Bool := false
  fail : Nat := 0
  detail : Nat := 0
  msAt : Nat := 0
  riseAt : Nat := 0
  portup : BitVec 96 := 0
  devok : BitVec 17 := 0
  measure : BitVec 512 := 0
  reports : Nat := 0
  lyen : BitVec 16 := 0
  thermtrip : Bool := false
deriving DecidableEq, Repr

/-- The Ngambi queues (R379) and the answers to the host's requests: told of them have gone to its link. NQ holds the first 256 of nq, and later notices wait to
enter it. Of DQ, loaded packets have gone to the link, and sent of these have left on it whole. rx holds the packets coming in on the link, by VC; ring is the
host ring that firmware has set, its address and its number of notices, and ringAt the place of the next one (notes/assumptions/118.md). -/
structure Ngambi where
  hq : List HostReq := []
  lq : List (List Word) := []
  nq : List Notice := []
  dq : List Packet := []
  answers : List Reply := []
  noticeNo : Nat := 0
  told : Nat := 0
  loaded : Nat := 0
  sent : Nat := 0
  rx : AMap Packet := []
  ring : Option (Nat × Nat) := none
  ringAt : Nat := 0
deriving DecidableEq, Repr

end Sys2Proof.Machine
end

