-- ==== Sys2Proof/Machine/State.lean ====
section
/-! DEFINITION. The state of the machine: one KW9 package, right after reset and in every step after it; the reasons for which a step can stop.
INVENTORY.md lists every item with the rule that names it. -/

namespace Sys2Proof.Machine

/-- What comes in from a partner package, from the host's card, or from the firmware of the management core (R206, R358, R363, R376, R379;
notes/assumptions/26.md): a flit at a package port, or at port 76 of base die s0, the Ngambi link, on a VC with the flit sequence of its sideband, and whether
its link CRC holds; credits for n flits of a VC; the acknowledgement of the n oldest flits sent; a request of the management core on stream 52; the host ring
for notices, its address in host memory and its length in notices. -/
inductive Inbound where
  | flit (d p vc seq : Nat) (f : Flit) (crcOk : Bool)
  | credit (d p vc n : Nat)
  | ack (d p n : Nat)
  | core (home : Home) (op : MemOp)
  | ring (base n : Nat)
deriving DecidableEq, Repr

/-- One turn of the environment's schedule: the TIME that passes, what then comes in from outside, and the event that then happens, if any
(notes/assumptions/3.md). -/
structure Turn where
  dt : Nat
  act : Option Instr
  inp : Option Inbound := none
deriving DecidableEq, Repr

/-- The whole package. -/
structure State where
  time : Nat := 0
  mem : Memory := []
  marks : Marks := []
  soft : List Nat := []
  hard : List Nat := []
  secded : Nat := 0
  tiles : AMap Tile := []
  dies : AMap Die := []
  entries : AMap Entry := []
  agelim : Nat := 64
  clsPtr : AMap Nat := []
  dispQ : List PostReq := []
  farReads : List FarRead := []
  boundary : Nat := 0
  courts : AMap Court := []
  cport : CmdPort := {}
  ranges : AMap (BitVec 256) := []
  roles : Roles := {}
  pkg : Pkg := {}
  ngambi : Ngambi := {}
  powerAt : Nat := 0
  focusT : Nat := 0
  focusS : Nat := 0
  nextId : Nat := 0
  agenda : List Turn := []
  parked : AMap Collar := []
  evTurn : Bool := false
  evNo : Nat := 0
  lastTile : Nat := 0
deriving DecidableEq, Repr

/-- The machine stops with a fault. Each is raised by a meaning whose unit the hardware does not have; safe. -/
inductive Fault where
  /-- A step names a unit (a tile, slot, cell, die, port or table entry) outside the ranges of R6, R14 and R22: safe, the hardware has no such unit. -/
  | noSuchUnit
deriving DecidableEq, Repr

/-- A step has no meaning. -/
inductive Refusal where
  /-- The instruction has no meaning yet; raised by an arm of exec alone: safe. -/
  | notModelled (mnemonic : String)
deriving DecidableEq, Repr

/-- The machine right after reset: RSTN low, PHASE 0, every item at its reset value (R10, R11, R475, R478; INVENTORY.md). -/
def State.reset : State := {}

end Sys2Proof.Machine
end

