-- ==== Sys2Proof/Machine/Ops.lean ====
section
/-! DEFINITION. The named operations over the state: tiles, slots and registers; the pass of a cycle count; performance counters; fault records;
performing an access at its home; taking a trap and starting an abort (spec/03_reg_core.md R77 to R88, R104, R106; spec/05_reg_state.md R138 to R142;
spec/06_mem_spaces.md R152, R156, R171; spec/14_q_stop.md R382 to R386; spec/17_counters.md R449, R460). -/

namespace Sys2Proof.Machine

/-- The outcome of a step of this machine. -/
abbrev Out := Host.Outcome State Fault Refusal

/-! ## Tiles, dies and slots -/

/-- The number of tiles (R14). -/
def numTiles : Nat := 768

/-- A tile. -/
def State.tile (s : State) (t : Nat) : Tile := s.tiles.at t {}
/-- The state with tile t replaced. -/
def State.putTile (s : State) (t : Nat) (x : Tile) : State := { s with tiles := s.tiles.put t x }
/-- The state with tile t changed. -/
def State.modTile (s : State) (t : Nat) (f : Tile → Tile) : State := s.putTile t (f (s.tile t))
/-- A slot of a tile. -/
def Tile.slot (x : Tile) (k : Nat) : Slot := x.slots.at k {}
/-- The tile with slot k replaced. -/
def Tile.putSlot (x : Tile) (k : Nat) (sl : Slot) : Tile := { x with slots := x.slots.put k sl }
/-- The tile with slot k changed. -/
def Tile.modSlot (x : Tile) (k : Nat) (f : Slot → Slot) : Tile := x.putSlot k (f (x.slot k))
/-- A slot. -/
def State.slot (s : State) (t k : Nat) : Slot := (s.tile t).slot k
/-- The state with a slot changed. -/
def State.modSlot (s : State) (t k : Nat) (f : Slot → Slot) : State := s.modTile t fun x => x.modSlot k f
/-- A base die. -/
def State.die (s : State) (d : Nat) : Die := s.dies.at d {}
/-- The state with base die d changed. -/
def State.modDie (s : State) (d : Nat) (f : Die → Die) : State := { s with dies := s.dies.put d (f (s.die d)) }
/-- A court table entry. -/
def State.court (s : State) (n : Nat) : Court := s.courts.at n {}
/-- The state with court table entry n changed. -/
def State.modCourt (s : State) (n : Nat) (f : Court → Court) : State := { s with courts := s.courts.put n (f (s.court n)) }
/-- A launch table entry. -/
def State.entry (s : State) (e : Nat) : Entry := s.entries.at e {}
/-- The state with launch table entry e changed. -/
def State.modEntry (s : State) (e : Nat) (f : Entry → Entry) : State := { s with entries := s.entries.put e (f (s.entry e)) }
/-- A collar changed. -/
def State.modCol (s : State) (t : Nat) (f : Collar → Collar) : State := s.modTile t fun x => { x with col := f x.col }

/-- The layer's role bits: 0 off, 1 compute, 2 memory (R15, R441). -/
def State.role (s : State) (t : Nat) : Nat := nfld s.roles.roles.toNat (2 * (t / 48) + 1) (2 * (t / 48))

/-- A tile's number from stack, layer, row, column (R6). -/
def tileNo (stk lyr row col : Nat) : Nat := ((stk * 4 + lyr) * 6 + row) * 8 + col
/-- The column of a tile on its die. -/
def tileCol (t : Nat) : Nat := t % 8
/-- The row of a tile on its die. -/
def tileRow (t : Nat) : Nat := t / 8 % 6
/-- The layer of a tile. -/
def tileLyr (t : Nat) : Nat := t / 48 % 4
/-- The stack of a tile. -/
def tileStk (t : Nat) : Nat := t / 192
/-- STILE and DTILE of R362 for a tile. -/
def tileBits (t : Nat) : Nat := tileStk t * 2 ^ 8 + tileLyr t * 2 ^ 6 + tileRow t * 8 + tileCol t
/-- The tile that STILE or DTILE names. -/
def tileOfBits (b : Nat) : Nat := tileNo (nfld b 9 8) (nfld b 7 6) (nfld b 5 3) (nfld b 2 0)

/-! ## Clocks (R21, R146) -/

/-- The divisor of an engine: 0 TCC, 1 COL, 2 CPY. -/
def TileRegs.div (r : TileRegs) (e : Nat) : Nat :=
  (if e = 0 then r.tccm1 else if e = 1 then r.colm1 else r.cpym1) + 1

/-- The cycles of an engine up to now: a base count and the time it was taken, then one cycle per divisor. -/
def Tile.cyc (x : Tile) (e now : Nat) : Nat :=
  let p := x.reg.cyc0.at e (0, 0)
  p.1 + (now - p.2) / x.reg.div e

/-- The base count of an engine taken anew, before its divisor changes. -/
def Tile.rebase (x : Tile) (e now : Nat) : Tile :=
  { x with reg := { x.reg with cyc0 := x.reg.cyc0.put e (x.cyc e now, now) } }

/-- Set an engine's divisor (R146). -/
def Tile.setDiv (x : Tile) (e n now : Nat) : Tile :=
  let x := x.rebase e now
  { x with reg :=
      if e = 0 then { x.reg with tccm1 := n - 1 }
      else if e = 1 then { x.reg with colm1 := n - 1 }
      else { x.reg with cpym1 := n - 1 } }

/-- Is the package held in reset: RSTN is low, or the thermal trip stands until RSTN is cycled (R475, R477). -/
def State.held (s : State) : Bool := !s.pkg.rstn || s.pkg.thermtrip

/-! ## Packets at the dispatcher (R418) -/

/-- The place of a poster among those whose packets come in one cycle: the host, base die s0, the other stacks. -/
def Poster.rank : Poster → Nat
  | .host => 0
  | .task t _ => if tileStk t = 0 then 1 else 2

/-- A packet takes its place behind those that came before it; of those that come in one cycle the lower rank goes first. -/
def insPacket (p : PostReq) : List PostReq → List PostReq
  | [] => [p]
  | q :: rest => if q.came = p.came ∧ p.from_.rank < q.from_.rank then p :: q :: rest else q :: insPacket p rest

/-- A packet comes to the dispatcher. -/
def State.queuePacket (s : State) (p : PostReq) : State := { s with dispQ := insPacket { p with came := s.time } s.dispQ }

/-! ## Performance counters (R460, R461) -/

/-- Court number. -/
def courtCrt (c : Word) : Nat := fld c 5 0

/-- Add n to one counter word: 48 bits of count, sticky OVF in bit 63. -/
def pmAdd (w : Word) (n : Nat) : Word :=
  let c := w.toNat % 2 ^ 48 + n
  let o := bitOf w 63 || decide (2 ^ 48 ≤ c)
  BitVec.ofNat 64 (bnat o * 2 ^ 63 + c % 2 ^ 48)

/-- Count n events of a code at a tile, in every counter that is enabled for it. -/
def TileRegs.pm (r : TileRegs) (evt n : Nat) : TileRegs :=
  r.pmsel.foldl (fun r p =>
    if nbit p.2.toNat 16 && p.2.toNat % 2 ^ 16 == evt then { r with pmcnt := r.pmcnt.put p.1 (pmAdd (r.pmcnt.at p.1 0) n) } else r) r

/-- Count n events of a code, when they belong to court crt, at a tile: counters that ask for their own court leave out the others (R460). -/
def TileRegs.pmFor (r : TileRegs) (evt n crt : Nat) : TileRegs :=
  r.pmsel.foldl (fun r p =>
    if nbit p.2.toNat 16 && p.2.toNat % 2 ^ 16 == evt && (!nbit p.2.toNat 17 || courtCrt r.court == crt) then
      { r with pmcnt := r.pmcnt.put p.1 (pmAdd (r.pmcnt.at p.1 0) n) } else r) r

/-- Count events at a tile. -/
def State.pm (s : State) (t evt n : Nat) : State :=
  if (s.tile t).reg.pmsel.isEmpty then s else s.modTile t fun x => { x with reg := x.reg.pm evt n }

/-- Count events of a packet's court at a tile. -/
def State.pmFor (s : State) (t evt n crt : Nat) : State :=
  if (s.tile t).reg.pmsel.isEmpty then s else s.modTile t fun x => { x with reg := x.reg.pmFor evt n crt }

/-! ## Registers (R56, R77) -/

/-- A scalar register; s0 reads 0 with poison clear. -/
def RegFile.get (r : RegFile) (i : Nat) : PWord := if i = 0 then {} else r.s.at i {}
/-- Write a scalar register; a write to s0 is discarded. -/
def RegFile.set (r : RegFile) (i : Nat) (v : PWord) : RegFile := if i = 0 then r else { r with s := r.s.put i v }
/-- A predicate; p0 reads 1. -/
def RegFile.pred (r : RegFile) (i : Nat) : Bool := i = 0 || r.p.getLsbD i
/-- Write a predicate; a write to p0 is discarded. -/
def RegFile.setPred (r : RegFile) (i : Nat) (b : Bool) : RegFile :=
  if i = 0 then r else { r with p := BitVec.ofNat 8 (nsetBit r.p.toNat i b) }
/-- A link register. -/
def RegFile.lk (r : RegFile) (i : Nat) : BitVec 32 := if i = 0 then r.lk0 else if i = 1 then r.lk1 else if i = 2 then r.lk2 else r.lk3
/-- Write a link register. -/
def RegFile.setLk (r : RegFile) (i : Nat) (v : BitVec 32) : RegFile :=
  if i = 0 then { r with lk0 := v } else if i = 1 then { r with lk1 := v } else if i = 2 then { r with lk2 := v } else { r with lk3 := v }

/-- The loop-end check at the instruction's address, and the step to the next one (R106): lc1 first. -/
def RegFile.loopEnd (r : RegFile) : RegFile :=
  let e := r.pc
  let next := e + 4
  let hit1 := r.lc1.count ≠ 0 ∧ r.lc1.stop = e
  if hit1 ∧ 1 < r.lc1.count.toNat then
    { r with lc1 := { r.lc1 with count := r.lc1.count - 1 }, pc := r.lc1.start }
  else
    let r := if hit1 then { r with lc1 := { r.lc1 with count := 0 } } else r
    let hit0 := r.lc0.count ≠ 0 ∧ r.lc0.stop = e
    if hit0 ∧ 1 < r.lc0.count.toNat then
      { r with lc0 := { r.lc0 with count := r.lc0.count - 1 }, pc := r.lc0.start }
    else
      let r := if hit0 then { r with lc0 := { r.lc0 with count := 0 } } else r
      { r with pc := next }

/-- The slot with its register file changed. -/
def Slot.modRf (sl : Slot) (f : RegFile → RegFile) : Slot := { sl with rf := f sl.rf }
/-- The slot with its task record changed, if it holds a task. -/
def Slot.modTask (sl : Slot) (f : TaskInfo → TaskInfo) : Slot := { sl with task := sl.task.map f }
/-- Does the slot hold a live task. -/
def Slot.live (sl : Slot) : Bool := sl.task.isSome

/-- Commit one in-flight write (R85, R121): flags first, then the register or predicate. -/
def Slot.commit (sl : Slot) (w : Inflight) : Slot :=
  let sl := { sl with sr := { sl.sr with flg := sl.sr.flg ||| w.flags } }
  if w.isPred then sl.modRf fun r => r.setPred w.dst (bitOf w.val.val 0)
  else sl.modRf fun r => r.set w.dst w.val

/-- Commit every in-flight write, in issue order (R88). An instruction at which the task still stands (FEN nonzero, R122) has had no effect
yet: it is dropped, and is executed again when the task goes on. -/
def Slot.drain (sl : Slot) : Slot := { ((sl.infl.filter fun w => !w.late).foldl Slot.commit sl) with infl := [] }

/-! ## Selector fields shared by many rules -/

/-- COURT fields (R135). -/
def courtPkg (c : Word) : Nat := fld c 63 52
/-- Stack of the court. -/
def courtStk (c : Word) : Nat := fld c 51 50
/-- Layer of the court. -/
def courtLyr (c : Word) : Nat := fld c 49 48
/-- Row of the origin. -/
def courtOrgRow (c : Word) : Nat := fld c 47 45
/-- Column of the origin. -/
def courtOrgCol (c : Word) : Nat := fld c 44 42
/-- Rows of the court less one. -/
def courtRowsM1 (c : Word) : Nat := fld c 41 39
/-- Columns of the court less one. -/
def courtColsM1 (c : Word) : Nat := fld c 38 36
/-- Is the tile a pair half. -/
def courtPairH (c : Word) : Bool := bitOf c 7

/-- The tile at court-relative coordinates of the court that a COURT value describes (R7). -/
def courtTile (c : Word) (row col : Nat) : Nat := tileNo (courtStk c) (courtLyr c) (courtOrgRow c + row) (courtOrgCol c + col)
/-- The court-relative row of a tile. -/
def relRow (c : Word) (t : Nat) : Nat := tileRow t - courtOrgRow c
/-- The court-relative column of a tile. -/
def relCol (c : Word) (t : Nat) : Nat := tileCol t - courtOrgCol c

/-- The tiles of a court table entry, in row order (R430). -/
def Court.tiles (c : Court) : List Nat :=
  let w := c.w.at 0 0
  let stk := fld w 46 45
  let lyr := fld w 44 43
  let r0 := fld w 42 40
  let c0 := fld w 39 37
  (List.range (fld w 36 34 + 1)).flatMap fun r => (List.range (fld w 33 31 + 1)).map fun k => tileNo stk lyr (r0 + r) (c0 + k)

/-- The pair partner of a tile: the other column of its court-relative pair (R39). -/
def pairPartner (c : Word) (t : Nat) : Nat := if relCol c t % 2 = 0 then t + 1 else t - 1
/-- Is the tile a west half. -/
def isWest (c : Word) (t : Nat) : Bool := relCol c t % 2 = 0

/-! ## Fault records (R382 to R384, R439) -/

/-- Word 0 of a fault record. -/
def FaultRec.word0 (f : FaultRec) : Nat :=
  place f.cause 56 8 + place f.kind 53 3 + place f.slot 48 4 + place f.cmd 42 6 + place f.eng 40 2 + place f.unit 24 16
    + place f.row 21 3 + place f.col 18 3 + place f.crt 12 6 + place f.launch 0 12

/-- Write 64-bit words from an address on. -/
def Memory.writeWords (m : Memory) (a : Nat) : List Nat → Memory
  | [] => m
  | w :: t => Memory.writeWords (m.writeN a 8 w) (a + 8) t

/-- Write words and clear the poison marks they cover. -/
def State.writeWords (s : State) (a : Nat) (ws : List Nat) : State :=
  { s with mem := s.mem.writeWords a ws,
           marks := ws.foldl (fun (p : Marks × Nat) _ => (p.1.setTo p.2 false, p.2 + 8)) (s.marks, a) |>.1 }

/-- Can a ring take one more record: HEAD - TAIL < 2^L modulo 2^32 (R439). -/
def ringRoom (head tail log2 : Nat) : Bool := decide ((head + 2 ^ 32 - tail) % 2 ^ 32 < 2 ^ log2)

/-- Has a court's fault record table room for one more record. -/
def Court.faultRoom (c : Court) : Bool := c.v && ringRoom c.frhead c.frtail (fld (c.w.at 4 0) 4 0)

/-- Write a fault record of a time at its place in the court's table (R382, R439). -/
def State.putRecord (s : State) (f : FaultRec) (time seq : Nat) : State :=
  let w := (s.court f.crt).w.at 4 0
  s.writeWords (hbmBase + fld w 38 12 * 2 ^ 12 + seq % 2 ^ fld w 4 0 * 64)
    [f.word0, f.tval.toNat, f.w2.toNat, f.w3.toNat, time % 2 ^ 64, 0, 0, 2 ^ 63 + seq]

/-- Post a fault record: into the court's ring when it has room, else dropped and counted; the launch's first cause is kept (R382, R406, R439). -/
def State.postFault (s : State) (f : FaultRec) : State :=
  let c := s.court f.crt
  let room := c.faultRoom
  let seq := c.frhead
  let s1 :=
    if room then
      let s := s.putRecord f s.time seq
      s.modCourt f.crt fun c => { c with frhead := (c.frhead + 1) % 2 ^ 32 }
    else s.modCourt f.crt fun c => { c with frdrop := min (c.frdrop + 1) (2 ^ 32 - 1) }
  s1.modEntry f.launch fun e =>
    if e.cause = 0 then { e with cause := f.cause, fseq := seq, fdrop := !room } else e

/-- The place of a record among those of one tile and TCC cycle (R384): task traps by slot, COL, CPY, collar units by frame address, the array. -/
def FaultRec.rank (f : FaultRec) : Nat :=
  if f.kind = 0 ∨ f.kind = 5 then f.slot else if f.kind = 1 then 16 + f.eng else if f.kind = 2 then 2 ^ 8 + f.unit else 2 ^ 20

/-- Records in their order take places: those that are in the table are written there, and of each launch whose first record is among them the first in the
order becomes it. -/
def State.placeRecords (s : State) : List PostedRec → List Nat → State
  | [], _ => s
  | r :: rest, done =>
    let s := if r.kept then s.putRecord r.f r.time r.seq else s
    if r.first && !done.contains r.f.launch then
      State.placeRecords (s.modEntry r.f.launch fun e => { e with cause := r.f.cause, fseq := r.seq, fdrop := !r.kept }) rest (r.f.launch :: done)
    else State.placeRecords s rest done

/-- Records in an order take the places of a list of others, one by one; a launch has its first record among them when it had before. -/
def takePlaces (l places : List PostedRec) : List PostedRec :=
  (l.zip places).map fun q => { q.1 with seq := q.2.seq, kept := q.2.kept, first := l.any fun r => r.first && r.f.launch == q.1.f.launch }

/-- Post a fault record of a tile, filling in court, coordinates and the count of R461. Of the records that the tile posts in one TCC cycle those of higher rank
stand behind it (R384): they move on by one place. -/
def State.postTileFault (s : State) (t : Nat) (f : FaultRec) : State :=
  let c := (s.tile t).reg.court
  let f := { f with row := relRow c t, col := relCol c t, crt := courtCrt c }
  let s := s.pm t 0x16 1
  let cyc := (s.tile t).cyc 0 s.time
  let old := if (s.tile t).postCyc = cyc then (s.tile t).posted else []
  let behind := old.filter fun r => decide (f.rank < r.f.rank)
  let ahead := old.filter fun r => decide (r.f.rank ≤ f.rank)
  let new := fun (g : FaultRec) => ({ f := g, time := s.time, seq := (s.court g.crt).frhead, kept := (s.court g.crt).faultRoom, first := (s.entry g.launch).cause == 0 } : PostedRec)
  match behind.getLast? with
  | none => (s.postFault f).modTile t fun x => { x with postCyc := cyc, posted := old ++ [new f] }
  | some r =>
    let l := takePlaces (new f :: behind) (behind ++ [new r.f])
    ((s.postFault r.f).placeRecords l []).modTile t fun x => { x with postCyc := cyc, posted := ahead ++ l }

/-! ## Performing an access at a scratchpad (R156, R171, R205, R207, R342, R344, R449) -/

/-- A read that finds a latent error in the words it covers (R152): a single-bit error is corrected and counted, an uncorrectable one
poisons the word. -/
def State.scrub (s : State) (key : Nat) : Nat → State
  | 0 => s
  | n + 1 =>
    let w := key / 8 * 8
    let s := if s.soft.contains w then { s with soft := setDel s.soft w, secded := s.secded + 1 } else s
    let s := if s.hard.contains w then { s with hard := setDel s.hard w, marks := s.marks.setTo w true } else s
    State.scrub s (w + 8) n

/-- The words with a single-bit error among n bytes from a place on are corrected and counted as they are read (R152). -/
def State.scrubSoft (s : State) (key n : Nat) : State :=
  let hit := fun (w : Nat) => decide (key / 8 * 8 ≤ w) && decide (w < key + n)
  { s with soft := s.soft.filter fun w => !hit w, secded := s.secded + (s.soft.filter hit).length }

/-- The bytes at a place, each with the poison of its unit. -/
def State.readM (s : State) (key n : Nat) : List MByte :=
  (List.range n).map fun i => { val := s.mem.get (key + i), en := true, poi := s.marks.has (key + i) }

/-- Write bytes into poison-marked words of `unit` bytes, from a place on: each word's mark follows from the bytes that fall in it. -/
def State.writeUnits (s : State) (unit key : Nat) (bs : List MByte) : Nat → State
  | 0 => s
  | fuel + 1 =>
    match bs with
    | [] => s
    | _ =>
      let room := unit - key % unit
      let part := bs.take room
      let old := s.marks.has key
      let full := part.length = unit && part.all (·.en)
      let mark := if part.any (fun b => b.en && b.poi) then true else if full then false else old
      let s := { s with mem := s.mem.writeM key part, marks := s.marks.setTo key mark,
                        soft := if full then setDel s.soft key else s.soft, hard := if full then setDel s.hard key else s.hard }
      State.writeUnits s unit (key + room) (bs.drop room) fuel

/-- n bytes from place pos on, cut at multiples of lim: offset and length of each part. -/
def cutAt (lim : Nat) : Nat → Nat → Nat → Nat → List (Nat × Nat)
  | 0, _, _, _ => []
  | fuel + 1, pos, off, n =>
    if n = 0 then []
    else
      let l := min n (lim - pos % lim)
      (off, l) :: cutAt lim fuel (pos + l) (off + l) (n - l)

/-- Write bytes into a scratchpad or spill memory. -/
def State.writeM (s : State) (key : Nat) (bs : List MByte) : State := s.writeUnits 8 key bs (bs.length + 1)

/-- CounterUpdate (R449): the new word. -/
def counterUpdate (w : Word) (isPost : Bool) (n : Nat) : Word :=
  let p := bitOf w 63
  let o := bitOf w 62
  let c := sgn 48 w.toNat
  let o := if isPost && p then true else o
  let c := if isPost then c + (n : Int) else c - (n : Int)
  let p := p || isPost
  let hi := c > 2 ^ 47 - 1
  let lo := c < -(2 ^ 47)
  let c : Int := if hi then 2 ^ 47 - 1 else if lo then -(2 ^ 47) else c
  let o := o || hi || lo
  let o := o || (p && decide (c < 0))
  BitVec.ofNat 64 (bnat p * 2 ^ 63 + bnat o * 2 ^ 62 + wrapInt 48 c)

/-- The result of an atomic operation on w-bit values: the new value, if one is written (R171, R342). -/
def atomicNew (bits op : Nat) (old x c : Nat) : Option Nat :=
  let so := sgn bits old
  let sx := sgn bits x
  if op = 0 then some ((old + x) % 2 ^ bits)
  else if op = 1 then some (old &&& x)
  else if op = 2 then some (old ||| x)
  else if op = 3 then some (old ^^^ x)
  else if op = 4 then some (if so < sx then old else x)
  else if op = 5 then some (if sx < so then old else x)
  else if op = 6 then some (if old < x then old else x)
  else if op = 7 then some (if x < old then old else x)
  else if op = 8 then some x
  else if op = 9 then (if old = c then some x else none)
  else none

/-- Is any memory cell's watcher on this word (R455). -/
def Tile.watched (x : Tile) (word : Nat) : Bool := x.watch.any fun p => p.2.any fun w => w.1 == word

/-- A write to scratchpad words performs: words that are watched are due a change notice (R455). -/
def State.touched (s : State) (t off n : Nat) : State :=
  let ws := (List.range ((off + n + 7) / 8 - off / 8)).map fun i => off / 8 * 8 + 8 * i
  let x := s.tile t
  let hit := ws.filter x.watched
  if hit.isEmpty then s else s.putTile t { x with notice := hit.foldl setAdd x.notice }

/-- One ARRIVE or POST update of the counter word at a scratchpad offset (R449): a poisoned word is left unchanged. -/
def State.counter (s : State) (t off : Nat) (isPost : Bool) (n : Nat) : State :=
  let key := scratchKey t (off / 8 * 8)
  let s := s.scrub key 1
  if s.marks.has key then s
  else
    let w := counterUpdate (BitVec.ofNat 64 (s.mem.readN key 8)) isPost n
    { s with mem := s.mem.writeN key 8 w.toNat }.touched t off 8

/-- An access performs at the bank grant of a scratchpad (R207): the new state and the answer. -/
def State.performScratch (s : State) (t off : Nat) (op : MemOp) : State × Reply :=
  let key := scratchKey t off
  match op with
  | .read n =>
    let s := s.scrub key ((off + n + 7) / 8 - off / 8)
    (s, ⟨.ok, s.readM key n⟩)
  | .watch =>
    let s := s.scrub key 1
    (s, ⟨.ok, s.readM key 8⟩)
  | .write bs ctr =>
    let s := (s.writeM key bs).touched t off bs.length
    let n := (bs.filter (·.en)).length
    match ctr with
    | some c => if n = 0 then (s, ⟨.ok, []⟩) else (s.counter t c false n, ⟨.ok, []⟩)
    | none => (s, ⟨.ok, []⟩)
  | .atomic w opc x xp c =>
    let s := s.scrub key 1
    let po := s.marks.has key
    let old := s.mem.readN key w
    if opc = 10 then
      let b := x.toNat % 64
      let bit := nbit old b
      let s := if po then s else { s with mem := s.mem.writeN key 8 (nsetBit old b true) }.touched t off 8
      (s, ⟨.ok, (toBytes w (bnat bit)).map fun v => { val := v, poi := po }⟩)
    else
      let new := if !po || opc = 8 then atomicNew (8 * w) opc old (x.toNat % 2 ^ (8 * w)) (c.toNat % 2 ^ (8 * w)) else none
      let s := match new with
        | none => s
        | some v =>
          let mark := if opc = 8 then (if w = 8 then xp else xp || po) else false
          { s with mem := s.mem.writeN key w v, marks := s.marks.setTo key mark }.touched t off w
      (s, ⟨.ok, (toBytes w old).map fun v => { val := v, poi := po }⟩)
  | .post n => (s.counter t off true n, ⟨.ok, []⟩)
  | .arrive n => (s.counter t off false n, ⟨.ok, []⟩)

/-! ## Tokens and wake events (R29, R230, R236) -/

/-- Record a wake event in a task's WREC (R29, R135). -/
def Slot.wake (sl : Slot) (bit : Nat) : Slot :=
  if sl.live then { sl with sr := { sl.sr with wrec := sl.sr.wrec ||| BitVec.ofNat 5 (2 ^ bit) } } else sl


/-- The token FIFOs in the order of R230: 0 CTL to COL, 1 COL to CTL, 2 CTL to CPY, 3 CPY to CTL, 4 COL to CPY, 5 CPY to COL. -/
def Tile.fifoAt (x : Tile) (i : Nat) : List (BitVec 16) := x.fifo.at i []

/-- Has the FIFO room for one more token. -/
def Tile.fifoRoom (x : Tile) (i : Nat) : Bool := decide ((x.fifoAt i).length < 15)

/-- A token (R231). -/
def token (cause eng cmd : Nat) : BitVec 16 := BitVec.ofNat 16 (place cause 8 8 + place eng 6 2 + place cmd 0 6)

/-- Is the word a TOKW on the FIFO to CTL numbered w (1 COL, 2 CPY), and which guard has it. -/
def tokwGuard (word : IWord) (w : Nat) : Option (BitVec 4) :=
  match decodeWord word with
  | .ok (.tokw g e) => if e.toNat + 1 = w then some g else none
  | _ => none

/-- Does a task wait on the FIFO to CTL numbered w (R29): in WAIT with that reason, or in TOKW on it, that is, its next instruction is a TOKW whose guard
holds and whose FIFO is empty (`word` is the word at its PC). -/
def Slot.waitsOn (sl : Slot) (word : IWord) (empty : Bool) (w : Nat) : Bool :=
  match sl.task with
  | none => false
  | some ti =>
    match ti.hold with
    | .wait m _ _ => m.getLsbD w
    | .none | .yield _ _ =>
      empty && !ti.stopped && !ti.halted && ti.trap.isNone &&
        (match tokwGuard word w with
         | some g => sl.rf.pred (g.toNat % 8) != g.getLsbD 3
         | none => false)
    | _ => false

/-- Push a token; a push to a FIFO to CTL is a wake event of the tasks that wait on it (R29). -/
def State.pushTok (s : State) (t i : Nat) (tok : BitVec 16) : State :=
  let w := if i = 1 then 1 else if i = 3 then 2 else 0
  s.modTile t fun x =>
    let empty := (x.fifoAt i).isEmpty
    let word := fun (sl : Slot) => BitVec.ofNat 32 (s.mem.readN (istoreKey t sl.rf.pc.toNat) 4)
    { x with fifo := x.fifo.put i (x.fifoAt i ++ [tok]),
             slots := if w = 0 then x.slots else x.slots.mapVals fun sl => if sl.waitsOn (word sl) empty w then sl.wake w else sl }

/-- Pop the oldest token. -/
def Tile.popTok (x : Tile) (i : Nat) : Tile := { x with fifo := x.fifo.put i (x.fifoAt i).tail }

/-! ## Ending tasks, aborts and traps (R140, R143, R238, R386) -/

/-- Set a flag bit of CSTAT. -/
def Collar.cstatBit (c : Collar) (i : Nat) : Collar := { c with cstat := c.cstat ||| BitVec.ofNat 64 (2 ^ i) }

/-- Does a rally run: from the swap until the whistle that ends it has sounded (R13, R278, R285); the whistle of a court's stop does not end it (R390). -/
def Collar.rallyRuns (c : Collar) : Bool := match c.rally with | some r => r.recStep == 0 | none => false

/-- The work of a CSTOP (R288). -/
def Collar.cstop (c : Collar) (haltMode : Bool) : Collar :=
  if c.rallyRuns then
    { c.cstatBit 17 with rally := c.rally.map fun r => if haltMode then { r with halt := true, cstopHalt := true } else { r with drain := true } }
  else c

/-- A rally is halted as by CSTOP HALT, with no status record and no push to follow (R239, R386). -/
def Collar.kill (c : Collar) : Collar := { c.cstop true with rally := c.rally.map fun r => { r with halt := true, abort := true } }

/-- A launch abort empties the channel buffers (R263), and the spill queues and return buffers of the memory cells (R328). -/
def Collar.emptied (c : Collar) : Collar :=
  { c with xd := [], xc := [], xdAcc := [], xcAcc := [], cin := [], cctl := [], minp := [], mord := [], ain := [],
           mc := c.mc.mapVals fun k => { k with spill := [], ret := [], out := none, raw := [] } }

/-- Steps 1 to 3 of an abort on one tile of the launch (R238, R386): its tasks stop, its commands that have not started are removed, its running
copies stop issuing, FIFOs and channels are emptied, its rally is halted, and the collar's channel buffers are emptied, which wait for the whistle of a rally
(R263, R328). DESIGN CHOICE (notes/assumptions/107.md): commands of the launch that have finished and wait to retire stay, and retire with their pushes. -/
def Tile.abortLaunch (x : Tile) (e : Nat) : Tile :=
  let mine := fun (c : Cmd) => c.entry = e
  let runs := x.colq.any fun c => c.entry = e && c.cmd = 2 && c.st = 1
  { x with
    slots := x.slots.mapVals fun sl => { (sl.modTask fun ti => if ti.entry = e then { ti with halted := true } else ti) with chan := [] },
    colq := x.colq.filter fun c => !(mine c && c.st = 0),
    cpyq := x.cpyq.filter fun c => !(mine c && c.st = 0),
    copies := x.copies.map fun r => if r.entry = e then { r with killed := true } else r,
    fifo := [],
    col := let c := if runs then x.col.kill else x.col; if c.rallyRuns then c else c.emptied }

/-- The tiles on which a launch has been placed. -/
def Entry.tiles (en : Entry) : List Nat := en.placed.foldl (fun l p => setAdd l p.tile) []

/-- Start the abort of a launch (R386 steps 1 to 3); LAUNCH_ABORT finishes it. A saved launch has no tiles. -/
def State.beginAbort (s : State) (e cause : Nat) : State :=
  let en := s.entry e
  if en.aborting || !(en.st = 3 || en.st = 4) then s
  else
    let s := s.modEntry e fun en => { en with aborting := true, cause := if en.cause = 0 then cause else en.cause }
    if en.st = 3 then en.tiles.foldl (fun s t => s.modTile t fun x => x.abortLaunch e) s else s

/-- Is slot h the live designated handler of the tile, other than slot k (R140 step 4). -/
def Tile.handlerFor (x : Tile) (k : Nat) : Option Nat :=
  let h := x.reg.handler.toNat % 16
  if nbit x.reg.handler.toNat 4 && h ≠ k && (x.slot h).live then some h else none

/-- Set a TRAPSET bit: the slot's task stops, and a TRAPSET that becomes nonzero wakes the handler (R29, R140, R142). -/
def Tile.setTrapBit (x : Tile) (k : Nat) : Tile :=
  let was := x.reg.trapset
  let x := { x with reg := { x.reg with trapset := was ||| BitVec.ofNat 16 (2 ^ k) } }
  let x := x.modSlot k fun sl => sl.modTask fun ti => { ti with stopped := true, trap := none, hold := .none }
  let h := x.reg.handler.toNat % 16
  if was = 0 && nbit x.reg.handler.toNat 4 then x.modSlot h fun sl => sl.wake 4 else x

/-- Trap entry (R140): the outstanding register writes complete; TCAUSE, TVAL and TEPC are written and the task stops; the record is posted;
then the handler is told by TRAPSET, or the launch is aborted. -/
def State.enterTrap (s : State) (t k : Nat) (i : TrapInfo) : State :=
  let entry := ((s.slot t k).task.map (·.entry)).getD 0
  let s := s.modSlot t k fun sl =>
    let sl := sl.drain
    { sl with sr := { sl.sr with tcause := i.cause, tval := i.tval, tepc := i.tepc } }
  let s := s.modSlot t k fun sl => sl.modTask fun ti => { ti with trap := none, stopped := true, hold := .none }
  let s := s.postTileFault t { cause := i.cause.toNat, kind := 0, slot := k, eng := 0, crt := 0, launch := entry, tval := i.tval,
                               w2 := i.tepc.setWidth 64, w3 := i.ipc.setWidth 64 }
  match (s.tile t).handlerFor k with
  | some _ => s.modTile t fun x => x.setTrapBit k
  | none => s.beginAbort entry i.cause.toNat

/-- Must trap entry wait: an access of the task has not completed, or its scan has not taken effect (R88, R140 step 1, R150, R168). -/
def Slot.outstanding (sl : Slot) : Bool :=
  !sl.accs.isEmpty || (match sl.task with | some ti => ti.scan.isSome | none => false)

/-- Does the task stand inside an instruction that has issued and that must end before the task takes a late trap (R88, R170): a FENCE, an EFENCE, a CLKDIV
or a LAUNCH that holds it, or a floating instruction issued with FEN nonzero. -/
def Hold.inside : Hold → Bool
  | .fence _ _ | .efence _ _ | .clkdiv _ _ _ | .launch _ _ _ => true
  | _ => false

/-- A trap as it is entered where the task stands at pc: a late one names the next instruction (R170). -/
def TrapInfo.atPc (i : TrapInfo) (pc : BitVec 32) : TrapInfo := if i.late then { i with tepc := pc, ipc := pc } else i

/-- Does the slot's task stand inside an instruction. -/
def Slot.inside (sl : Slot) : Bool :=
  (match sl.task with | some ti => ti.hold.inside | none => false) || sl.infl.any (·.late)

/-- TAKING A TRAP, the one shared operation: at once when nothing of the task is outstanding, else as soon as it has completed (TRAP_ENTRY). -/
def State.takeTrap (s : State) (t k : Nat) (i : TrapInfo) : State :=
  if (s.slot t k).outstanding then s.modSlot t k fun sl => sl.modTask fun ti => { ti with trap := some i }
  else s.enterTrap t k i

/-- A late failure of a task's access (R170): taken before the next instruction, whose address TRAP_ENTRY finds once the instruction that the task stands
inside has ended; when the task is already trapping or stopped it posts its own record and leaves the standing trap alone. -/
def State.lateTrap (s : State) (t k : Nat) (cause : Nat) (tval : Word) : State :=
  let sl := s.slot t k
  match sl.task with
  | none => s
  | some ti =>
    let next := if sl.inside then sl.rf.loopEnd.pc else sl.rf.pc
    let standing : Option (BitVec 32) := match ti.trap with
      | some i => some (i.atPc next).tepc
      | none => if ti.stopped then some sl.sr.tepc else none
    match standing with
    | some tepc => s.postTileFault t { cause := cause, kind := 0, slot := k, eng := 0, crt := 0, launch := ti.entry, tval := tval,
                                       w2 := tepc.setWidth 64, w3 := tepc.setWidth 64 }
    | none => s.modSlot t k fun sl => sl.modTask fun ti =>
        { ti with trap := some { cause := BitVec.ofNat 8 cause, tval := tval, tepc := next, ipc := next, late := true } }

/-- End the task of a slot, as by EXIT (R143): its slot is free; if it was the designated handler, the designation goes, and every
slot whose TRAPSET bit is still set has its launch aborted. -/
def State.endTask (s : State) (t k : Nat) : State :=
  match (s.slot t k).task with
  | none => s
  | some ti =>
    let s := s.modSlot t k fun sl => { sl.drain with task := none }
    let s := s.modEntry ti.entry fun en => { en with live := en.live - 1 }
    let x := s.tile t
    let isH := nbit x.reg.handler.toNat 4 && x.reg.handler.toNat % 16 = k
    if isH then
      let s := s.putTile t { x with reg := { x.reg with handler := BitVec.ofNat 5 (x.reg.handler.toNat % 16) } }
      (List.range 16).foldl (fun s j =>
        if nbit x.reg.trapset.toNat j then
          match (s.slot t j).task with
          | some tj => s.beginAbort tj.entry (s.slot t j).sr.tcause.toNat
          | none => s
        else s) s
    else s

/-- A task that an ERET with KILL ends leaves its slot once nothing of it is outstanding (R142, R143). -/
def State.settleEnd (s : State) (t k : Nat) : State :=
  match (s.slot t k).task with
  | some ti => if ti.ending && !ti.halted && !(s.slot t k).outstanding then s.endTask t k else s
  | none => s

/-- The return from a trap (R142): the slot's TRAPSET bit is cleared, and its task ends as by EXIT, after its outstanding writes (R143), or runs on at
its TEPC. -/
def State.resumeTrapped (s : State) (t k : Nat) (kill : Bool) : State :=
  let s := s.modTile t fun x => { x with reg := { x.reg with trapset := BitVec.ofNat 16 (nsetBit x.reg.trapset.toNat k false) } }
  if kill then (s.modSlot t k fun sl => sl.modTask fun ti => { ti with ending := true }).settleEnd t k
  else s.modSlot t k fun sl =>
    (sl.modRf fun r => { r with pc := sl.sr.tepc }).modTask fun ti => { ti with stopped := false }

end Sys2Proof.Machine
end

