-- ==== Sys2Proof/Machine/Frames.lean ====
section
/-! DEFINITION. Configuration frames: their numbers, the fields of cell slots, memory cells, address cells, X-boxes and the array
(spec/02_encoding.md R58 to R69), and the geometry of the collar (spec/10_q_collar.md R257 to R259). -/

namespace Sys2Proof.Machine

/-- The number of frames of a full image (R59). -/
def numFrames : Nat := 420
/-- Frame number of frame f of C-cell c. -/
def frC (c f : Nat) : Nat := 2 + 2 * c + f
/-- Frame number of frame f of memory cell m. -/
def frM (m f : Nat) : Nat := 194 + 2 * m + f
/-- Frame number of frame f of address cell a. -/
def frA (a f : Nat) : Nat := 258 + 2 * a + f
/-- Frame number of an X-box. -/
def frX (x : Nat) : Nat := 290 + x
/-- Frame number of array frame 1 or 2. -/
def frArr (k : Nat) : Nat := 417 + k

/-- A frame address from its fields (R58). -/
def frameAddrOf (cls idx frame : Nat) : Nat := cls * 2 ^ 14 + idx * 2 ^ 7 + frame * 2 ^ 4

/-- The address of a frame (R58). -/
def frameAddr (i : Nat) : Nat :=
  if i < 2 then frameAddrOf 3 0 (6 + i)
  else if i < 194 then frameAddrOf 0 ((i - 2) / 2) ((i - 2) % 2)
  else if i < 258 then frameAddrOf 1 ((i - 194) / 2) ((i - 194) % 2)
  else if i < 290 then frameAddrOf 2 ((i - 258) / 2) ((i - 258) % 2)
  else if i < 418 then frameAddrOf 3 (i - 290) 0
  else frameAddrOf 3 0 (i - 417)

/-- The frame that an address names, if any (R58). -/
def frameOf (a : Nat) : Option Nat := (List.range numFrames).find? fun i => frameAddr i == a

/-- Frame i of a plane as a number. -/
def Plane.f (p : Plane) (i : Nat) : Nat := (p.at i 0#256).toNat

/-! ## The header (R61) -/

/-- IIM1 + 1. -/
def Plane.ii (p : Plane) : Nat := nfld (p.f 0) 175 174 + 1
/-- IMAGE_ID. -/
def Plane.imageId (p : Plane) : BitVec 32 := BitVec.ofNat 32 (nfld (p.f 0) 207 176)
/-- Rack entry g. -/
def Plane.rack (p : Plane) (g : Nat) : Nat := nfld (p.f 0) (16 * g + 15) (16 * g)
/-- Has the image a rack g. -/
def Plane.hasRack (p : Plane) (g : Nat) : Bool := nbit (p.rack g) 15
/-- The tags of rack g. -/
def Plane.rackTags (p : Plane) (g : Nat) : List Nat := (List.range (nfld (p.rack g) 8 4 + 1)).map fun i => nfld (p.rack g) 14 9 + i
/-- Bit i of RANGES. -/
def Plane.rangeBit (p : Plane) (i : Nat) : Bool := nbit (p.f 1) (192 + i)
/-- Counter binding k: V, KIND, index, slot. -/
def Plane.bind (p : Plane) (k : Nat) : Bool × Nat × Nat × Nat :=
  let b := nfld (p.f 1) (12 * k + 11) (12 * k)
  (nbit b 11, nfld b 10 10, nfld b 9 3, nfld b 2 1)

/-! ## C-cell slots (R63) -/

/-- A slot of a C-cell, field by field. -/
structure SlotCfg where
  op : Nat
  lane : Nat
  v : Bool
  comm : Bool
  pois : Nat
  region : Nat
  selA : Nat
  selB : Nat
  selC : Nat
  dst : Nat
  ra : Nat
  rb : Nat
  rc : Nat
  rx : Nat
  ry : Nat
  cin : Nat
  cout : Nat
  ysel : Nat
  aux : Nat
  imm : Nat
deriving DecidableEq, Repr

/-- The slot that a 128-bit word holds. -/
def slotCfg (w : Nat) : SlotCfg :=
  { op := nfld w 127 120, lane := nfld w 119 118, v := nbit w 117, comm := nbit w 116, pois := nfld w 115 114, region := nfld w 113 110,
    selA := nfld w 109 105, selB := nfld w 104 100, selC := nfld w 99 95, dst := nfld w 94 90, ra := nfld w 89 88, rb := nfld w 87 86,
    rc := nfld w 85 84, rx := nfld w 83 82, ry := nfld w 81 80, cin := nfld w 79 78, cout := nfld w 77 76, ysel := nfld w 75 74,
    aux := nfld w 63 48, imm := nfld w 31 0 }

/-- The word of slot n of C-cell c. -/
def Plane.slotWord (p : Plane) (c n : Nat) : Nat := p.f (frC c (n / 2)) / 2 ^ (128 * (n % 2)) % 2 ^ 128
/-- Slot n of C-cell c. -/
def Plane.slot (p : Plane) (c n : Nat) : SlotCfg := slotCfg (p.slotWord c n)
/-- The numbers of the valid slots of C-cell c. -/
def Plane.slots (p : Plane) (c : Nat) : List Nat := (List.range 4).filter fun n => (p.slot c n).v

/-! ## Memory cells (R67) and address cells (R68) -/

/-- A memory cell's configuration. -/
structure MCfg where
  mop : Nat
  fmt : Nat
  tgt : Nat
  range : Nat
  av : Bool
  alink : Nat
  aop : Nat
  bank : Nat
  grp : Nat
  mv : Bool
  mrange : Nat
  mlink : Nat
  comm : Bool
  pois : Nat
  region : Nat
  lane : Nat
  ratei : Nat
  rateo : Nat
  ord : Bool
  cpl : Bool
  offset : Int
deriving DecidableEq, Repr

/-- Memory cell m. -/
def Plane.mcell (p : Plane) (m : Nat) : MCfg :=
  let w := p.f (frM m 0)
  { mop := nfld w 255 252, fmt := nfld w 251 247, tgt := nfld w 246 245, range := nfld w 244 239, av := nbit w 238, alink := nfld w 237 234,
    aop := nfld w 233 230, bank := nfld w 229 229, grp := nfld w 228 227, mv := nbit w 226, mrange := nfld w 225 220, mlink := nfld w 219 216,
    comm := nbit w 215, pois := nfld w 214 213, region := nfld w 212 209, lane := nfld w 208 207, ratei := nfld w 206 205,
    rateo := nfld w 204 203, ord := nbit w 202, cpl := nbit w 201, offset := sgn 64 (nfld (p.f (frM m 1)) 255 192) }

/-- An address cell's configuration: cnt and str by dimension. -/
structure ACfg where
  aop : Nat
  base : Nat
  wrapc : Bool
  cnt : List Nat
  str : List Int
deriving DecidableEq, Repr

/-- Address cell a. -/
def Plane.acell (p : Plane) (a : Nat) : ACfg :=
  let w := p.f (frA a 0)
  let x := p.f (frA a 1)
  { aop := nfld w 255 252, base := nfld w 251 248, wrapc := nbit w 247, cnt := [nfld w 239 220, nfld w 187 168, nfld x 255 236, nfld x 203 184],
    str := [sgn 32 (nfld w 219 188), sgn 32 (nfld w 167 136), sgn 32 (nfld x 235 204), sgn 32 (nfld x 183 152)] }

/-! ## Routes and the array (R69) -/

/-- The 4-bit route field of output o of an X-box, on the data (net 0) or control (net 1) network. -/
def Plane.routeField (p : Plane) (net x o : Nat) : Nat := nfld (p.f (frX x)) (255 - 24 * net - 4 * o) (252 - 24 * net - 4 * o)
/-- The input that output o of an X-box takes, when it is enabled. -/
def Plane.route (p : Plane) (net x o : Nat) : Option Nat :=
  let r := p.routeField net x o
  if nbit r 3 then some (r % 8) else none
/-- The outputs of an X-box that take input i. -/
def Plane.takers (p : Plane) (net x i : Nat) : List Nat := (List.range 6).filter fun o => p.route net x o == some i

/-- The array's configuration. -/
structure ArrCfg where
  amode : Nat
  gsize : Nat
  kstepm1 : Nat
  plane : Nat
  pair : Bool
  wld : Bool
  accr : Bool
  accw : Bool
  accbase : Nat
  accrowsm1 : Nat
deriving DecidableEq, Repr

/-- The array frames (frame 2 is COLMASK). -/
def Plane.arr (p : Plane) : ArrCfg :=
  let w := p.f (frArr 1)
  { amode := nfld w 255 252, gsize := nfld w 251 250, kstepm1 := nfld w 249 243, plane := nfld w 242 242, pair := nbit w 241, wld := nbit w 240,
    accr := nbit w 239, accw := nbit w 238, accbase := nfld w 237 229, accrowsm1 := nfld w 228 220 }
/-- COLMASK bit j. -/
def Plane.colOn (p : Plane) (j : Nat) : Bool := nbit (p.f (frArr 2)) j

/-! ## Geometry (R257 to R259) -/

/-- The X-box of a C-cell. -/
def cellXbox (c : Nat) : Nat :=
  if c < 32 then c / 8 * 32 + c % 8
  else if c < 48 then (c - 32) / 4 * 32 + (31 - 2 * ((c - 32) % 4))
  else if c < 80 then (c - 48) / 8 * 32 + (23 - (c - 48) % 8)
  else (c - 80) / 4 * 32 + (8 + 2 * ((c - 80) % 4))

/-- The C-cell at an X-box. -/
def xboxCell (x : Nat) : Option Nat :=
  let ring := x / 32
  let p := x % 32
  if p < 8 then some (8 * ring + p)
  else if p < 16 then (if p % 2 = 0 then some (80 + 4 * ring + (p - 8) / 2) else none)
  else if p < 24 then some (48 + 8 * ring + (23 - p))
  else if p % 2 = 1 then some (32 + 4 * ring + (31 - p) / 2)
  else none

/-- The array edge at a ring-0 position: 0 north, 1 south, 2 west, with the group. -/
def arrayEdge (p : Nat) : Option (Nat × Nat) :=
  if p < 8 then some (0, p)
  else if 16 ≤ p ∧ p < 24 then some (1, 23 - p)
  else if 24 ≤ p ∧ p % 2 = 1 then some (2, (31 - p) / 2)
  else none

/-- What an X-box output feeds (R258, R259). -/
inductive Sink where
  | xbox (x inp : Nat)
  | cell (c inp : Nat)
  | mem (m : Nat)
  | arr (side g : Nat)
  | arrCtl
  | none
deriving DecidableEq, Repr

/-- What an X-box input takes from (R258, R259). -/
inductive Source where
  | xbox (x out : Nat)
  | cell (c port : Nat)
  | mem (m : Nat)
  | arr (side g : Nat)
  | start
  | none
deriving DecidableEq, Repr

/-- The place that output o of X-box x feeds. -/
def outSink (net x o : Nat) : Sink :=
  let ring := x / 32
  let p := x % 32
  if o = 0 then (if ring < 3 then .xbox (x + 32) 2 else .mem p)
  else if o = 1 then .xbox (32 * ring + (p + 1) % 32) 3
  else if o = 3 then .xbox (32 * ring + (p + 31) % 32) 1
  else if o = 2 then
    if 0 < ring then .xbox (x - 32) 0
    else match arrayEdge p with
      | some (side, g) => if net = 0 then .arr side g else .arrCtl
      | none => .none
  else match xboxCell x with
    | some c => if o = 4 then .cell c (if net = 0 then 0 else 3) else if net = 0 then .cell c 1 else .none
    | none => .none

/-- The place that input i of X-box x takes from. On the control network, side and group name the array's control output. -/
def inSource (net x i : Nat) : Source :=
  let ring := x / 32
  let p := x % 32
  if i = 0 then (if ring < 3 then .xbox (x + 32) 2 else .mem p)
  else if i = 1 then .xbox (32 * ring + (p + 1) % 32) 3
  else if i = 3 then .xbox (32 * ring + (p + 31) % 32) 1
  else if i = 2 then
    if 0 < ring then .xbox (x - 32) 0
    else match arrayEdge p with
      | some (side, g) => if net = 1 || side == 1 then .arr side g else .none
      | none => .none
  else if net = 1 then
    if i = 5 then .start
    else match xboxCell x with | some c => .cell c 2 | none => .none
  else match xboxCell x with
    | some c => if i = 4 then .cell c 0 else if i = 5 then .cell c 1 else .none
    | none => .none

/-- Is the c link of C-cell c enabled: a valid slot of the cell at the same position one ring outward has RATEC > 0 (R259). -/
def Plane.cLink (p : Plane) (c : Nat) : Option Nat :=
  let x := cellXbox c
  if 96 ≤ x then none
  else match xboxCell (x + 32) with
    | some d => if (p.slots d).any fun n => 0 < (p.slot d n).rc then some d else none
    | none => none

/-- The unit at the start of the routes that lead to an X-box input: its data source, following the unique route upstream. -/
def Plane.origin (p : Plane) (net : Nat) : Nat → Nat → Nat → Source
  | 0, _, _ => .none
  | n + 1, x, i =>
    match inSource net x i with
    | .xbox y o => (match p.route net y o with | some j => Plane.origin p net n y j | none => .none)
    | s => s

/-- The X-box inputs that routes lead on to from those of a list, each once: those seen, and those that a list of them leads to. -/
def Plane.spread (p : Plane) (net : Nat) : Nat → List (Nat × Nat) → List (Nat × Nat) → List (Nat × Nat)
  | 0, _, seen => seen
  | _ + 1, [], seen => seen
  | n + 1, e :: rest, seen =>
    if seen.contains e then Plane.spread p net n rest seen
    else
      let on := (p.takers net e.1 e.2).filterMap fun o => match outSink net e.1 o with | .xbox y j => some (y, j) | _ => none
      Plane.spread p net n (on ++ rest) (e :: seen)

/-- The places that the routes from an X-box input lead to: no output takes two inputs, so that at most 768 inputs are led on to. -/
def Plane.ends (p : Plane) (net x i : Nat) : List Sink :=
  (p.spread net 770 [(x, i)] []).flatMap fun e =>
    (p.takers net e.1 e.2).filterMap fun o => match outSink net e.1 o with | .xbox _ _ => none | d => some d

end Sys2Proof.Machine
end

