-- ==== Sys2Proof/Machine/CfgCheck.lean ====
section
/-! DEFINITION. What CFGLD and CFGPART refuse (spec/02_encoding.md R60 to R70; spec/01_machine.md R34, R38, R39; spec/10_q_collar.md R262, R289 to
R300; spec/11_q_array.md R306; spec/12_q_cells.md R326, R331 to R333, R338). -/

namespace Sys2Proof.Machine

/-! ## C-cells -/

/-- Integer operations. -/
def isIntOp (op : Nat) : Bool := decide (1 ≤ op) && decide (op ≤ 0x12)
/-- W36 operations. -/
def isW36Op (op : Nat) : Bool := decide (0x20 ≤ op) && decide (op ≤ 0x2D)
/-- Operations that every lane mode may have. -/
def isAnyOp (op : Nat) : Bool :=
  (decide (0x40 ≤ op) && decide (op ≤ 0x43)) || (decide (0x50 ≤ op) && decide (op ≤ 0x55)) || (decide (0x60 ≤ op) && decide (op ≤ 0x69))

/-- How many of the operands A, B, C an operation reads (R292 to R300). -/
def operandsOf (q : SlotCfg) : Nat :=
  if q.op = 0x05 ∨ q.op = 0x10 ∨ q.op = 0x12 ∨ q.op = 0x23 then 3
  else if q.op = 0x0E ∨ q.op = 0x26 ∨ q.op = 0x27 ∨ (0x29 ≤ q.op ∧ q.op ≤ 0x2C) ∨ (0x40 ≤ q.op ∧ q.op ≤ 0x42) ∨ q.op = 0x54 ∨ q.op = 0x55
    ∨ q.op = 0x60 ∨ q.op = 0x61 ∨ q.op = 0x65 ∨ q.op = 0x66 ∨ q.op = 0x68 then 1
  else if q.op = 0x67 then (if 0 < q.ra then 1 else 0)
  else if q.op = 0x69 then 0
  else 2

/-- The width of a sublane; 36 in W36 mode. -/
def laneBits (lane : Nat) : Nat := if lane = 0 then 8 else if lane = 1 then 16 else if lane = 2 then 32 else 36

/-- The AUX bits that an operation defines, in whatever lane mode (R289, R292 to R297, R275). -/
def auxBits (q : SlotCfg) : Nat :=
  if q.op = 0x03 ∨ q.op = 0x04 ∨ q.op = 0x0C ∨ q.op = 0x0D ∨ q.op = 0x10 then 1
  else if q.op = 0x0F then 3
  else if q.op = 0x11 ∨ q.op = 0x28 then 7
  else if q.op = 0x40 then 1
  else if q.op = 0x41 ∨ q.op = 0x42 then 3
  else if q.op = 0x43 then 0xFFF3
  else if q.op = 0x53 then 3
  else if q.op = 0x54 then 1
  else if q.op = 0x67 then 1
  else 0

/-- Does the slot read the operand of a selector beyond its operation's: JOIN and SINK take every declared token, and so read a port that a selector names (R300). -/
def SlotCfg.readsPort (q : SlotCfg) (sel : Nat) : Bool := (q.op == 0x68 || q.op == 0x69) && decide (0x10 ≤ sel) && decide (sel ≤ 0x12)

/-- The selectors of the operands that are not read. -/
def SlotCfg.idle (q : SlotCfg) : List Nat := ([q.selA, q.selB, q.selC].drop (operandsOf q)).filter fun x => !q.readsPort x

/-- The selectors of the operands that are read. -/
def SlotCfg.sels (q : SlotCfg) : List Nat :=
  [q.selA, q.selB, q.selC].take (operandsOf q) ++ ([q.selA, q.selB, q.selC].drop (operandsOf q)).filter q.readsPort

/-- The IMM bits that a slot defines. -/
def immBits (q : SlotCfg) : Nat :=
  if q.op = 0x67 then 2 ^ 32 - 1
  else if q.op = 0x55 then 2 ^ 28 - 1
  else if q.sels.contains 0x13 then (if q.lane < 2 then 2 ^ laneBits q.lane - 1 else 2 ^ 32 - 1)
  else 0

/-- P of REORD (R298). -/
def reordAt (imm n : Nat) : Nat := ((n % nfld imm 9 0) * nfld imm 18 10 + n / nfld imm 9 0 * nfld imm 27 19) % 512

/-- Are the numbers of a list distinct: none comes twice in its set. -/
def allDistinct (l : List Nat) : Bool := (l.foldl setAdd []).length == l.length

/-- The requirements stated with single operations (R275, R292 to R300). -/
def opRules (q : SlotCfg) : Bool :=
  if q.op = 0x11 ∨ q.op = 0x28 then q.aux % 8 < 6
  else if 0x40 ≤ q.op ∧ q.op ≤ 0x42 then q.ra == 1
  else if q.op = 0x43 then q.ra == 1 && q.selA == 0x10 && decide (q.selB < 16) && q.dst == 0x1F && decide (q.rx ≤ 1) && q.aux % 4 != 3
  else if q.op = 0x53 then q.lane != 2
  else if q.op = 0x54 then q.lane != 2 && q.rx == 2
  else if q.op = 0x55 then
    q.ra == 1 && q.rx == 1 && q.selA == 0x10 && q.dst == 0x1F && decide (8 ≤ q.region) && decide (1 ≤ nfld q.imm 9 0)
      && decide (nfld q.imm 9 0 ≤ 512) && allDistinct ((List.range 512).map (reordAt q.imm))
  else if q.op = 0x61 then q.ra == 1 && q.rx == 1 && q.selA == 0x10 && q.dst == 0x1F && q.imm == 0
  else if q.op = 0x62 then q.rx == 1 && q.ry == 1
  else if q.op = 0x63 then q.ra == 1 && q.rb == 1
  else if q.op = 0x65 ∨ q.op = 0x66 then decide (q.region < 8)
  else if q.op = 0x67 then ((q.ra == 1 && q.cin == 0) || (q.ra == 0 && q.cin == 1)) && q.imm != 0
  else true

/-- Is COMM permitted on the operation (R290). -/
def commAllowed (q : SlotCfg) (writes : List Nat) : Bool :=
  if q.op = 0x43 then q.lane != 3
  else if q.op = 0x67 ∨ q.op = 0x69 ∨ q.op = 0x63 ∨ q.op = 0x60 ∨ q.op = 0x61 then true
  else (isIntOp q.op || isW36Op q.op) && decide (0 < q.ra) && q.rb == 0 && q.rc == 0 && !q.sels.any fun x => x < 16 && writes.contains x

/-- The registers that the slots of a cell write. -/
def Plane.cellWrites (p : Plane) (c : Nat) : List Nat :=
  (p.slots c).flatMap fun n => let q := p.slot c n; if q.op = 0x43 then [q.selB] else if q.dst < 16 then [q.dst] else []

/-- Is slot n of C-cell c in order (R34, R38, R63 to R66, R70, R265, R289, R290). DESIGN CHOICE (notes/assumptions/115.md): YSEL 10, port a's token, is refused where
RATEA is 0; R64 speaks of the selectors SELA to SELC only. -/
def Plane.slotOk (p : Plane) (c n : Nat) : Bool :=
  let w := p.slotWord c n
  let q := p.slot c n
  if !q.v then w == 0
  else
    decide (n < p.ii) && nfld w 73 64 == 0 && nfld w 47 32 == 0
      && ((isIntOp q.op && q.lane != 3) || (isW36Op q.op && q.lane == 3) || isAnyOp q.op)
      && q.pois != 3 && (decide (q.region < 8) || q.region == 15) && (decide (8 ≤ q.region) || p.hasRack q.region)
      && (decide (q.dst < 16) || q.dst == 31) && q.ysel != 3
      && (q.ysel != 1 || q.op == 0x03 || q.op == 0x04) && (q.ysel != 2 || decide (0 < q.ra) || q.op == 0x63)
      && decide (0 < q.ra + q.rb + q.rc + q.cin) && (q.rc == 0 || decide (32 ≤ cellXbox c))
      && (q.sels.all fun x => decide (x ≤ 0x15) && (x != 0x10 || decide (0 < q.ra)) && (x != 0x11 || decide (0 < q.rb))
            && (x != 0x12 || decide (0 < q.rc)))
      && (q.idle.all fun x => x == 0x14)
      && q.aux ||| auxBits q == auxBits q && q.imm ||| immBits q == immBits q && opRules q
      && (!q.comm || commAllowed q (p.cellWrites c))
      && !((p.slots c).length != 1 && ((p.slots c).any fun k => (p.slot c k).op == 0x61 || (p.slot c k).op == 0x55))

/-! ## Memory cells -/

/-- May a memory cell load a format in a form (R180): TGT 00 with a lane mode, 01 or 10. -/
def loadsAs (fmt tgt lane : Nat) : Bool :=
  if tgt = 0 then
    if fmt = 0x00 ∨ fmt = 0x01 ∨ fmt = 0x04 ∨ fmt = 0x05 ∨ fmt = 0x06 ∨ fmt = 0x13 then decide (lane < 3)
    else if fmt = 0x02 then lane == 1 || lane == 2
    else if fmt = 0x03 ∨ fmt = 0x0B ∨ fmt = 0x0E then lane == 2
    else if fmt = 0x07 ∨ fmt = 0x08 ∨ fmt = 0x09 then lane == 0
    else if fmt = 0x0A ∨ fmt = 0x0C ∨ fmt = 0x0D then lane == 1
    else false
  else if tgt = 1 then [0x01, 0x04, 0x05, 0x06, 0x07, 0x08, 0x09, 0x0A, 0x0C, 0x0D, 0x10, 0x11, 0x12, 0x13].contains fmt
  else if tgt = 2 then decide (1 ≤ fmt) && decide (fmt ≤ 0x13) && fmt != 0x03
  else false

/-- May STS store a format from a form (R180, R338). DESIGN CHOICE (notes/assumptions/100.md): the last column of R180 has I16 and I32 stored "as I8", from
integer lanes, and lists no lane modes; the model takes the lane modes of the format's loading column. -/
def storesFrom (fmt tgt lane : Nat) : Bool :=
  if tgt = 0 then loadsAs fmt 0 lane && !fmtIsGrouped fmt
  else if tgt = 2 then [0x01, 0x02, 0x03, 0x04, 0x07, 0x08, 0x09, 0x0A, 0x0B, 0x0C, 0x0D, 0x0E, 0x0F].contains fmt
  else false

/-- Must the metadata stream be used for a load (R181). -/
def needsMeta (fmt tgt : Nat) : Bool := fmtIsMX fmt || (fmtIsGrouped fmt && tgt != 0)

/-- The row of R338. -/
def MCfg.rowOk (q : MCfg) (p : Plane) : Bool :=
  let a := p.acell q.alink
  let aff := a.aop == 1
  let idx := a.aop == 2
  let load := loadsAs q.fmt q.tgt q.lane
  let gath := load && q.fmt != 0x05 && q.fmt != 0x06 && q.fmt != 0x13 && !fmtIsMX q.fmt && q.mv == needsMeta q.fmt q.tgt && !q.mv
  let atom := q.fmt == 0x03 && q.tgt == 0 && q.lane == 2 && q.ratei == (if q.aop = 9 then 3 else 2) && decide (q.aop ≤ 9)
  let noReg := q.region == 15
  match q.mop with
  | 1 => aff && q.ratei == 0 && q.rateo == 1 && load && q.fmt != 0x13 && q.mv == needsMeta q.fmt q.tgt && noReg && (!q.comm || !q.mv)
  | 2 => aff && q.ratei == 1 && q.rateo == 0 && storesFrom q.fmt q.tgt q.lane && !q.mv && !q.comm
  | 3 => idx && q.ratei == 1 && q.rateo == 1 && gath
  | 4 => idx && q.ratei == 2 && q.rateo == 0 && storesFrom q.fmt q.tgt q.lane && !q.mv && !q.comm
  | 5 => idx && decide (q.rateo ≤ 1) && atom && !q.mv && !q.comm
  | 6 => idx && a.str.headD 0 == 8 && q.ratei == 1 && decide (q.rateo ≤ 1) && q.fmt == 0 && q.tgt == 0 && q.lane == 2 && !q.mv && !q.comm
  | 7 => aff && a.str.headD 0 == 64 && a.cnt.drop 1 == [1, 1, 1] && q.ratei == 0 && q.rateo == 1 && q.fmt == 0x13 && load
      && q.mv == needsMeta q.fmt q.tgt && noReg && !q.comm
  | 8 => aff && q.ratei == 1 && q.rateo == 0 && fmtIsMX q.fmt && q.tgt == 2 && q.mv && q.grp == 0 && !q.comm
  | 9 => idx && q.ratei == 1 && q.rateo == 1 && gath
  | 10 => idx && q.ratei == 2 && q.rateo == 0 && storesFrom q.fmt q.tgt q.lane && !q.mv && !q.comm
  | 11 => idx && q.rateo == 1 && atom && !q.mv && !q.comm
  | _ => false

/-- Is memory cell m in order (R67, R70, R326, R332, R338). -/
def Plane.mcellOk (p : Plane) (m : Nat) : Bool :=
  let w := p.f (frM m 0)
  let q := p.mcell m
  let next := p.mcell ((m + 1) % 32)
  nfld w 200 0 == 0 && q.tgt != 3 && q.grp != 3 && q.lane != 3 && q.pois != 3 && (decide (q.region < 8) || q.region == 15)
    && decide (q.aop ≤ 9)
    && (if q.mop = 0 then
          if q.av then (p.acell q.alink).aop == 3 && q.fmt == 0 && q.tgt == 0 && q.range == 0 && q.aop == 0 && q.bank == 0 && q.grp == 0
            && !q.mv && q.mrange == 0 && q.mlink == 0 && !q.comm && q.pois == 0 && q.lane == 2 && q.ratei == 0 && q.rateo == 1
            && (decide (8 ≤ q.region) || p.hasRack q.region)
          else w == 0 && p.f (frM m 1) == 0
        else q.av && (decide (8 ≤ q.region) || p.hasRack q.region) && q.rowOk p
            && (q.aop == 0 || q.mop == 5 || q.mop == 11) && (q.bank == 0 || q.mop == 7) && (q.grp == 0 || (q.mv && !fmtIsMX q.fmt))
            && (!(q.mop == 9 || q.mop == 10 || q.mop == 11) || (q.ord && q.cpl))
            && (!q.mv || (p.acell q.mlink).aop == 1)
            && (!(q.mv && q.tgt == 1) || (next.mop == 0 && !next.av)))

/-- The memory cells that name address cell a, as (cell, by its element link). -/
def Plane.links (p : Plane) (a : Nat) : List (Nat × Bool) :=
  (List.range 32).flatMap fun m =>
    let q := p.mcell m
    (if q.av && q.alink == a then [(m, true)] else []) ++ (if q.mv && q.mlink == a then [(m, false)] else [])

/-- Is frame f of address cell a in order (R68, R331, R333, R338). -/
def Plane.acellOk (p : Plane) (a f : Nat) : Bool :=
  let w := p.f (frA a f)
  let q := p.acell a
  let c := q.cnt.drop (2 * f)
  let st := q.str.drop (2 * f)
  if f = 0 then
    nfld w 246 240 == 0 && nfld w 135 0 == 0 && decide (q.aop ≤ 3)
      && (q.aop == 0 || (c.headD 0 != 0 && c.getD 1 0 != 0 && (q.aop != 2 || (c.getD 1 0 == 1 && st.getD 1 0 == 0))
            && (p.links a).length == 1 && !(q.wrapc && (p.links a).any fun l => (p.mcell l.1).cpl)))
  else nfld w 151 0 == 0 && (q.aop == 0 || (c.headD 0 != 0 && c.getD 1 0 != 0 && (q.aop != 2 || (c.take 2 == [1, 1] && st.take 2 == [0, 0]))))

/-! ## Routes and the array -/

/-- K rows of a K-step (R303). -/
def ArrCfg.krows (q : ArrCfg) : Nat := (q.kstepm1 + 1) * (if q.amode = 4 ∨ q.amode = 5 then 2 else 1)
/-- The group size. -/
def ArrCfg.group (q : ArrCfg) : Nat := 32 * 2 ^ q.gsize
/-- A grouped mode. -/
def ArrCfg.grouped (q : ArrCfg) : Bool := q.amode == 3 || q.amode == 5

/-- Is an array data input used (R306): side 0 north, 1 south, 2 west. -/
def ArrCfg.uses (q : ArrCfg) (east : Bool) (side g : Nat) : Bool :=
  if side = 0 then q.amode != 0 && (decide (g < 4) || q.amode == 2)
  else if side = 1 then q.accw
  else q.amode != 0 && (if g < 3 then !(q.pair && east) else q.grouped)

/-- Does a route lead back to its own output (R262): n steps upstream from output o of X-box x. -/
def Plane.loops (p : Plane) (net x0 o0 : Nat) : Nat → Nat → Nat → Bool
  | 0, _, _ => false
  | n + 1, x, o =>
    match p.route net x o with
    | some i => (match inSource net x i with | .xbox y j => (y == x0 && j == o0) || Plane.loops p net x0 o0 n y j | _ => false)
    | none => false

/-- Is an X-box in order (R69, R262, R289, R306). -/
def Plane.xboxOk (p : Plane) (east : Bool) (x : Nat) : Bool :=
  let a := p.arr
  nfld (p.f (frX x)) 207 0 == 0 &&
    ([0, 1].all fun net => (List.range 6).all fun o =>
      decide (p.routeField net x o % 8 < 6) &&
        (match p.route net x o with
         | none => true
         | some i =>
           (match outSink net x o with | .none => false | .arrCtl => false | .arr side g => a.uses east side g | _ => true)
             && (match inSource net x i with | .none => false | .arr side _ => net == 1 || side != 1 || a.accr | _ => true)
             && !p.loops net x o 768 x o))

/-- Is the array frame in order (R39, R70, R306). -/
def Plane.arrOk (p : Plane) (pairHalf : Bool) : Bool :=
  let a := p.arr
  nfld (p.f (frArr 1)) 219 0 == 0 && decide (a.amode ≤ 5) && a.gsize != 3 && (a.gsize == 0 || a.grouped)
    && (a.amode != 2 || decide (a.kstepm1 ≤ 63)) && (!a.grouped || a.krows % a.group == 0) && decide (a.accbase + a.accrowsm1 ≤ 511)
    && !(a.amode == 0 && (a.wld || a.accr || a.accw)) && a.pair == pairHalf

/-! ## Tokens out of position (R290) -/

/-- The cell inputs that the tokens given on port 0 (x) or 1 (y) of a cell reach. -/
def Plane.reach (p : Plane) (c port : Nat) : List (Nat × Nat) :=
  ((p.ends 0 (cellXbox c) (4 + port)).filterMap fun e => match e with | .cell d i => some (d, i) | _ => none)
    ++ (if port = 1 then (match p.cLink c with | some d => [(d, 2)] | none => []) else [])

/-- The cell inputs that the tokens of a slot reach, on the ports on which it gives any. -/
def Plane.reachOf (p : Plane) (c n : Nat) : List (Nat × Nat) :=
  let q := p.slot c n
  (if 0 < q.rx then p.reach c 0 else []) ++ (if 0 < q.ry then p.reach c 1 else [])

/-- The slots of a cell that take tokens from input i. -/
def Plane.slotsOn (p : Plane) (c i : Nat) : List Nat :=
  (p.slots c).filter fun n => let q := p.slot c n; 0 < (if i = 0 then q.ra else if i = 1 then q.rb else if i = 2 then q.rc else 0)

/-- The first cell inputs that tokens out of position reach: those of a memory cell or a MERGE with COMM. -/
def Plane.loose (p : Plane) : List (Nat × Nat) :=
  ((List.range 32).flatMap fun m =>
    if (p.mcell m).comm then (p.ends 0 (96 + m) 0).filterMap fun e => match e with | .cell d i => some (d, i) | _ => none else [])
  ++ ((List.range 96).flatMap fun c =>
    ((p.slots c).filter fun n => (p.slot c n).op == 0x63 && (p.slot c n).comm).flatMap (p.reachOf c))

/-- All cell inputs reached, through slots that pass tokens on. -/
def Plane.looseAll (p : Plane) : Nat → List (Nat × Nat) → List (Nat × Nat) → List (Nat × Nat)
  | 0, _, seen => seen
  | _ + 1, [], seen => seen
  | n + 1, e :: rest, seen =>
    if seen.contains e then Plane.looseAll p n rest seen
    else
      let on := (p.slotsOn e.1 e.2).filter fun k => [0x60, 0x61, 0x62, 0x64].contains (p.slot e.1 k).op
      Plane.looseAll p n (on.flatMap (p.reachOf e.1) ++ rest) (e :: seen)

/-- The slots that tokens out of position reach and that lack COMM. -/
def Plane.badLoose (p : Plane) : List (Nat × Nat) :=
  (p.looseAll 4096 p.loose []).flatMap fun e => ((p.slotsOn e.1 e.2).filter fun n => !(p.slot e.1 n).comm).map fun n => (e.1, n)

/-! ## The whole image -/

/-- Are the rack entries in order: no reserved bit, no tag past 63, no tag in two racks. -/
def Plane.racksOk (p : Plane) : Bool :=
  let tags := (List.range 8).flatMap fun g => if p.hasRack g then p.rackTags g else []
  ((List.range 8).all fun g => p.rack g % 16 == 0) && tags.all (fun t => decide (t < 64)) && allDistinct tags

/-- Are the counter bindings in order. -/
def Plane.bindsOk (p : Plane) : Bool :=
  (List.range 16).all fun k =>
    let b := p.bind k
    nfld (p.f 1) (12 * k) (12 * k) == 0 && (!b.1 ||
      (if b.2.1 = 0 then decide (b.2.2.1 < 96) && (p.slot b.2.2.1 b.2.2.2).v && (p.slot b.2.2.1 b.2.2.2).op == 0x67
       else decide (b.2.2.1 < 16) && (p.acell b.2.2.1).aop != 0))

/-- Is frame i in order, but for the check code and what the command asks of the header. -/
def Plane.frameOk (p : Plane) (pairHalf east : Bool) (bad : List (Nat × Nat)) (i : Nat) : Bool :=
  if i = 0 then nfld (p.f 0) 163 160 == 0 && p.racksOk
  else if i = 1 then p.bindsOk
  else if i < 194 then
    let c := (i - 2) / 2
    let f := (i - 2) % 2
    p.slotOk c (2 * f) && p.slotOk c (2 * f + 1) && !bad.contains (c, 2 * f) && !bad.contains (c, 2 * f + 1)
  else if i < 258 then
    if (i - 194) % 2 = 0 then p.mcellOk ((i - 194) / 2) else nfld (p.f i) 191 0 == 0
  else if i < 290 then p.acellOk ((i - 258) / 2) ((i - 258) % 2)
  else if i < 418 then p.xboxOk east (i - 290)
  else if i = 418 then p.arrOk pairHalf
  else true

/-- The first frame of a configuration that is not in order. -/
def Plane.firstBad (p : Plane) (pairHalf east : Bool) : Option Nat :=
  let bad := p.badLoose
  (List.range numFrames).find? fun i => !p.frameOk pairHalf east bad i

/-! ## Images in the context store -/

/-- The bytes of a frame. -/
def frameBytes (f : BitVec 256) : List Byte := toBytes 32 f.toNat

/-- Are the magic, version, PARTIAL and NFRAMES as the command wants them (R70). -/
def headerOk (f6 : Nat) (part : Bool) (n : Nat) : Bool :=
  nfld f6 255 224 == 0x4B573943 && nfld f6 223 208 == 1 && nbit f6 173 == part && nfld f6 172 164 == n

/-- Does the check code match (R62): the frames of the image in stored order, the header first. -/
def checkOk (frames : List (BitVec 256)) : Bool :=
  match frames with
  | [] => false
  | f6 :: rest =>
    let check := nfld f6.toNat 159 128
    let clear := BitVec.ofNat 256 (f6.toNat - check * 2 ^ 128)
    crc32c ((clear :: rest).flatMap frameBytes) == check

/-- The frames of context slot k of a tile, from the first on. -/
def State.ctxFrames (s : State) (t k n : Nat) : List (BitVec 256) :=
  (List.range n).map fun i => BitVec.ofNat 256 (s.mem.readN (ctxKey t (k * 2 ^ 14 + 32 * i)) 32)

/-- Has a word of the first n frames of a context slot an uncorrectable error (R152). -/
def State.ctxHard (s : State) (t k n : Nat) : Bool := (List.range (4 * n)).any fun i => s.hard.contains (ctxKey t (k * 2 ^ 14 + 8 * i))

/-- A plane from the frames in canonical order. -/
def planeOf (frames : List (BitVec 256)) : Plane := (((List.range frames.length).zip frames).filter fun p => p.2 != 0#256)

/-- Is the tile the east half of a pair. -/
def State.eastHalf (s : State) (t : Nat) : Bool := let c := (s.tile t).reg.court; courtPairH c && !isWest c t

/-- The address of the first failing frame of a full image, if any (R70, R283). -/
def State.fullBad (s : State) (t k : Nat) : Option Nat :=
  let fs := s.ctxFrames t k numFrames
  if !headerOk (fs.headD 0#256).toNat false numFrames || !checkOk fs || s.ctxHard t k numFrames then some (frameAddr 0)
  else ((planeOf fs).firstBad (courtPairH (s.tile t).reg.court) (s.eastHalf t)).map frameAddr

/-- A partial image (R60): its header frames, its frames by frame number, and the first frame, in canonical order, that its address list names twice. -/
structure Partial where
  n : Nat
  f6 : BitVec 256
  f7 : BitVec 256
  frames : List (Nat × BitVec 256)
  twice : Option Nat
deriving DecidableEq, Repr

/-- The addresses that a partial image lists. -/
def partAddrs (n : Nat) (afs : List (BitVec 256)) : List Nat :=
  (List.range n).map fun k => nfld ((afs.getD (k / 16) 0#256).toNat) (16 * (k % 16) + 15) (16 * (k % 16))

/-- Is a partial image's header frame 6 in order: its reserved fields and its racks (R61, R70). -/
def partHeadOk (f6 : BitVec 256) : Bool := nfld f6.toNat 163 160 == 0 && Plane.racksOk [(0, f6)]

/-- The first address of a list that names no frame that a partial image may hold: no frame at all, or one of the header's (R58, R60). -/
def badAddr (addrs : List Nat) : Option Nat := addrs.find? fun a => match frameOf a with | some i => decide (i < 2) | none => true

/-- The first frame, in canonical order, that a list names twice. -/
def doubled (nums : List Nat) : Option Nat := (List.range numFrames).find? fun i => decide (2 ≤ (nums.filter (· == i)).length)

/-- How many frames the partial image of a context slot says it has, address frames and header among them. -/
def State.partFrames (s : State) (t k : Nat) : Nat :=
  let n := nfld ((s.ctxFrames t k 1).headD 0#256).toNat 172 164
  2 + ceilDiv n 16 + n

/-- Read the partial image of a context slot, or the address to blame: the header's, then that of an address which may not stand in the list (R60, R70). DESIGN
CHOICE (notes/assumptions/114.md): an address out of range has no place in the canonical order, so the first of the list is blamed, before any frame is judged;
an unused entry that is not 0xFFFF is refused too, and blamed after those. -/
def State.partImage (s : State) (t k : Nat) : Except Nat Partial :=
  let head := s.ctxFrames t k 2
  let f6 := head.headD 0#256
  let n := nfld f6.toNat 172 164
  let na := ceilDiv n 16
  let fs := s.ctxFrames t k (2 + na + n)
  let afs := (fs.drop 2).take na
  let addrs := partAddrs n afs
  let unused := (List.range (16 * na - n)).map fun j => nfld ((afs.getD ((n + j) / 16) 0#256).toNat) (16 * ((n + j) % 16) + 15) (16 * ((n + j) % 16))
  let nums := addrs.filterMap frameOf
  if !headerOk f6.toNat true n || n = 0 || decide (numFrames < n) || !checkOk fs || s.ctxHard t k (2 + na + n) || !partHeadOk f6
  then .error (frameAddr 0)
  else match badAddr addrs, unused.find? (· != 0xFFFF) with
  | some a, _ => .error a
  | none, some a => .error a
  | none, none => .ok { n := n, f6 := f6, f7 := head.getD 1 0#256, frames := nums.zip (fs.drop (2 + na)), twice := doubled nums }

/-- A plane with the frames of a partial image written into it. DESIGN CHOICE (notes/assumptions/114.md): the plane keeps its own header, so that IIM1, IMAGE_ID,
RACKS, RANGES and BINDS of the partial image's header say nothing about it. -/
def Plane.patch (p : Plane) (q : Partial) : Plane := q.frames.foldl (fun p e => p.put e.1 e.2) p

/-- The lower of two numbers that may be absent. -/
def lowerOf : Option Nat → Option Nat → Option Nat
  | some a, some b => some (min a b)
  | some a, none => some a
  | none, b => b

/-- The first frame, in canonical order, for which a partial image is refused on a plane that it has patched: its header frame 7 with a binding that is out of
order there, a frame that is out of order, or one that its address list names twice (R60, R61, R70). -/
def Plane.partBad (new : Plane) (q : Partial) (pairHalf east : Bool) : Option Nat :=
  if !Plane.bindsOk (new.put 1 q.f7) then some 1 else lowerOf q.twice (new.firstBad pairHalf east)

end Sys2Proof.Machine
end

