-- ==== Sys2Proof/Machine/Channels.lean ====
section
/-! DEFINITION. The collar's channels: buffers, room, giving and moving tokens, racks and their counts, and the faults of collar units
(spec/10_q_collar.md R258 to R262, R265, R269 to R272, R277; spec/14_q_stop.md R382, R385; spec/17_counters.md R447). -/

namespace Sys2Proof.Machine

/-! ## Lanes -/

/-- The value of lane i. -/
def Lanes.lane (l : Lanes) (i : Nat) : W36 := l.v.getD i 0#36
/-- The poison of lane i. -/
def Lanes.bad (l : Lanes) (i : Nat) : Bool := l.poi.getLsbD i
/-- Lanes from a function of the lane number. -/
def Lanes.of (f : Nat → W36 × Bool) : Lanes :=
  { v := (List.range 32).map fun i => (f i).1, poi := BitVec.ofNat 32 ((List.range 32).foldl (fun a i => a + bnat (f i).2 * 2 ^ i) 0) }
/-- Every lane active. -/
def allLanes : BitVec 32 := 0xFFFFFFFF#32
/-- Lanes with every inactive lane 0 and clean (R260). -/
def Lanes.masked (l : Lanes) (m : BitVec 32) : Lanes := Lanes.of fun i => if m.getLsbD i then (l.lane i, l.bad i) else (0#36, false)

/-! ## The collar's clock and the running rally -/

/-- The collar cycle of a tile. -/
def State.colCyc (s : State) (t : Nat) : Nat := (s.tile t).cyc 1 s.time

/-- Has the tile's rally reached its first cycle, and not its whistle, that of a court's stop neither (R278, R390). -/
def Collar.running (c : Collar) (cyc : Nat) : Bool :=
  match c.rally with
  | some r => decide (r.t0 ≤ cyc) && r.recStep == 0 && !r.saved
  | none => false

/-- May node n act: a rally runs, it is not halted, and the node has not faulted. -/
def Collar.mayAct (c : Collar) (cyc n : Nat) : Bool :=
  c.running cyc && (match c.rally with | some r => !r.halt && !r.faulted.contains n | none => false)

/-- Do sources stop issuing (R288, R388). -/
def Collar.draining (c : Collar) : Bool := match c.rally with | some r => r.drain || r.halt | none => false

/-- A node is active in this collar cycle (R277). -/
def Collar.touch (c : Collar) (cyc : Nat) : Collar := { c with rally := c.rally.map fun r => { r with act := cyc } }

/-- Node numbers (R463): C-cells, memory cells, address cells, X-boxes, the array. -/
def nodeM (m : Nat) : Nat := 96 + m
/-- The node of an X-box. -/
def nodeX (x : Nat) : Nat := 144 + x
/-- The node of the array. -/
def nodeArr : Nat := 272

/-- n tokens given by a node (R447). -/
def Collar.gave (c : Collar) (node n : Nat) : Collar := { c with given := c.given.upd node 0 fun k => (k + n) % 2 ^ 16 }
/-- n tokens taken by a node. -/
def Collar.took (c : Collar) (node n : Nat) : Collar := { c with taken := c.taken.upd node 0 fun k => (k + n) % 2 ^ 16 }

/-! ## Racks (R270, R271) -/

/-- A fault of a firing: cause and TVAL. -/
abbrev CellFault := Nat × Nat

/-- A tag of a rack is live. -/
def Rack.live (r : Rack) (tag : Nat) : Bool := r.on.contains tag

/-- The COUNT of a live tag of rack g becomes n: at 0 the tag returns (R270, R271). -/
def Collar.tagCount (c : Collar) (g n tag : Nat) : Collar :=
  let r := c.racks.at g {}
  if n = 0 then
    { c with
      racks := c.racks.put g { r with count := r.count.del tag, on := setDel r.on tag, alloc := r.alloc.filter (· != tag), free := r.free ++ [tag] },
      store := c.store.mapVals fun s => { s with taken := s.taken.filter (· != tag) } }
  else { c with racks := c.racks.put g { r with count := r.count.put tag n } }

/-- Tokens with the tags `give` are given and tokens with the tags `take` are taken, all of rack g and at once: a fault where a tag is not live or its COUNT
would pass 255 (R271). -/
def Collar.tagFlow (c : Collar) (g : Nat) (give take : List Nat) : Except CellFault Collar :=
  let r := c.racks.at g {}
  let after := fun (tag : Nat) => r.count.at tag 0 + give.count tag - take.count tag
  match (take ++ give).find? fun tag => !r.live tag || decide (255 < after tag) with
  | some tag => .error (9, tag)
  | none => .ok ((take ++ give).eraseDups.foldl (fun c tag => c.tagCount g (after tag) tag) c)

/-- TAGGET draws the tag at the head of the free list (R270). -/
def Collar.tagDraw (c : Collar) (g : Nat) : Option (Nat × Collar) :=
  let r := c.racks.at g {}
  match r.free with
  | tag :: rest =>
    if r.closed then none
    else some (tag, { c with racks := c.racks.put g { r with free := rest, alloc := r.alloc ++ [tag], on := setAdd r.on tag, count := r.count.put tag 0 } })
  | [] => none

/-- Full racks for an image (R270). -/
def Plane.fullRacks (p : Plane) : AMap Rack :=
  (List.range 8).filterMap fun g => if p.hasRack g then some (g, { free := p.rackTags g }) else none

/-! ## Buffers (R261) -/

/-- Key of an X-box output buffer. -/
def xKey (x o : Nat) : Nat := x * 6 + o
/-- Key of an input buffer of a C-cell: 0 a, 1 b, 2 c. -/
def cKey (c i : Nat) : Nat := c * 4 + i
/-- Key of an array data input: side 0 north, 1 south, 2 west. -/
def aKey (side g : Nat) : Nat := side * 8 + g

/-- Has every output of X-box x that takes input i room for n data tokens. -/
def Collar.roomX (c : Collar) (x i n : Nat) : Bool := (c.active.takers 0 x i).all fun o => (c.xd.at (xKey x o) []).length + n ≤ 2
/-- The same for control tokens. -/
def Collar.roomXc (c : Collar) (x i n : Nat) : Bool := (c.active.takers 1 x i).all fun o => (c.xc.at (xKey x o) []).length + n ≤ 2

/-- Place data tokens in every output of X-box x that takes input i. -/
def Collar.putX (c : Collar) (x i : Nat) (l : List Token) : Collar :=
  { c with xd := (c.active.takers 0 x i).foldl (fun m o => m.upd (xKey x o) [] (· ++ l)) c.xd }
/-- Place control tokens. -/
def Collar.putXc (c : Collar) (x i : Nat) (l : List Bool) : Collar :=
  { c with xc := (c.active.takers 1 x i).foldl (fun m o => m.upd (xKey x o) [] (· ++ l)) c.xc }

/-- How many buffers take what a C-cell gives on port 0 (x) or 1 (y). -/
def Collar.fanout (c : Collar) (cell port : Nat) : Nat :=
  (c.active.takers 0 (cellXbox cell) (4 + port)).length + (if port = 1 then bnat (c.active.cLink cell).isSome else 0)

/-- Has port 0 (x) or 1 (y) of a C-cell room for n tokens. -/
def Collar.roomPort (c : Collar) (cell port n : Nat) : Bool :=
  c.roomX (cellXbox cell) (4 + port) n &&
    (if port = 1 then (match c.active.cLink cell with | some d => decide ((c.cin.at (cKey d 2) []).length + n ≤ 4) | none => true) else true)

/-- A C-cell gives tokens on a port. -/
def Collar.givePort (c : Collar) (cell port : Nat) (l : List Token) : Collar :=
  let k := c.fanout cell port
  let c := c.putX (cellXbox cell) (4 + port) l
  let c : Collar := if port = 1 then (match c.active.cLink cell with | some d => { c with cin := c.cin.upd (cKey d 2) [] (· ++ l) } | none => c) else c
  c.gave cell (k * l.length)

/-- A C-cell gives n control tokens. -/
def Collar.giveCtl (c : Collar) (cell n : Nat) : Collar :=
  (c.putXc (cellXbox cell) 4 (List.replicate n false)).gave cell (n * (c.active.takers 1 (cellXbox cell) 4).length)

/-- A memory cell gives tokens on its stream output. -/
def Collar.giveMem (c : Collar) (m : Nat) (l : List Token) : Collar :=
  (c.putX (96 + m) 0 l).gave (nodeM m) (l.length * (c.active.takers 0 (96 + m) 0).length)
/-- A memory cell gives tokens on its completion output. -/
def Collar.giveMemCtl (c : Collar) (m : Nat) (l : List Bool) : Collar :=
  (c.putXc (96 + m) 0 l).gave (nodeM m) (l.length * (c.active.takers 1 (96 + m) 0).length)

/-! ## Faults of collar units (R269, R382 to R385) -/

/-- A unit faults: it acts no more in this rally, a record is posted, and the first fault of the rally sets CSTAT. -/
def State.unitFault (s : State) (t node kind frame cause : Nat) (tval : Word) (pos : Nat) (w3 : Word) : State :=
  let x := s.tile t
  let r := x.col.rally
  let s := s.modCol t fun c =>
    { c with
      cstat := if c.cstat.toNat % 256 = 0 then BitVec.ofNat 64 (frame * 2 ^ 48 + c.cstat.toNat % 2 ^ 48 + cause) else c.cstat,
      rally := c.rally.map fun r => { r with faulted := setAdd r.faulted node } }
  s.postTileFault t { cause := cause, kind := kind, slot := (r.map (·.slot)).getD 0, cmd := 2, eng := 1, unit := frame, crt := 0,
                      launch := (r.map (·.entry)).getD 0, tval := tval, w2 := BitVec.ofNat 64 (x.col.rseq.toNat * 2 ^ 32 + pos % 2 ^ 32), w3 := w3 }

/-- The fault of slot n of a C-cell. -/
def State.cellFault (s : State) (t cell n cause tval : Nat) : State :=
  s.unitFault t cell 2 (frameAddr (frC cell 0)) cause (BitVec.ofNat 64 tval) 0 (BitVec.ofNat 64 n)

/-- OR float flags into CSTAT.FLG. -/
def Collar.cstatFlags (c : Collar) (f : Flags) : Collar := { c with cstat := c.cstat ||| BitVec.ofNat 64 (f.toNat * 2 ^ 8) }

/-! ## Token moves (R69, R261) -/

/-- Does a slot give tokens of its region: not ACC or TAGPUT, and a slot that takes no data token has no tag to give but what TAGGET draws (R265;
DESIGN CHOICE: notes/assumptions/112.md). -/
def SlotCfg.tagged (q : SlotCfg) : Bool :=
  decide (q.region < 8) && q.op != 0x43 && q.op != 0x66 && (q.op == 0x65 || decide (0 < q.ra + q.rb + q.rc))

/-- The region whose tag counts a token on a route keeps (R271): of the unit that the route comes from, the slot that gives on the route tokens with the tag, one of
its region's rack. -/
def Collar.regionAt (c : Collar) (x i tag : Nat) : Option Nat :=
  match c.active.origin 0 769 x i with
  | .cell d port =>
    ((c.active.slots d).find? fun n =>
      let q := c.active.slot d n
      q.tagged && decide (0 < (if port = 0 then q.rx else q.ry)) && (c.active.rackTags q.region).contains tag).map fun n => (c.active.slot d n).region
  | .mem m => let q := c.active.mcell m; if q.region < 8 ∧ 0 < q.ratei then some q.region else none
  | _ => none

/-- The data token that stands before input i of X-box x, in the neighbour's output buffer. -/
def Collar.before (c : Collar) (x i : Nat) : Option (Nat × Nat × Token) :=
  match inSource 0 x i with
  | .xbox y o => ((c.xd.at (xKey y o) []).head?).map fun k => (y, o, k)
  | _ => none

/-- The control token that stands before input i of X-box x; none for the neighbour when it is the start port's. -/
def Collar.beforeCtl (c : Collar) (x i : Nat) : Option (Option (Nat × Nat) × Bool) :=
  match inSource 1 x i with
  | .xbox y o => ((c.xc.at (xKey y o) []).head?).map fun k => (some (y, o), k)
  | .start => (match c.rally with | some r => if r.starts.contains x then some (none, false) else none | none => none)
  | _ => none

/-- The outputs of X-box x that take input i and have not accepted the token that stands before it (R69). -/
def Collar.dueX (c : Collar) (x i : Nat) : List Nat := (c.active.takers 0 x i).filter fun o => !nbit (c.xdAcc.at (xKey x i) 0) o
/-- The same for control tokens. -/
def Collar.dueXc (c : Collar) (x i : Nat) : List Nat := (c.active.takers 1 x i).filter fun o => !nbit (c.xcAcc.at (xKey x i) 0) o
/-- Those of them that have room now. -/
def Collar.nowX (c : Collar) (x i : Nat) : List Nat := (c.dueX x i).filter fun o => (c.xd.at (xKey x o) []).length < 2
/-- The same for control tokens. -/
def Collar.nowXc (c : Collar) (x i : Nat) : List Nat := (c.dueXc x i).filter fun o => (c.xc.at (xKey x o) []).length < 2
/-- Outputs as bits. -/
def outBits (l : List Nat) : Nat := l.foldl (fun m o => m + 2 ^ o) 0

/-- A data token that stands before input i of X-box x is copied to every output that takes it and has room; it leaves the input when all of them have
accepted it, and X-box x counts it as taken (R69, R447). A copy to k outputs adds k − 1 to its tag's COUNT (R271), at the first acceptance. -/
def State.moveData (s : State) (t x i cyc : Nat) : State :=
  let c := (s.tile t).col
  match c.before x i with
  | none => s
  | some (y, o, k) =>
    let n := (c.active.takers 0 x i).length
    let due := c.dueX x i
    let now := c.nowX x i
    if now.isEmpty && !due.isEmpty then s
    else
      let c1 : Collar :=
        if now.length = due.length then
          Collar.took { c with xd := c.xd.upd (xKey y o) [] List.tail, xdAcc := c.xdAcc.put (xKey x i) 0 } (nodeX x) 1
        else { c with xdAcc := c.xdAcc.upd (xKey x i) 0 (· + outBits now) }
      let c2 := (({ c1 with xd := now.foldl (fun m r => m.upd (xKey x r) [] (· ++ [k])) c1.xd } : Collar).gave (nodeX x) now.length).touch cyc
      match c.regionAt x i k.tag with
      | some g =>
        if n ≤ 1 || due.length < n then s.modCol t fun _ => c2
        else match c2.tagFlow g (List.replicate (n - 1) k.tag) [] with
          | .ok c3 => s.modCol t fun _ => c3
          | .error e => s.unitFault t (nodeX x) 2 (frameAddr (frX x)) e.1 (BitVec.ofNat 64 e.2) 0 0
      | none => s.modCol t fun _ => c2

/-- A control token that stands before input i of X-box x is copied likewise. -/
def State.moveCtl (s : State) (t x i cyc : Nat) : State :=
  let c := (s.tile t).col
  match c.beforeCtl x i with
  | none => s
  | some (src, k) =>
    let due := c.dueXc x i
    let now := c.nowXc x i
    if now.isEmpty && !due.isEmpty then s
    else
      let c1 : Collar :=
        if now.length = due.length then
          let c0 : Collar := { c with xcAcc := c.xcAcc.put (xKey x i) 0 }
          match src with
          | some (y, o) => Collar.took { c0 with xc := c.xc.upd (xKey y o) [] List.tail } (nodeX x) 1
          | none => { c0 with rally := c.rally.map fun r => { r with starts := setDel r.starts x } }
        else { c with xcAcc := c.xcAcc.upd (xKey x i) 0 (· + outBits now) }
      s.modCol t fun _ =>
        (({ c1 with xc := now.foldl (fun m r => m.upd (xKey x r) [] (· ++ [k])) c1.xc } : Collar).gave (nodeX x) now.length).touch cyc

/-- A data token leaves output o of X-box x for the unit that the output feeds. -/
def Collar.leaveData (c : Collar) (x o cyc : Nat) : Collar :=
  match c.xd.at (xKey x o) [] with
  | [] => c
  | k :: rest =>
    let out := fun (c : Collar) => ((Collar.took { c with xd := c.xd.put (xKey x o) rest } (nodeX x) 1).gave (nodeX x) 1).touch cyc
    match outSink 0 x o with
    | .cell d i => if (c.cin.at (cKey d i) []).length < 4 then out { c with cin := c.cin.upd (cKey d i) [] (· ++ [k]) } else c
    | .mem m => if (c.minp.at m []).length < 4 then out { c with minp := c.minp.upd m [] (· ++ [k]) } else c
    | .arr side g => if (c.ain.at (aKey side g) []).length < 4 then out { c with ain := c.ain.upd (aKey side g) [] (· ++ [k]) } else c
    | _ => c

/-- A control token leaves output o of X-box x. -/
def Collar.leaveCtl (c : Collar) (x o cyc : Nat) : Collar :=
  match c.xc.at (xKey x o) [] with
  | [] => c
  | k :: rest =>
    let out := fun (c : Collar) => ((Collar.took { c with xc := c.xc.put (xKey x o) rest } (nodeX x) 1).gave (nodeX x) 1).touch cyc
    match outSink 1 x o with
    | .cell d _ => if (c.cctl.at d []).length < 4 then out { c with cctl := c.cctl.upd d [] (· ++ [k]) } else c
    | .mem m => if (c.mord.at m []).length < 4 then out { c with mord := c.mord.upd m [] (· ++ [k]) } else c
    | _ => c

/-- One token move: port 0 to 5 is an input of X-box x; port 6 to 11 is its output to a unit. -/
def State.tokenMove (s : State) (t : Nat) (net : Net) (x port : Nat) : State :=
  let cyc := s.colCyc t
  if !(s.tile t).col.mayAct cyc (nodeX x) then s
  else if port < 6 then
    match net with
    | .data => s.moveData t x port cyc
    | .control => s.moveCtl t x port cyc
  else
    match net with
    | .data => s.modCol t fun c => c.leaveData x (port - 6) cyc
    | .control => s.modCol t fun c => c.leaveCtl x (port - 6) cyc

/-- XBOX_TOKEN_MOVE (R261). -/
def execXboxTokenMove (t : Nat) (net : Net) (x port : Nat) (s : State) : Out :=
  if t < numTiles ∧ x < 128 ∧ port < 12 then .next (s.tokenMove t net x port) else .fault .noSuchUnit

/-- Can the token move of this port be made. -/
def Collar.canMove (c : Collar) (net : Net) (x port : Nat) : Bool :=
  match net with
  | .data =>
    if port < 6 then (c.before x port).isSome && ((c.dueX x port).isEmpty || !(c.nowX x port).isEmpty)
    else !(c.xd.at (xKey x (port - 6)) []).isEmpty &&
      (match outSink 0 x (port - 6) with
       | .cell d i => decide ((c.cin.at (cKey d i) []).length < 4)
       | .mem m => decide ((c.minp.at m []).length < 4)
       | .arr side g => decide ((c.ain.at (aKey side g) []).length < 4)
       | _ => false)
  | .control =>
    if port < 6 then (c.beforeCtl x port).isSome && ((c.dueXc x port).isEmpty || !(c.nowXc x port).isEmpty)
    else !(c.xc.at (xKey x (port - 6)) []).isEmpty &&
      (match outSink 1 x (port - 6) with
       | .cell d _ => decide ((c.cctl.at d []).length < 4)
       | .mem m => decide ((c.mord.at m []).length < 4)
       | _ => false)

end Sys2Proof.Machine
end

