-- ==== Sys2Proof/Machine/Operands.lean ====
section
/-! DEFINITION. How an instruction of a task issues: its guard, its interlocks and fences, its poisoned operands, its completion and the step to the
next instruction; and the operand forms: immediates, effective addresses and address windows (spec/02_encoding.md R43, R47, R51, R54, R55;
spec/03_reg_core.md R82 to R84, R90, R104 to R106; spec/06_mem_spaces.md R154, R168, R172; spec/08_mem_order.md R219, R220). -/

namespace Sys2Proof.Machine

/-! ## Trap causes (R138) -/

/-- ILLEGAL. -/
def cIllegal : BitVec 8 := 1
/-- PRIV. -/
def cPriv : BitVec 8 := 2
/-- ALIGN. -/
def cAlign : BitVec 8 := 3
/-- SPILL_BOUNDS. -/
def cSpillBounds : BitVec 8 := 4
/-- CALL_DEPTH. -/
def cCallDepth : BitVec 8 := 5
/-- POISON_USE. -/
def cPoisonUse : BitVec 8 := 6
/-- RANGE. -/
def cRange : BitVec 8 := 7
/-- PERM. -/
def cPerm : BitVec 8 := 8
/-- CONFIG. -/
def cConfig : BitVec 8 := 9
/-- QUOTA. -/
def cQuota : BitVec 8 := 10
/-- CLOCK_LOCKED. -/
def cClockLocked : BitVec 8 := 11
/-- BARRIER_OVERRUN. -/
def cBarrierOverrun : BitVec 8 := 12
/-- DECODE_TABLE. -/
def cDecodeTable : BitVec 8 := 13
/-- CHECKSUM. -/
def cChecksum : BitVec 8 := 14
/-- PAIR_TIMEOUT. -/
def cPairTimeout : BitVec 8 := 15
/-- REMOTE_FAIL. -/
def cRemoteFail : BitVec 8 := 16
/-- LINK_UNKNOWN. -/
def cLinkUnknown : BitVec 8 := 17
/-- FPE. -/
def cFpe : BitVec 8 := 18
/-- BREAK. -/
def cBreak : BitVec 8 := 19
/-- SVC. -/
def cSvc : BitVec 8 := 20
/-- PREEMPT_OVERRUN. -/
def cPreemptOverrun : BitVec 8 := 21
/-- LAUNCH_DENIED. -/
def cLaunchDenied : BitVec 8 := 22

/-! ## The issuing task -/

/-- The slot whose instruction issues. -/
def State.cur (s : State) : Slot := s.slot s.focusT s.focusS
/-- The tile of the issuing task. -/
def State.curTile (s : State) : Tile := s.tile s.focusT
/-- The state with the issuing slot changed. -/
def State.modCur (s : State) (f : Slot → Slot) : State := s.modSlot s.focusT s.focusS f
/-- The issuing task's launch entry. -/
def State.curEntry (s : State) : Nat := (s.cur.task.map (·.entry)).getD 0

/-- A trap of the issuing task at its own instruction (R88, R139): TEPC and the recorded address are the instruction's. -/
def State.trapHere (s : State) (cause : BitVec 8) (tval : Word) : Out :=
  .next ((s.modCur fun sl => { sl with issues := sl.issues + 1 }).takeTrap s.focusT s.focusS
    { cause := cause, tval := tval, tepc := s.cur.rf.pc, ipc := s.cur.rf.pc })

/-- A trap of an instruction that has completed (R139: BREAK, SVC; R240: a token's cause): TEPC is the following instruction. -/
def State.trapAfter (s : State) (cause : BitVec 8) (tval : Word) : Out :=
  .next ((s.modCur fun sl => { sl with issues := sl.issues + 1 }).takeTrap s.focusT s.focusS
    { cause := cause, tval := tval, tepc := s.cur.rf.pc + 4, ipc := s.cur.rf.pc })

/-- Do f as if slot k of tile t had the issue turn. -/
def State.atFocus (s : State) (t k : Nat) (f : State → State) : State :=
  { f { s with focusT := t, focusS := k } with focusT := s.focusT, focusS := s.focusS }

/-- R104: a task whose PC has run off the instruction store traps RANGE. A LOOP with count 0 whose last word is 0x3FFFC does so too, and the record names
0x3FFFC as the instruction's address in either case: both are the model's choices (notes/assumptions/97.md). -/
def State.runOff (s : State) : State :=
  if s.cur.rf.pc = 0x40000#32 then
    s.takeTrap s.focusT s.focusS { cause := cRange, tval := 0x40000#64, tepc := 0x40000#32, ipc := 0x3FFFC#32 }
  else s

/-- The slot after an instruction that completes without a transfer: the loop-end check and the next PC (R106), and one issue more. -/
def Slot.advance (sl : Slot) : Slot := { sl with rf := sl.rf.loopEnd, issues := sl.issues + 1 }

/-- An instruction completes with effect f on its slot, and the task goes on at the next instruction. -/
def State.retire (s : State) (f : Slot → Slot) : Out := .next (s.modCur fun sl => (f sl).advance).runOff

/-- An instruction completes with effect f on its slot, which sets the PC itself (a taken transfer, LOOP: no loop-end check). -/
def State.retireTo (s : State) (f : Slot → Slot) : Out :=
  .next (s.modCur fun sl => { (f sl) with issues := sl.issues + 1 }).runOff

/-- An instruction issues with effect f on its slot, and its task stands at it until it ends. -/
def State.stand (s : State) (f : Slot → Slot) : Out := .next (s.modCur fun sl => { f sl with issues := sl.issues + 1 })

/-- The slot after the end of an instruction that had issued before: the loop-end check and the next PC (R106). -/
def Slot.past (sl : Slot) : Slot := { sl with rf := sl.rf.loopEnd }

/-- The instruction at which the task stands ends with effect f on its slot, and the task goes on at the next one. -/
def State.pastIt (s : State) (f : Slot → Slot) : Out := .next (s.modCur fun sl => (f sl).past).runOff

/-- An instruction ends with effect f on its slot: one at which the task stood has issued before. -/
def State.endIt (s : State) (stood : Bool) (f : Slot → Slot) : Out := if stood then s.pastIt f else s.retire f

/-- The classes of instructions that fences tell apart (R220). -/
inductive Cls where
  | alu | load | store | amo | post | bwait | send | toks | tokw | cmd | depdone | launch
deriving DecidableEq, Repr

/-- What an instruction waits for (R84, R125, R220): its guard, the scalar registers and predicates it reads and writes, its class,
and whether it needs the integer or the float divider. -/
structure Need where
  g : BitVec 4
  rd : List Nat := []
  wr : List Nat := []
  rp : List Nat := []
  wp : List Nat := []
  cls : Cls := .alu
  div : Bool := false
  fdiv : Bool := false
deriving DecidableEq, Repr

/-- Does the guard hold (R43). -/
def RegFile.guardTrue (r : RegFile) (g : BitVec 4) : Bool := r.pred (g.toNat % 8) != g.getLsbD 3

/-- Has scalar register i an outstanding write (R84, R150). -/
def Slot.busyReg (sl : Slot) (i : Nat) : Bool :=
  i != 0 && (sl.infl.any (fun w => !w.isPred && w.dst == i)
    || sl.accs.any (fun a => a.dst == i)
    || (match sl.task with
        | some ti => (match ti.scan with | some o => !o.isWrite && o.dst == i | none => false)
        | none => false))

/-- Has predicate i an outstanding write (R84). -/
def Slot.busyPred (sl : Slot) (i : Nat) : Bool := i != 0 && sl.infl.any fun w => w.isPred && w.dst == i

/-- Is a command still in the way of a fence (R219): a rally until its whistle, another command until it has finished. -/
def Tile.cmdPending (x : Tile) (uid : Nat) : Bool :=
  x.colq.any (fun c => c.uid == uid && c.st != 2 && !(c.cmd == 2 && c.st == 1 && !x.col.rallyRuns))
    || x.cpyq.any (fun c => c.uid == uid && c.st != 2)

/-- Does a fence still stand (R220). -/
def FenceHold.stands (f : FenceHold) (x : Tile) (sl : Slot) : Bool :=
  f.accs.any (fun k => sl.accs.any fun a => a.k == k) || f.cmds.any x.cmdPending

/-- Does a fence of release or acquire kind hold an instruction of a class (R220). -/
def FenceHold.holds (f : FenceHold) (c : Cls) : Bool :=
  if f.rel then
    match c with
    | .store | .amo | .post | .send | .toks | .depdone | .launch | .cmd => true
    | _ => false
  else
    match c with
    | .load | .store | .amo | .post | .bwait | .send | .toks | .tokw | .cmd => true
    | _ => false

/-- Is the class a load, store or AMO, which a pending AMO.ACQ holds (R172). -/
def Cls.isAccess : Cls → Bool
  | .load | .store | .amo | .post | .bwait => true
  | _ => false

/-- Do fences or a pending AMO.ACQ hold the instruction. -/
def Slot.fenced (sl : Slot) (x : Tile) (c : Cls) : Bool :=
  (match sl.task with | some ti => ti.fences.any (fun f => f.holds c && f.stands x sl) | none => false)
    || (c.isAccess && sl.accs.any (·.acq))

/-- Is a YIELD over: each other task has issued, or 16 TCC cycles have passed (R144). -/
def Tile.yieldOver (x : Tile) (now since : Nat) (others : List (Nat × Nat)) : Bool :=
  decide (since + 16 ≤ x.cyc 0 now) || others.all fun o => decide (o.2 < (x.slot o.1).issues)

/-- Does the task's hold let it issue; `own` says whether a hold is the instruction's own (it issues again). -/
def Tile.holdOk (x : Tile) (now : Nat) (own : Hold → Bool) (h : Hold) : Bool :=
  match h with
  | .none => true
  | .yield since others => x.yieldOver now since others
  | h => own h

/-- May the task issue, or end the instruction it stands inside: live, not stopped or halted, no trap pending (but the instruction it stands inside ends
first), nothing in flight that FEN makes it wait for (R122, R170). -/
def Slot.mayIssue (sl : Slot) (x : Tile) (now : Nat) (own : Hold → Bool) : Bool :=
  match sl.task with
  | none => false
  | some ti =>
    !ti.stopped && !ti.halted && (ti.trap.isNone || ti.hold.inside) && sl.stop.state == 0 && x.holdOk now own ti.hold
      && !(sl.sr.fen != 0 && sl.infl.any (·.isFp))

/-- Are the instruction's operands, destinations and units free (R84, R125). -/
def Slot.operandsFree (sl : Slot) (x : Tile) (n : Need) : Bool :=
  !(n.rd.any sl.busyReg) && !(n.wr.any sl.busyReg) && !(n.rp.any sl.busyPred) && !(n.wp.any sl.busyPred)
    && !(n.div && x.slots.any (fun p => p.2.infl.any (·.isDiv)))
    && !(n.fdiv && x.slots.any (fun p => p.2.infl.any (·.isFdiv)))

/-- Is the address of the focused task's next instruction in its side table (R391, R393). -/
def State.sideListed (s : State) : Bool :=
  let sl := s.cur
  (List.range sl.stop.stcnt.toNat).any fun i =>
    s.mem.readN (istoreKey s.focusT (sl.stop.stbase.toNat + 16 * i)) 4 == sl.rf.pc.toNat

/-- While its court stops, does the focused task stop before its next instruction (R391 STATE 1, R392). -/
def State.stopsHere (s : State) : Bool :=
  s.curTile.stopAt.isSome && (decide (s.cur.stop.issued + 4096 ≤ s.cur.issues) || s.sideListed)

/-- Does the task stand at an instruction of its own that has issued already. -/
def Slot.held (sl : Slot) (own : Hold → Bool) : Bool :=
  match sl.task with
  | none => false
  | some ti => match ti.hold with | .none | .yield _ _ => false | h => own h

/-- Issue an instruction of the focused task (R30, R54, R55, R84): nothing happens while it may not issue or is interlocked; a false guard
waits only for its predicate and then takes the task to the next instruction; otherwise the instruction has its effect. An instruction at
which its task stands is tried again. -/
def State.issueOwn (s : State) (own : Hold → Bool) (n : Need) (body : Out) : Out :=
  let sl := s.cur
  let x := s.curTile
  if !sl.mayIssue x s.time own || (s.stopsHere && !sl.held own) then .next s
  else if sl.held own then body
  else if sl.busyPred (n.g.toNat % 8) then .next s
  else if !sl.rf.guardTrue n.g then s.retire id
  else if !sl.operandsFree x n || sl.fenced x n.cls then .next s
  else body

/-- Issue an instruction that never holds its own task. -/
def State.issue (s : State) (n : Need) (body : Out) : Out := s.issueOwn (fun _ => false) n body

/-- Issue a privileged instruction (R54, R133): a user task traps PRIV with the instruction's word, whatever its guard. -/
def State.issuePriv (s : State) (word : IWord) (n : Need) (body : Out) : Out :=
  if !s.cur.mayIssue s.curTile s.time (fun _ => false) || s.stopsHere then .next s
  else if !s.cur.sr.priv then s.trapHere cPriv (word.setWidth 64)
  else s.issue n body

/-- The first poisoned register among consuming reads, in order (R83). -/
def RegFile.firstPoison (r : RegFile) (regs : List Nat) : Option Nat := regs.find? fun i => (r.get i).poi

/-- The consuming reads of an instruction: a poisoned one traps POISON_USE before any effect (R83). -/
def State.consume (s : State) (regs : List Nat) (body : Out) : Out :=
  match s.cur.rf.firstPoison regs with
  | some i => s.trapHere cPoisonUse (BitVec.ofNat 64 i)
  | none => body

/-- Value of a scalar register of the issuing task. -/
def State.reg (s : State) (i : Nat) : Word := (s.cur.rf.get i).val

/-- Is the issuing task privileged (R133). -/
def State.curPriv (s : State) : Bool := s.cur.sr.priv

/-! ## Immediates (R47) -/

/-- SignExtend(imm10, 64). -/
def simm10 (i : BitVec 10) : Word := i.signExtend 64
/-- ZeroExtend(imm10, 64). -/
def zimm10 (i : BitVec 10) : Word := i.setWidth 64
/-- SignExtend(imm16, 64). -/
def simm16 (i : BitVec 16) : Word := i.signExtend 64

/-- A branch target, computed exactly: pc + 4 * SignExtend(disp22, 64) (R100). -/
def branchTarget (pc : BitVec 32) (d : BitVec 22) : Int := (pc.toNat : Int) + 4 * sgn 22 d.toNat

/-- A number as 64 bits. -/
def int64 (i : Int) : Word := BitVec.ofNat 64 (wrapInt 64 i)

/-! ## Address windows (R154) -/

/-- Where an address of a task lies. -/
inductive Place where
  | spill (off : Nat)
  | loc (off : Nat)
  | window (tile off : Nat)
deriving DecidableEq, Repr

/-- Classify (R154): a place, or the trap cause. -/
def Slot.classify (sl : Slot) (court : Word) (ea : Word) (n : Nat) : Except (BitVec 8) Place :=
  let a := ea.toNat
  if a ≤ 0xFFFF then
    if sl.sr.spSize.toNat < a + n then .error cSpillBounds
    else .ok (.spill ((sl.sr.spBase.toNat + a) % 2 ^ 16))
  else if 0x400000 ≤ a ∧ a ≤ 0x7FFFFF then .ok (.loc (a - 0x400000))
  else if a / 2 ^ 28 = 0x1000 then
    let row := nfld a 27 25
    let col := nfld a 24 22
    if courtRowsM1 court < row ∨ courtColsM1 court < col then .error cRange
    else .ok (.window (courtTile court row col) (a % 2 ^ 22))
  else .error cRange

/-- The effective address of a load or store (R51, R167). -/
def effAddr (base : Word) (d : BitVec 10) (size : Nat) : Word := base + d.signExtend 64 * BitVec.ofNat 64 size

/-! ## Limits of R168 -/

/-- Room for a local load, AMO or counter access: the tile's request queue holds fewer than 4. -/
def Tile.localRoom (x : Tile) : Bool := decide (x.tccReq.length < 4)
/-- Room for a local store of the task: fewer than 4 of its local stores have not performed. -/
def Slot.storeRoom (sl : Slot) : Bool :=
  decide ((sl.accs.filter fun a => !a.window && (a.kind == .store || a.kind == .post)).length < 4)
/-- Room for a court-window access of the task: fewer than 4 outstanding. -/
def Slot.windowRoom (sl : Slot) : Bool := decide ((sl.accs.filter (·.window)).length < 4)

end Sys2Proof.Machine
end

