-- ==== Sys2Proof/Machine/Flags.lean ====
section
/-! DEFINITION. Comparison conditions, and the completion of instructions that raise floating flags (spec/02_encoding.md R48;
spec/04_reg_arith.md R119 to R122, R129 to R132). -/

namespace Sys2Proof.Machine

/-- The condition cc of CMP and CMPI (R48, R97). -/
def intCond (cc : Nat) (x y : Word) : Bool :=
  if cc = 0 then x == y
  else if cc = 1 then x != y
  else if cc = 2 then decide (x.toInt < y.toInt)
  else if cc = 3 then decide (x.toInt ≤ y.toInt)
  else if cc = 4 then decide (x.toNat < y.toNat)
  else decide (x.toNat ≤ y.toNat)

/-- A floating result goes in flight: register or predicate dst, value, flags (R121). -/
def Slot.fly (sl : Slot) (w : Inflight) : Slot := { sl with infl := sl.infl ++ [w] }

/-- A floating instruction issues (R121, R122): its result goes in flight; while FEN is nonzero the task stands at it until it completes. -/
def State.flyFp (s : State) (w : Inflight) : Out :=
  if s.cur.sr.fen = 0 then s.retire fun sl => sl.fly { w with isFp := true }
  else s.stand fun sl => sl.fly { w with isFp := true, late := true }

/-- Does completing this in-flight write trap FPE (R122): a raised flag whose FEN bit is set. -/
def Slot.fpeTraps (sl : Slot) (w : Inflight) : Bool := w.isFp && (w.flags &&& sl.sr.fen) != 0

/-- A word of 36 bits in a scalar register (R109). -/
def ofW36 (w : W36) : PWord := { val := w.setWidth 64, poi := false }
/-- The W36 operand of a scalar register (R109). -/
def toW36 (v : Word) : W36 := v.setWidth 36

/-- FCVT out of W36 to code c (R129 to R131): the register value and the flags. -/
def cvtFrom (c : Nat) (rm : RMode) (x : W36) : Word × Flags :=
  if c = 1 then let r := encodeFloat ffFP32 rm (fOF ||| fNX) x; (BitVec.ofNat 64 r.1, r.2)
  else if c = 2 then let r := encodeFloat ffBF16 rm (fOF ||| fNX) x; (BitVec.ofNat 64 r.1, r.2)
  else if c = 3 then let r := encodeTapered 16 1 rm x; (BitVec.ofNat 64 r.1, r.2)
  else if c = 4 then let r := encodeTapered 8 1 rm x; (BitVec.ofNat 64 r.1, r.2)
  else if c = 5 then let r := w36ToInt x rm (-(2 ^ 63)) (2 ^ 63 - 1); (int64 r.1, r.2)
  else let r := w36ToInt x rm 0 (2 ^ 64 - 1); (int64 r.1, r.2)

/-- FCVT into W36 from code c (R129). -/
def cvtTo (c : Nat) (rm : RMode) (v : Word) : W36 × Flags :=
  if c = 1 then decodeFloat ffFP32 (v.toNat % 2 ^ 32)
  else if c = 2 then decodeFloat ffBF16 (v.toNat % 2 ^ 16)
  else if c = 3 then taperedToW36 16 1 (v.toNat % 2 ^ 16)
  else if c = 4 then taperedToW36 8 1 (v.toNat % 2 ^ 8)
  else if c = 5 then w36OfInt v.toInt rm
  else w36OfInt (v.toNat : Int) rm

/-- FCVT (R129): exactly one of the two formats is W36. -/
def fcvt (dfmt sfmt : Nat) (rm : RMode) (v : Word) : Word × Flags :=
  if dfmt = 0 then let r := cvtTo sfmt rm v; (r.1.setWidth 64, r.2)
  else cvtFrom dfmt rm (toW36 v)

end Sys2Proof.Machine
end

