-- ==== Sys2Proof/Machine/CellOps.lean ====
section
/-! DEFINITION. What the operations of the compute cells compute, lane by lane (spec/10_q_collar.md R291 to R297). -/

namespace Sys2Proof.Machine

/-! ## Sublanes -/

/-- The sublanes of a lane, of w bits each. -/
def subs (w v : Nat) : List Nat := (List.range (32 / w)).map fun j => v / 2 ^ (w * j) % 2 ^ w
/-- The lane that sublanes make up. -/
def joinSubs (w : Nat) (l : List Nat) : Nat := l.foldr (fun x a => x % 2 ^ w + a * 2 ^ w) 0
/-- Every sublane of a lane holds v. -/
def fillSubs (w v : Nat) : Nat := joinSubs w (List.replicate (32 / w) v)

/-- The integer operations on one sublane of w bits: the result, and the secondary result of MUL and MULH (R292). -/
def intOp (op w aux a b c : Nat) : Nat × Nat :=
  let m : Nat := 2 ^ w
  let sa := sgn w a
  let sb := sgn w b
  let uns := nbit aux 0
  let full : Nat := if uns then a * b else wrapInt (2 * w) (sa * sb)
  let less := fun (x y : Nat) => if uns then decide (x < y) else decide (sgn w x < sgn w y)
  let mn := fun (x y : Nat) => if less y x then y else x
  let mx := fun (x y : Nat) => if less x y then y else x
  let half : Int := (2 ^ (w - 1) : Nat)
  let top : Int := (m : Int) - 1
  if op = 0x01 then ((a + b) % m, 0)
  else if op = 0x02 then ((a + m - b) % m, 0)
  else if op = 0x03 then (full % m, full / m)
  else if op = 0x04 then (full / m, full % m)
  else if op = 0x05 then ((a * b + c) % m, 0)
  else if op = 0x06 then (a &&& b, 0)
  else if op = 0x07 then (a ||| b, 0)
  else if op = 0x08 then (a ^^^ b, 0)
  else if op = 0x09 then (a * 2 ^ (b % w) % m, 0)
  else if op = 0x0A then (a / 2 ^ (b % w), 0)
  else if op = 0x0B then (wrapInt w (sa >>> (b % w)), 0)
  else if op = 0x0C then (mn a b, 0)
  else if op = 0x0D then (mx a b, 0)
  else if op = 0x0E then (wrapInt w (if sa < 0 then -sa else sa), 0)
  else if op = 0x0F then
    (if aux % 4 = 0 then wrapInt w (clampInt (-half) (half - 1) (sa + sb))
     else if aux % 4 = 1 then wrapInt w (clampInt 0 top ((a : Int) + b))
     else if aux % 4 = 2 then wrapInt w (clampInt (-half) (half - 1) (sa - sb))
     else wrapInt w (clampInt 0 top ((a : Int) - b)), 0)
  else if op = 0x10 then (mn (mx a b) c, 0)
  else if op = 0x11 then
    let x := BitVec.ofNat 64 (wrapInt 64 (if aux % 8 = 4 ∨ aux % 8 = 5 then (a : Int) else sa))
    let y := BitVec.ofNat 64 (wrapInt 64 (if aux % 8 = 4 ∨ aux % 8 = 5 then (b : Int) else sb))
    (if intCond (aux % 8) x y then m - 1 else 0, 0)
  else (if c ≠ 0 then a else b, 0)

/-- An integer operation on a lane. -/
def intLane (op lane aux : Nat) (a b c : W36) : W36 × W36 :=
  let w := laneBits lane
  let r := (List.range (32 / w)).map fun j =>
    let f := fun (x : W36) => x.toNat / 2 ^ (w * j) % 2 ^ w
    intOp op w aux (f a) (f b) (f c)
  (BitVec.ofNat 36 (joinSubs w (r.map Prod.fst)), BitVec.ofNat 36 (joinSubs w (r.map Prod.snd)))

/-- The W36 operations on a lane (R293). -/
def floatLane (op aux : Nat) (a b c : W36) : W36 × Flags :=
  if op = 0x20 then w36Add a b
  else if op = 0x21 then w36Sub a b
  else if op = 0x22 then w36Mul a b
  else if op = 0x23 then w36Fma a b c
  else if op = 0x24 then w36Min a b
  else if op = 0x25 then w36Max a b
  else if op = 0x26 then (w36Abs a, fNone)
  else if op = 0x27 then (w36Flip a, fNone)
  else if op = 0x28 then (let r := w36Cmp (aux % 8) a b; (if r.1 then 0xFFFFFFFFF#36 else 0#36, r.2))
  else if op = 0x29 then w36Rcp a
  else if op = 0x2A then w36Rsqrt a
  else if op = 0x2B then w36Exp2 a
  else if op = 0x2C then w36Log2 a
  else w36Scale a b

/-! ## Reductions (R294, R295) -/

/-- The identity of a reduction, as a lane: 0 sum, 1 maximum, 2 minimum. -/
def redIdentity (f lane : Nat) (uns : Bool) : W36 :=
  if lane = 3 then (if f = 0 then w36Zero true else w36Inf (f == 1))
  else
    let w := laneBits lane
    BitVec.ofNat 36 (fillSubs w (if f = 0 then 0 else if f = 1 then (if uns then 0 else 2 ^ (w - 1)) else (if uns then 2 ^ w - 1 else 2 ^ (w - 1) - 1)))

/-- One step of a reduction on a sublane of w bits. -/
def redInt (f w : Nat) (uns : Bool) (r a : Nat) : Nat :=
  if f = 0 then (r + a) % 2 ^ w
  else
    let less := fun (x y : Nat) => if uns then decide (x < y) else decide (sgn w x < sgn w y)
    if f = 1 then (if less r a then a else r) else (if less a r then a else r)

/-- One step of a reduction on a W36 value. -/
def redFloat (f : Nat) (r a : W36) : W36 × Flags := if f = 0 then w36Add r a else if f = 1 then w36Max r a else w36Min r a

/-- The reduction of the active lanes of a token in lane order: the value of one sublane, and the flags. -/
def reduceLanes (f lane : Nat) (uns : Bool) (l : Lanes) (m : BitVec 32) : W36 × Flags :=
  let on := (List.range 32).filter fun i => m.getLsbD i
  if lane = 3 then
    on.foldl (fun (r : W36 × Flags) i => let x := redFloat f r.1 (l.lane i); (x.1, r.2 ||| x.2)) (redIdentity f 3 uns, fNone)
  else
    let w := laneBits lane
    let z := (redIdentity f lane uns).toNat % 2 ^ w
    (BitVec.ofNat 36 (on.foldl (fun r i => (subs w (l.lane i).toNat).foldl (redInt f w uns) r) z), fNone)

/-- One lane of ACC: the register's lane combined with the token's (R295). -/
def accLane (f lane : Nat) (r a : W36) : W36 × Flags :=
  if lane = 3 then redFloat f r a
  else
    let w := laneBits lane
    (BitVec.ofNat 36 (joinSubs w (((subs w r.toNat).zip (subs w a.toNat)).map fun p => redInt f w false p.1 p.2)), fNone)

/-! ## PACK and UNPACK (R297) -/

/-- A value of 2w bits limited to w bits. -/
def limitTo (w aux v : Nat) : Nat :=
  if nbit aux 1 then v % 2 ^ w
  else if nbit aux 0 then min v (2 ^ w - 1)
  else wrapInt w (clampInt (-(2 ^ (w - 1) : Nat)) ((2 ^ (w - 1) : Nat) - 1) (sgn (2 * w) v))

/-- One lane of PACK. -/
def packLane (lane aux : Nat) (a b : W36) : W36 × Flags :=
  if lane = 3 then
    let x := l18OfW36 a
    let y := l18OfW36 b
    (BitVec.ofNat 36 (y.1.toNat * 2 ^ 18 + x.1.toNat), x.2 ||| y.2)
  else if lane = 1 then (BitVec.ofNat 36 (limitTo 16 aux (b.toNat % 2 ^ 32) * 2 ^ 16 + limitTo 16 aux (a.toNat % 2 ^ 32)), fNone)
  else
    let f := fun (x : W36) => (subs 16 x.toNat).map (limitTo 8 aux)
    (BitVec.ofNat 36 (joinSubs 8 (f a ++ f b)), fNone)

/-- A value of w bits widened to twice as many. -/
def widen (w aux v : Nat) : Nat := if nbit aux 0 then v else wrapInt (2 * w) (sgn w v)

/-- One lane of UNPACK: the low half's token (k = 0) or the high half's. -/
def unpackLane (lane aux k : Nat) (a : W36) : W36 :=
  if lane = 3 then l18ToW36 (BitVec.ofNat 18 (a.toNat / 2 ^ (18 * k)))
  else
    let h := a.toNat / 2 ^ (16 * k) % 2 ^ 16
    if lane = 1 then BitVec.ofNat 36 (widen 16 aux h)
    else BitVec.ofNat 36 (joinSubs 16 [widen 8 aux (h % 2 ^ 8), widen 8 aux (h / 2 ^ 8)])

/-! ## Rearrangement (R296) -/

/-- The lane of A that lane i of the result takes. -/
def shufFrom (op : Nat) (b : Lanes) (i : Nat) : Nat :=
  if op = 0x50 then (b.lane i).toNat % 32 else if op = 0x51 then (i + (b.lane 0).toNat % 32) % 32 else (b.lane 0).toNat % 32

end Sys2Proof.Machine
end

