-- ==== Sys2Proof/Machine/Cells.lean ====
section
/-! DEFINITION. The firings of the compute cells (spec/01_machine.md R34; spec/10_q_collar.md R264 to R276, R291 to R300). -/

namespace Sys2Proof.Machine

/-! ## What a firing takes -/

/-- The tokens that a firing takes, and the collar without them. -/
structure Taken where
  a : List Token := []
  b : List Token := []
  c : List Token := []
  ctl : List Bool := []
  col : Collar
deriving DecidableEq, Repr

/-- All data tokens taken. -/
def Taken.all (k : Taken) : List Token := k.a ++ k.b ++ k.c
/-- The first token: of a, or of b, or of c (R265). -/
def Taken.first (k : Taken) : Option Token := k.all.head?
/-- The AND of the masks of the tokens taken. -/
def Taken.mask (k : Taken) : BitVec 32 := k.all.foldl (fun m t => m &&& t.mask) allLanes
/-- The tag of the first token (R64, R265). DESIGN CHOICE (notes/assumptions/101.md): the spec names no tag for a firing that takes no data token, only control
tokens; the model reads 0. -/
def Taken.tag (k : Taken) : Nat := (k.first.map (·.tag)).getD 0

/-- The oldest n entries of a list, and the rest, when there are as many. -/
def splitOld {α : Type} (l : List α) (n : Nat) : Option (List α × List α) := if n ≤ l.length then some (l.take n, l.drop n) else none

/-- The ordered form of ACC and MERGE (R272). -/
def SlotCfg.ordered (q : SlotCfg) : Bool := (q.op == 0x43 || q.op == 0x63) && decide (q.region < 8) && !q.comm

/-- The cell's storage. -/
def Collar.cellStore (c : Collar) (cell : Nat) : CellStore := c.store.at cell {}

/-- The tag that an ordered cell takes next: the oldest live tag that it has not yet taken (R272). -/
def Collar.nextTag (c : Collar) (cell g : Nat) : Option Nat :=
  let r := c.racks.at g {}
  r.alloc.find? fun t => r.live t && !(c.cellStore cell).taken.contains t

/-- Take n tokens from each declared port, and the control tokens. -/
def Collar.takePorts (c : Collar) (cell ra rb rc cin : Nat) : Option Taken :=
  match splitOld (c.cin.at (cKey cell 0) []) ra, splitOld (c.cin.at (cKey cell 1) []) rb, splitOld (c.cin.at (cKey cell 2) []) rc,
      splitOld (c.cctl.at cell []) cin with
  | some a, some b, some d, some k =>
    some { a := a.1, b := b.1, c := d.1, ctl := k.1,
           col := Collar.took
             { c with
               cin := (((if ra = 0 then c.cin else c.cin.put (cKey cell 0) a.2)
                 |> fun m => if rb = 0 then m else m.put (cKey cell 1) b.2)
                 |> fun m => if rc = 0 then m else m.put (cKey cell 2) d.2),
               cctl := if cin = 0 then c.cctl else c.cctl.put cell k.2 } cell (ra + rb + rc + cin) }
  | _, _, _, _ => none

/-- What the slot would take now: the input condition of R34, with that of MERGE, whose alternative inputs are a and b (R267), and of an ordered cell, which takes
the held token of its next tag for port a, or for MERGE's a or b (R272). -/
def Collar.takeFor (c : Collar) (cell : Nat) (q : SlotCfg) : Option Taken :=
  if q.ordered then
    match c.nextTag cell q.region with
    | none => none
    | some tag =>
      let st := c.cellStore cell
      match findPlace (fun (k : Token) => k.tag == tag) st.held, c.takePorts cell 0 (if q.op = 0x63 then 0 else q.rb) q.rc q.cin with
      | some i, some k =>
        some { k with a := (st.held[i]?).toList,
                      col := { k.col with store := k.col.store.put cell { st with held := delNth st.held i, taken := setAdd st.taken tag } } }
      | _, _ => none
  else if q.op = 0x63 then
    let st := c.cellStore cell
    let fromB : Bool := if q.comm then (c.cin.at (cKey cell 0) []).isEmpty else st.turn
    let c := if q.comm then c else { c with store := c.store.put cell { st with turn := !st.turn } }
    if fromB then c.takePorts cell 0 1 q.rc q.cin else c.takePorts cell 1 0 q.rc q.cin
  else c.takePorts cell q.ra q.rb q.rc q.cin

/-- The tokens of an ordered cell's inputs go to its holding store (R272). -/
def Collar.absorb (c : Collar) (cell : Nat) (q : SlotCfg) : Collar :=
  let a := c.cin.at (cKey cell 0) []
  let b := if q.op = 0x63 then c.cin.at (cKey cell 1) [] else []
  let st := c.cellStore cell
  if !q.ordered || (a ++ b).isEmpty || decide (32 < st.held.length + (a ++ b).length) then c
  else
    Collar.took { c with
      store := c.store.put cell { st with held := st.held ++ a ++ b },
      cin := let m := c.cin.put (cKey cell 0) []; if q.op = 0x63 then m.put (cKey cell 1) [] else m } cell (a ++ b).length

/-- A held token whose tag the ordered cell has taken before and that has not returned (R272). -/
def Collar.secondTag (c : Collar) (cell : Nat) (q : SlotCfg) : Option Nat :=
  let st := c.cellStore cell
  if q.ordered then (st.held.find? fun k => st.taken.contains k.tag).map (·.tag) else none

/-! ## Operands (R64, R65, R268) -/

/-- The lane that IMM gives. -/
def immLane (q : SlotCfg) : W36 :=
  if q.lane = 3 then BitVec.ofNat 36 (q.imm * 16) else BitVec.ofNat 36 (fillSubs (laneBits q.lane) q.imm)
/-- The lane that a tag gives. -/
def tagLane (lane tag : Nat) : W36 :=
  if lane = 3 then (w36OfInt (tag : Int) .rne).1 else BitVec.ofNat 36 (fillSubs (laneBits lane) tag)

/-- An operand: its lanes and which of them are active. -/
def Collar.operand (c : Collar) (cell : Nat) (q : SlotCfg) (k : Taken) (sel : Nat) : Lanes × BitVec 32 :=
  let tok := fun (l : List Token) => match l with | t :: _ => (t.d, t.mask) | [] => (({} : Lanes), allLanes)
  if sel < 16 then (c.vr.at (cell * 16 + sel) {}, allLanes)
  else if sel = 0x10 then (if q.op = 0x63 then tok k.all else tok k.a)
  else if sel = 0x11 then (if q.op = 0x63 then tok k.all else tok k.b)
  else if sel = 0x12 then tok k.c
  else if sel = 0x13 then (Lanes.of fun _ => (immLane q, false), allLanes)
  else if sel = 0x15 then (Lanes.of fun _ => (tagLane q.lane k.tag, false), allLanes)
  else ({}, allLanes)

/-- The first poisoned lane among those used. -/
def Lanes.firstBad (l : Lanes) (used : BitVec 32) : Option Nat := (List.range 32).find? fun i => used.getLsbD i && l.bad i

/-- A consuming read of an operand's used lanes (R268): the lanes, and whether one was read as zero; or the lane that faults. -/
def consumeLanes (pois : Nat) (l : Lanes) (used : BitVec 32) : Except Nat (Lanes × Bool) :=
  match l.firstBad used with
  | none => .ok (l, false)
  | some i =>
    if pois = 1 then .error i
    else if pois = 2 then .ok (Lanes.of (fun j => if used.getLsbD j && l.bad j then (0#36, false) else (l.lane j, l.bad j)), true)
    else .ok (l, false)

/-- The consuming reads of several operands with the same used lanes: the lowest faulting lane stands. -/
def consumeAll (pois : Nat) (ls : List Lanes) (used : BitVec 32) : Except Nat (List Lanes × Bool) :=
  match (List.range 32).find? fun i => pois == 1 && used.getLsbD i && ls.any fun l => l.bad i with
  | some i => .error i
  | none => ls.foldr (fun l acc => match acc, consumeLanes pois l used with
      | .ok a, .ok r => .ok (r.1 :: a.1, a.2 || r.2)
      | .error i, _ => .error i
      | _, .error i => .error i) (.ok ([], false))

/-! ## What a firing gives -/

/-- What a firing computes: its result lanes and mask, the secondary result, the tokens given on x and y unless the rates say so, the control
tokens, the register written with the lanes written, flags, whether a lane was read as zero, and the collar with the cell's own storage changed. -/
structure Fired where
  r : Lanes := {}
  mask : BitVec 32 := 0
  tag : Nat := 0
  sec : Lanes := {}
  xs : Option (List Token) := none
  ys : Option (List Token) := none
  cout : Nat := 0
  reg : Option (Nat × Lanes × BitVec 32) := none
  fl : Flags := fNone
  pz : Bool := false
  col : Collar

/-- The binding of the active image that names a counter and has a pending token: its number and count (R276). -/
def Collar.pendingFor (c : Collar) (kind idx slot : Nat) : Option (Nat × Nat) :=
  (List.range 16).findSome? fun k =>
    let b := c.active.bind k
    if b.1 && b.2.1 == kind && b.2.2.1 == idx && b.2.2.2 == slot then (c.bound.look k).map fun n => (k, n) else none

/-- A wrap applies a pending bound token to a counter's limit. -/
def Collar.boundLimit (c : Collar) (kind idx slot limit : Nat) : Nat × Collar :=
  match c.pendingFor kind idx slot with
  | some (k, n) => (n, { c with bound := c.bound.del k })
  | none => (limit, c)

/-- Has the CNT slot with BW wrapped and no bound token pending (R275). -/
def Collar.cntWaits (c : Collar) (cell n : Nat) (q : SlotCfg) : Bool :=
  q.op == 0x67 && nbit q.aux 0 && c.cntWrapped.contains (cell * 4 + n) && (c.pendingFor 0 cell n).isNone

/-- One count of a CNT slot (R275, R276, R445): whether it wraps, and the collar. With BW a pending token is applied before it counts on. -/
def Collar.countStep (c : Collar) (cell n : Nat) (q : SlotCfg) : Bool × Collar :=
  let key := cell * 4 + n
  let bw := nbit q.aux 0
  let p := c.cnt.at key (0, q.imm)
  let lc := if bw && c.cntWrapped.contains key then c.boundLimit 0 cell n p.2 else (p.2, c)
  let c := { lc.2 with cntWrapped := setDel lc.2.cntWrapped key }
  if lc.1 ≤ p.1 + 1 then
    if bw then (true, { c with cnt := c.cnt.put key (0, lc.1), cntWrapped := setAdd c.cntWrapped key })
    else
      let l2 := c.boundLimit 0 cell n lc.1
      (true, { l2.2 with cnt := l2.2.cnt.put key (0, l2.1) })
  else (false, { c with cnt := c.cnt.put key (p.1 + 1, lc.1) })

/-- A token of the result. -/
def Fired.tok (f : Fired) (l : Lanes) : Token := { d := l.masked f.mask, mask := f.mask, tag := f.tag }

/-- The effect of an operation on the tokens taken (R291 to R300). DESIGN CHOICE (notes/assumptions/108.md): R268 exempts the data operands of the moves and does
not name the selecting operand B of STEER and GATE; the model consumes B, and under POIS 00 poison in B leaves the tokens given clean. DESIGN CHOICE
(notes/assumptions/115.md): SINK gives nothing whatever rates it declares; CNT gives operand A on x, as R300 has it, whatever SELA names; CNT at each firing, and GATE at each
that gives on x, give their declared y tokens too, while ACC gives nothing on y. -/
def computeCell (cell n : Nat) (q : SlotCfg) (k : Taken) : Except CellFault Fired :=
  let om := k.mask
  let opA := k.col.operand cell q k q.selA
  let opB := k.col.operand cell q k q.selB
  let base : Fired := { mask := om, tag := k.tag, cout := q.cout, col := k.col }
  let move := Except.ok (ε := CellFault) { base with r := opA.1.masked om }
  if isIntOp q.op || isW36Op q.op then
    match consumeAll q.pois ([opA.1, opB.1, (k.col.operand cell q k q.selC).1].take (operandsOf q)) om with
    | .error i => .error (6, i)
    | .ok (ls, pz) =>
      let a := ls.getD 0 {}
      let b := ls.getD 1 {}
      let d := ls.getD 2 {}
      let bad := fun (i : Nat) => a.bad i || b.bad i || d.bad i
      if isIntOp q.op then
        let res := fun (i : Nat) => intLane q.op q.lane q.aux (a.lane i) (b.lane i) (d.lane i)
        .ok { base with r := (Lanes.of fun i => ((res i).1, bad i)).masked om, sec := (Lanes.of fun i => ((res i).2, bad i)).masked om, pz := pz }
      else
        let res := (List.range 32).map fun i => if om.getLsbD i then floatLane q.op q.aux (a.lane i) (b.lane i) (d.lane i) else (0#36, fNone)
        .ok { base with r := (Lanes.of fun i => ((res.getD i (0#36, fNone)).1, bad i)).masked om, fl := res.foldl (fun f x => f ||| x.2) fNone, pz := pz }
  else if 0x40 ≤ q.op ∧ q.op ≤ 0x42 then
    match consumeLanes q.pois opA.1 om with
    | .error i => .error (6, i)
    | .ok (l, pz) =>
      let v := reduceLanes (q.op - 0x40) q.lane (nbit q.aux 1) l om
      let bad := (l.firstBad om).isSome
      if nbit q.aux 0 then
        let w := if q.lane = 3 then v.1 else BitVec.ofNat 36 (fillSubs (laneBits q.lane) v.1.toNat)
        .ok { base with r := Lanes.of fun _ => (w, bad), mask := allLanes, fl := v.2, pz := pz }
      else .ok { base with r := Lanes.of (fun i => if i = 0 then (v.1, bad) else (0#36, false)), mask := 1#32, fl := v.2, pz := pz }
  else if q.op = 0x43 then
    let len := q.aux / 16
    let st := k.col.cellStore cell
    let fn := q.aux % 4
    let start := st.k == 0 && len != 0
    let v := k.col.vr.at (cell * 16 + q.selB) {}
    match consumeAll q.pois (if start then [opA.1] else [opA.1, v]) om with
    | .error i => .error (6, i)
    | .ok (ls, pz) =>
      let a := ls.getD 0 {}
      let rd := if start then {} else ls.getD 1 {}
      let old := fun (i : Nat) => if start then redIdentity fn q.lane false else rd.lane i
      let res := (List.range 32).map fun i => if om.getLsbD i then accLane fn q.lane (old i) (a.lane i) else (old i, fNone)
      let new := Lanes.of fun i => ((res.getD i (0#36, fNone)).1, if om.getLsbD i then rd.bad i || a.bad i else !start && rd.bad i)
      let wraps := len != 0 && st.k + 1 == len
      let col := { k.col with store := k.col.store.put cell { st with k := if wraps then 0 else (st.k + 1) % 2 ^ 12 } }
      .ok { base with r := new, mask := allLanes, tag := 0, xs := some (if wraps && q.rx == 1 then [{ d := new, mask := allLanes, tag := 0 }] else []),
                      ys := some [], cout := 0, reg := some (q.selB, new, allLanes), fl := res.foldl (fun f x => f ||| x.2) fNone, pz := pz, col := col }
  else if 0x50 ≤ q.op ∧ q.op ≤ 0x52 then
    let bUsed := if q.op = 0x50 then opB.2 else opB.2 &&& 1#32
    match consumeLanes q.pois opB.1 bUsed with
    | .error i => .error (6, i)
    | .ok (b, pb) =>
      let act := fun (i : Nat) => opA.2.getLsbD (shufFrom q.op b i) && opB.2.getLsbD i
      let m := BitVec.ofNat 32 ((List.range 32).foldl (fun x i => x + bnat (act i) * 2 ^ i) 0)
      let aUsed := (List.range 32).foldl (fun (x : BitVec 32) i => if act i then x ||| (1#32 <<< shufFrom q.op b i) else x) 0#32
      match consumeLanes q.pois opA.1 aUsed with
      | .error i => .error (6, i)
      | .ok (a, pa) =>
        let bBad := fun (i : Nat) => b.bad (if q.op = 0x50 then i else 0)
        .ok { base with r := (Lanes.of fun i => (a.lane (shufFrom q.op b i), a.bad (shufFrom q.op b i) || bBad i)).masked m, mask := m, pz := pa || pb }
  else if q.op = 0x53 then
    match consumeAll q.pois [opA.1, opB.1] om with
    | .error i => .error (6, i)
    | .ok (ls, pz) =>
      let a := ls.getD 0 {}
      let b := ls.getD 1 {}
      let res := (List.range 32).map fun i => if om.getLsbD i then packLane q.lane q.aux (a.lane i) (b.lane i) else (0#36, fNone)
      .ok { base with r := (Lanes.of fun i => ((res.getD i (0#36, fNone)).1, a.bad i || b.bad i)).masked om,
                      fl := res.foldl (fun f x => f ||| x.2) fNone, pz := pz }
  else if q.op = 0x54 then
    match consumeLanes q.pois opA.1 om with
    | .error i => .error (6, i)
    | .ok (a, pz) =>
      let half := fun (h : Nat) => (Lanes.of fun i => (unpackLane q.lane q.aux h (a.lane i), a.bad i)).masked om
      let f : Fired := { base with r := half 0, pz := pz }
      .ok { f with xs := some [f.tok (half 0), f.tok (half 1)] }
  else if q.op = 0x62 then
    match consumeLanes q.pois opB.1 (opB.2 &&& 1#32) with
    | .error i => .error (6, i)
    | .ok (b, pz) =>
      let f : Fired := { base with r := opA.1.masked om, pz := pz, cout := 0 }
      let t := f.tok f.r
      if (if opB.2.getLsbD 0 then b.lane 0 else 0#36) != 0#36 then .ok { f with xs := some [t], ys := some [] }
      else .ok { f with xs := some [], ys := some [if q.ysel = 2 then k.first.getD t else t] }
  else if q.op = 0x64 then
    match consumeLanes q.pois opB.1 om with
    | .error i => .error (6, i)
    | .ok (b, pz) =>
      let m := BitVec.ofNat 32 ((List.range 32).foldl (fun x i => x + bnat (om.getLsbD i && b.lane i != 0#36) * 2 ^ i) 0)
      let f : Fired := { base with r := opA.1.masked m, mask := m, pz := pz, cout := 0 }
      if m = 0#32 then .ok { f with xs := some [], ys := some [] } else .ok f
  else if q.op = 0x65 then
    match k.col.tagDraw q.region with
    | some (tag, col) => .ok { base with r := opA.1.masked om, tag := tag, col := col }
    | none => move
  else if q.op = 0x66 then .ok { base with r := opA.1.masked om, tag := 0 }
  else if q.op = 0x67 then
    let w := k.col.countStep cell n q
    .ok { base with r := opA.1.masked om, cout := if w.1 then q.cout else 0, col := w.2,
                    xs := if q.ra = 0 then some [] else none }
  else if q.op = 0x69 then .ok { base with xs := some [], ys := some [], cout := 0 }
  else if q.op = 0x63 then .ok { base with r := (k.first.map (·.d)).getD {} }
  else move

/-- The tokens that a firing gives on x and y (R265). DESIGN CHOICE (notes/assumptions/115.md): where YSEL is 10, the y tokens of TAGGET and TAGPUT too are port
a's token unchanged, with its own tag. -/
def Fired.tokens (f : Fired) (q : SlotCfg) (k : Taken) : List Token × List Token :=
  (f.xs.getD (List.replicate q.rx (f.tok f.r)),
   f.ys.getD (List.replicate q.ry
     (if q.ysel = 2 then (match k.first with | some t => t | none => f.tok f.r) else if q.ysel = 1 then f.tok f.sec else f.tok f.r)))

/-- The tags of the copies that an X-box makes of tokens given on a port, `less` of each left out (R271). -/
def Collar.copyTags (c : Collar) (cell port less : Nat) (l : List Token) : List Nat :=
  l.flatMap fun t => List.replicate (max 1 (c.fanout cell port) - less) t.tag

/-- The tag counts of a region slot (R271): the copies of the tokens that it gives, but the token of another region that TAGGET hands on by y, and the tokens that
it takes, but the one that TAGGET takes. -/
def Collar.countTags (c : Collar) (cell : Nat) (q : SlotCfg) (k : Taken) (xs ys : List Token) : Except CellFault Collar :=
  if 8 ≤ q.region then .ok c
  else
    let give := if q.tagged then c.copyTags cell 0 0 xs ++ (if q.op = 0x65 ∧ q.ysel = 2 then [] else c.copyTags cell 1 0 ys) else []
    c.tagFlow q.region give (if q.op = 0x65 then [] else k.all.map (·.tag))

/-- A register with some lanes written. -/
def mergeLanes (old new : Lanes) (m : BitVec 32) : Lanes :=
  Lanes.of fun i => if m.getLsbD i then (new.lane i, new.bad i) else (old.lane i, old.bad i)

/-- Has the cell room for the full declared rates (R34, R267). -/
def Collar.roomFor (c : Collar) (cell : Nat) (q : SlotCfg) : Bool :=
  c.roomPort cell 0 q.rx && c.roomPort cell 1 q.ry && c.roomXc (cellXbox cell) 4 q.cout

/-- May the slot fire, its phase apart (R34, R267, R270, R275, R288). -/
def Collar.slotReady (c : Collar) (cell n : Nat) (q : SlotCfg) : Bool :=
  (c.takeFor cell q).isSome && c.roomFor cell q && !c.cntWaits cell n q
    && (q.op != 0x65 || (!c.draining && (c.tagDraw q.region).isSome))

/-- The phase of a collar cycle (R34): outside a rally the counter stands (R445). -/
def Collar.phase (c : Collar) (cyc : Nat) : Nat :=
  match c.rally with | some r => if r.recStep = 0 then (cyc - r.t0) % c.active.ii else c.phaseEnd | none => c.phaseEnd

/-- The collar with its rally over: the phase counter stands (R445). -/
def Collar.noRally (c : Collar) (cyc : Nat) : Collar := { c with rally := none, phaseEnd := c.phase cyc }

/-- A firing of a slot: all of its effects, or its fault. -/
def fireCell (cell n cyc : Nat) (q : SlotCfg) (k : Taken) : Except CellFault Collar :=
  if q.op != 0x69 && k.ctl.any id then .error (17, 0)
  else
    match computeCell cell n q k with
    | .error e => .error e
    | .ok f =>
      let g := f.tokens q k
      match f.col.countTags cell q k g.1 g.2 with
      | .error e => .error e
      | .ok c =>
        let reg := match f.reg with | some r => some r | none => if q.dst < 16 then some (q.dst, f.r, f.mask) else none
        let c := match reg with
          | some (v, l, m) => { c with vr := c.vr.upd (cell * 16 + v) {} fun old => mergeLanes old l m }
          | none => c
        let c := if g.1.isEmpty then c else c.givePort cell 0 g.1
        let c := if g.2.isEmpty then c else c.givePort cell 1 g.2
        let c := if f.cout = 0 then c else c.giveCtl cell f.cout
        let c := if f.pz then c.cstatBit 16 else c
        .ok (((c.cstatFlags f.fl).touch cyc) |> fun c => { c with lastFire := c.lastFire.put cell (cyc + 1) })

/-- The slot of an operation that fires in the phase of its number. -/
def State.fireSlot (s : State) (t cell n cyc : Nat) (q : SlotCfg) : State :=
  let c0 := (s.tile t).col
  let c := (c0.absorb cell q)
  let c := if c.cellStore cell != c0.cellStore cell then c.touch cyc else c
  let s := s.modCol t fun _ => c
  match c.secondTag cell q with
  | some tag => s.cellFault t cell n 9 tag
  | none =>
    if c.phase cyc != n || c.lastFire.at cell 0 == cyc + 1 || !c.slotReady cell n q then s
    else
      match c.takeFor cell q with
      | none => s
      | some k =>
        match fireCell cell n cyc q k with
        | .error e => s.cellFault t cell n e.1 e.2
        | .ok c => (s.modCol t fun _ => c).pm t 0x0006 1

/-! ## FIFO and REORD (R298, R299) -/

/-- What a FIFO or REORD cell takes at once, its other declared tokens with the token of a (R265). -/
def Collar.takeStore (c : Collar) (cell : Nat) (q : SlotCfg) : Option Taken := c.takePorts cell 1 q.rb q.rc q.cin

/-- The token that a FIFO or REORD cell stores: that of a, under the mask of all tokens taken (R265). -/
def Taken.stored (k : Taken) : Token :=
  match k.all with
  | [] => {}
  | t :: rest => if rest.isEmpty then t else { t with d := t.d.masked k.mask, mask := k.mask }

/-- A FIFO or REORD cell gives a token on x, as many on y and as many control tokens as it declares (R265, R267; DESIGN CHOICE: notes/assumptions/112.md). -/
def Collar.giveStore (c : Collar) (cell : Nat) (q : SlotCfg) (k : Token) : Collar :=
  let c := c.givePort cell 0 [k]
  let c := if q.ry = 0 then c else c.givePort cell 1 (List.replicate q.ry k)
  if q.cout = 0 then c else c.giveCtl cell q.cout

/-- A FIFO cell gives its oldest token when there is room: no COUNT changes but for the copies that the X-box makes (R271, R299). -/
def Collar.fifoGive (c : Collar) (cell : Nat) (q : SlotCfg) : Except CellFault Collar :=
  let st := c.cellStore cell
  match st.held with
  | [] => .ok c
  | k :: rest =>
    if !c.roomFor cell q then .ok c
    else
      let c1 := ({ c with store := c.store.put cell { st with held := rest } } : Collar).giveStore cell q k
      if 8 ≤ q.region then .ok c1 else c1.tagFlow q.region (c.copyTags cell 0 1 [k] ++ c.copyTags cell 1 1 (List.replicate q.ry k)) []

/-- Has a FIFO cell room for one more token: it and its input hold fewer than 32 (R299). -/
def CellStore.fifoRoom (st : CellStore) : Bool := decide (st.held.length < 28)

/-- A FIFO cell takes a token: no COUNT changes, but a token of its region is live (R271, R299). -/
def Collar.fifoTake (c : Collar) (cell : Nat) (q : SlotCfg) : Except CellFault Collar :=
  match c.takeStore cell q with
  | none => .ok c
  | some k =>
    if !(c.cellStore cell).fifoRoom then .ok c
    else if k.ctl.any id then .error (17, 0)
    else match k.all.find? fun x => decide (q.region < 8) && !(c.racks.at q.region {}).live x.tag with
      | some x => .error (9, x.tag)
      | none => .ok { k.col with store := k.col.store.upd cell {} fun st => { st with held := st.held ++ [k.stored] } }

/-- Output token m of a full reorder buffer (R298). -/
def reordTok (imm m : Nat) (rows : List Token) : Token :=
  let at_ := fun (i : Nat) => let p := reordAt imm (32 * m + i); (rows.getD (p / 32) {}, p % 32)
  { d := Lanes.of fun i => let r := at_ i; (r.1.d.lane r.2, r.1.d.bad r.2),
    mask := BitVec.ofNat 32 ((List.range 32).foldl (fun x i => let r := at_ i; x + bnat (r.1.mask.getLsbD r.2) * 2 ^ i) 0), tag := 0 }

/-- A REORD cell takes a token into the buffer, or gives one from it (R298). -/
def Collar.reordStep (c : Collar) (cell : Nat) (q : SlotCfg) : Except CellFault Collar :=
  let st := c.cellStore cell
  if st.drain then
    if c.roomFor cell q then
      let k := reordTok q.imm st.k st.held
      let st := if 15 ≤ st.k then { st with held := [], k := 0, drain := false } else { st with k := st.k + 1 }
      .ok (({ c with store := c.store.put cell st } : Collar).giveStore cell q k)
    else .ok c
  else
    match c.takeStore cell q with
    | none => .ok c
    | some k =>
      if k.ctl.any id then .error (17, 0)
      else
        let held := st.held ++ [k.stored]
        let st := if 16 ≤ held.length then { st with held := held, k := 0, drain := true } else { st with held := held }
        .ok { k.col with store := k.col.store.put cell st }

/-- Can a FIFO or REORD cell move a token. -/
def Collar.storeReady (c : Collar) (cell : Nat) (q : SlotCfg) : Bool :=
  let st := c.cellStore cell
  let takes := (c.takeStore cell q).isSome
  if q.op = 0x61 then (!st.held.isEmpty && c.roomFor cell q) || (takes && st.fifoRoom)
  else if st.drain then c.roomFor cell q else takes

/-- The collar cycle of a FIFO or REORD cell: a FIFO gives, then takes. What it has done before a fault stands. -/
def State.storeStep (s : State) (t cell n cyc : Nat) (q : SlotCfg) : State :=
  let c := (s.tile t).col
  if c.lastFire.at cell 0 == cyc + 1 || !c.storeReady cell q then s
  else
    let put := fun (s : State) (c : Collar) =>
      (s.modCol t fun _ => let c := c.touch cyc; { c with lastFire := c.lastFire.put cell (cyc + 1) }).pm t 0x0006 1
    let r := if q.op = 0x61 then c.fifoGive cell q else c.reordStep cell q
    match r with
    | .error e => s.cellFault t cell n e.1 e.2
    | .ok c1 =>
      if q.op = 0x61 then
        match c1.fifoTake cell q with
        | .error e => (put s c1).cellFault t cell n e.1 e.2
        | .ok c2 => put s c2
      else put s c1

/-- Can slot n of a cell do anything in some cycle: fire, or take in tokens. -/
def Collar.slotCan (c : Collar) (cell n : Nat) : Bool :=
  let q := c.active.slot cell n
  if !q.v then false
  else if q.op = 0x61 ∨ q.op = 0x55 then c.storeReady cell q
  else c.slotReady cell n q || (q.ordered && (!(c.cin.at (cKey cell 0) []).isEmpty || (q.op == 0x63 && !(c.cin.at (cKey cell 1) []).isEmpty)))

/-! ## The events -/

/-- The effect of the event of an operation in slot n of a cell of tile t. -/
def State.cellEvent (s : State) (t cell n op : Nat) : State :=
  let c := (s.tile t).col
  let cyc := s.colCyc t
  let q := c.active.slot cell n
  if !c.mayAct cyc cell || !q.v || q.op != op then s
  else if op = 0x61 ∨ op = 0x55 then s.storeStep t cell n cyc q
  else s.fireSlot t cell n cyc q

/-- The event of a cell operation: a fault where there is no such cell. -/
def cellOut (t cell n : Nat) (s : State) : Out := if t < numTiles ∧ cell < 96 ∧ n < 4 then .next s else .fault .noSuchUnit

/-- CELL_ADD (R292). -/
def execCellAdd (t cell n : Nat) (s : State) : Out := cellOut t cell n (s.cellEvent t cell n 0x01)

/-- CELL_SUB (R292). -/
def execCellSub (t cell n : Nat) (s : State) : Out := cellOut t cell n (s.cellEvent t cell n 0x02)

/-- CELL_MUL (R292). -/
def execCellMul (t cell n : Nat) (s : State) : Out := cellOut t cell n (s.cellEvent t cell n 0x03)

/-- CELL_MULH (R292). -/
def execCellMulh (t cell n : Nat) (s : State) : Out := cellOut t cell n (s.cellEvent t cell n 0x04)

/-- CELL_MAC (R292). -/
def execCellMac (t cell n : Nat) (s : State) : Out := cellOut t cell n (s.cellEvent t cell n 0x05)

/-- CELL_AND (R292). -/
def execCellAnd (t cell n : Nat) (s : State) : Out := cellOut t cell n (s.cellEvent t cell n 0x06)

/-- CELL_OR (R292). -/
def execCellOr (t cell n : Nat) (s : State) : Out := cellOut t cell n (s.cellEvent t cell n 0x07)

/-- CELL_XOR (R292). -/
def execCellXor (t cell n : Nat) (s : State) : Out := cellOut t cell n (s.cellEvent t cell n 0x08)

/-- CELL_SHL (R292). -/
def execCellShl (t cell n : Nat) (s : State) : Out := cellOut t cell n (s.cellEvent t cell n 0x09)

/-- CELL_SHR (R292). -/
def execCellShr (t cell n : Nat) (s : State) : Out := cellOut t cell n (s.cellEvent t cell n 0x0A)

/-- CELL_SRA (R292). -/
def execCellSra (t cell n : Nat) (s : State) : Out := cellOut t cell n (s.cellEvent t cell n 0x0B)

/-- CELL_MIN (R292). -/
def execCellMin (t cell n : Nat) (s : State) : Out := cellOut t cell n (s.cellEvent t cell n 0x0C)

/-- CELL_MAX (R292). -/
def execCellMax (t cell n : Nat) (s : State) : Out := cellOut t cell n (s.cellEvent t cell n 0x0D)

/-- CELL_ABS (R292). -/
def execCellAbs (t cell n : Nat) (s : State) : Out := cellOut t cell n (s.cellEvent t cell n 0x0E)

/-- CELL_SAT (R292). -/
def execCellSat (t cell n : Nat) (s : State) : Out := cellOut t cell n (s.cellEvent t cell n 0x0F)

/-- CELL_CLAMP (R292). -/
def execCellClamp (t cell n : Nat) (s : State) : Out := cellOut t cell n (s.cellEvent t cell n 0x10)

/-- CELL_CMP (R292). -/
def execCellCmp (t cell n : Nat) (s : State) : Out := cellOut t cell n (s.cellEvent t cell n 0x11)

/-- CELL_SEL (R292). -/
def execCellSel (t cell n : Nat) (s : State) : Out := cellOut t cell n (s.cellEvent t cell n 0x12)

/-- CELL_FADD (R293). -/
def execCellFadd (t cell n : Nat) (s : State) : Out := cellOut t cell n (s.cellEvent t cell n 0x20)

/-- CELL_FSUB (R293). -/
def execCellFsub (t cell n : Nat) (s : State) : Out := cellOut t cell n (s.cellEvent t cell n 0x21)

/-- CELL_FMUL (R293). -/
def execCellFmul (t cell n : Nat) (s : State) : Out := cellOut t cell n (s.cellEvent t cell n 0x22)

/-- CELL_FMA (R293). -/
def execCellFma (t cell n : Nat) (s : State) : Out := cellOut t cell n (s.cellEvent t cell n 0x23)

/-- CELL_FMIN (R293). -/
def execCellFmin (t cell n : Nat) (s : State) : Out := cellOut t cell n (s.cellEvent t cell n 0x24)

/-- CELL_FMAX (R293). -/
def execCellFmax (t cell n : Nat) (s : State) : Out := cellOut t cell n (s.cellEvent t cell n 0x25)

/-- CELL_FABS (R293). -/
def execCellFabs (t cell n : Nat) (s : State) : Out := cellOut t cell n (s.cellEvent t cell n 0x26)

/-- CELL_FNEG (R293). -/
def execCellFneg (t cell n : Nat) (s : State) : Out := cellOut t cell n (s.cellEvent t cell n 0x27)

/-- CELL_FCMP (R293). -/
def execCellFcmp (t cell n : Nat) (s : State) : Out := cellOut t cell n (s.cellEvent t cell n 0x28)

/-- RCP (R293). -/
def execRcp (t cell n : Nat) (s : State) : Out := cellOut t cell n (s.cellEvent t cell n 0x29)

/-- RSQRT (R293). -/
def execRsqrt (t cell n : Nat) (s : State) : Out := cellOut t cell n (s.cellEvent t cell n 0x2A)

/-- EXP2 (R293). -/
def execExp2 (t cell n : Nat) (s : State) : Out := cellOut t cell n (s.cellEvent t cell n 0x2B)

/-- LOG2 (R293). -/
def execLog2 (t cell n : Nat) (s : State) : Out := cellOut t cell n (s.cellEvent t cell n 0x2C)

/-- SCALE (R293). -/
def execScale (t cell n : Nat) (s : State) : Out := cellOut t cell n (s.cellEvent t cell n 0x2D)

/-- RSUM (R294). -/
def execRsum (t cell n : Nat) (s : State) : Out := cellOut t cell n (s.cellEvent t cell n 0x40)

/-- RMAX (R294). -/
def execRmax (t cell n : Nat) (s : State) : Out := cellOut t cell n (s.cellEvent t cell n 0x41)

/-- RMIN (R294). -/
def execRmin (t cell n : Nat) (s : State) : Out := cellOut t cell n (s.cellEvent t cell n 0x42)

/-- ACC (R295). -/
def execAcc (t cell n : Nat) (s : State) : Out := cellOut t cell n (s.cellEvent t cell n 0x43)

/-- SHUF (R296). -/
def execShuf (t cell n : Nat) (s : State) : Out := cellOut t cell n (s.cellEvent t cell n 0x50)

/-- ROT (R296). -/
def execRot (t cell n : Nat) (s : State) : Out := cellOut t cell n (s.cellEvent t cell n 0x51)

/-- BCAST (R296). -/
def execBcast (t cell n : Nat) (s : State) : Out := cellOut t cell n (s.cellEvent t cell n 0x52)

/-- PACK (R297). -/
def execPack (t cell n : Nat) (s : State) : Out := cellOut t cell n (s.cellEvent t cell n 0x53)

/-- UNPACK (R297). -/
def execUnpack (t cell n : Nat) (s : State) : Out := cellOut t cell n (s.cellEvent t cell n 0x54)

/-- REORD (R298). -/
def execReord (t cell n : Nat) (s : State) : Out := cellOut t cell n (s.cellEvent t cell n 0x55)

/-- PASS (R300). -/
def execPass (t cell n : Nat) (s : State) : Out := cellOut t cell n (s.cellEvent t cell n 0x60)

/-- FIFO (R299). -/
def execFifo (t cell n : Nat) (s : State) : Out := cellOut t cell n (s.cellEvent t cell n 0x61)

/-- STEER (R300). -/
def execSteer (t cell n : Nat) (s : State) : Out := cellOut t cell n (s.cellEvent t cell n 0x62)

/-- MERGE (R300). -/
def execMerge (t cell n : Nat) (s : State) : Out := cellOut t cell n (s.cellEvent t cell n 0x63)

/-- GATE (R300). -/
def execGate (t cell n : Nat) (s : State) : Out := cellOut t cell n (s.cellEvent t cell n 0x64)

/-- TAGGET (R270, R300). -/
def execTagget (t cell n : Nat) (s : State) : Out := cellOut t cell n (s.cellEvent t cell n 0x65)

/-- TAGPUT (R300). -/
def execTagput (t cell n : Nat) (s : State) : Out := cellOut t cell n (s.cellEvent t cell n 0x66)

/-- CELL_CNT (R275). -/
def execCellCnt (t cell n : Nat) (s : State) : Out := cellOut t cell n (s.cellEvent t cell n 0x67)

/-- JOIN (R300). -/
def execJoin (t cell n : Nat) (s : State) : Out := cellOut t cell n (s.cellEvent t cell n 0x68)

/-- SINK (R300). -/
def execSink (t cell n : Nat) (s : State) : Out := cellOut t cell n (s.cellEvent t cell n 0x69)

end Sys2Proof.Machine
end

