-- ==== Sys2Proof/Machine/TokenForms.lean ====
section
/-! DEFINITION. How a memory cell turns bytes into tokens and tokens into bytes (spec/07_mem_formats.md R180 to R188, R198 to R200, R204, R205;
spec/12_q_cells.md R335, R340, R341). -/

namespace Sys2Proof.Machine

/-! ## Sizes (R180, R182, R185) -/

/-- Bits of one element in memory. -/
def MCfg.bits (q : MCfg) : Nat := if q.fmt = 0x00 then laneBits q.lane else fmtBits q.fmt
/-- Is the format carried as an L18 split pair (R191). -/
def MCfg.pair (q : MCfg) : Bool := q.tgt == 1 && (q.fmt == 0x0A || q.fmt == 0x0D)
/-- Elements per lane (R182). -/
def MCfg.perLane (q : MCfg) : Nat := if q.tgt = 2 ∨ q.pair then 1 else if q.tgt = 1 then 2 else 32 / laneBits q.lane
/-- Elements per token. -/
def MCfg.perTok (q : MCfg) : Nat := 32 * q.perLane
/-- Bytes of n elements. -/
def MCfg.bytes (q : MCfg) (n : Nat) : Nat := (n * q.bits + 7) / 8
/-- The alignment of an address: one element, or one byte for 4-bit codes (R335). -/
def MCfg.align (q : MCfg) : Nat := max 1 (q.bits / 8)
/-- Bytes of one metadata record (R335). -/
def MCfg.recBytes (q : MCfg) : Nat := if fmtIsMX q.fmt then 1 else 4
/-- Elements per group. -/
def MCfg.groupSize (q : MCfg) : Nat := if fmtIsMX q.fmt then 32 else 32 * 2 ^ q.grp
/-- Does a load give scale tokens (R188, R199). -/
def MCfg.scales (q : MCfg) : Bool := q.mv && q.tgt == 1

/-! ## Decoding -/

/-- One lane from the codes of its elements and the record of its group. -/
def MCfg.decodeLane (q : MCfg) (codes : List Nat) (rec : Nat) : W36 × Flags :=
  if q.tgt = 0 then
    let w := laneBits q.lane
    (BitVec.ofNat 36 (joinSubs w (codes.map fun c => if 1 ≤ q.fmt ∧ q.fmt ≤ 4 then wrapInt w (sgn q.bits c) else c)), fNone)
  else if q.pair then
    let p := decodeElemPair q.fmt (codes.headD 0)
    (BitVec.ofNat 36 (p.2.1.toNat * 2 ^ 18 + p.1.toNat), p.2.2)
  else if q.tgt = 1 then
    let one := fun (c : Nat) => if fmtIsGrouped q.fmt then (decodeQL18 c rec, fNone) else decodeElemL18 q.fmt c
    let x := match codes with | c :: _ => one c | [] => (0#18, fNone)
    let y := match codes with | _ :: c :: _ => one c | _ => (0#18, fNone)
    (BitVec.ofNat 36 (y.1.toNat * 2 ^ 18 + x.1.toNat), x.2 ||| y.2)
  else if fmtIsGrouped q.fmt then decodeQW36 (codes.headD 0) rec
  else if fmtIsMX q.fmt then decodeMX q.fmt rec (codes.headD 0)
  else decodeElem q.fmt (codes.headD 0)

/-- The scale that a record gives. -/
def MCfg.scaleOf (q : MCfg) (rec : Nat) : W36 × Flags := if fmtIsMX q.fmt then (mxScale rec, fNone) else recScale rec

/-- The number that bytes at an address hold, and whether one of them is poisoned. -/
def bytesAt (got : AMap MByte) (a n : Nat) : Nat × Bool :=
  let bs := (List.range n).map fun i => got.at (a + i) {}
  (ofBytes (bs.map (·.val)), bs.any (·.poi))

/-- The code of element j of elements that start at an address. -/
def MCfg.codeAt (q : MCfg) (got : AMap MByte) (a j : Nat) : Nat × Bool :=
  if q.bits = 4 then
    let b := got.at (a + j / 2) {}
    (if j % 2 = 0 then b.val.toNat % 16 else b.val.toNat / 16, b.poi)
  else bytesAt got (a + j * (q.bits / 8)) (q.bits / 8)

/-- The record of element number e of a row. -/
def MCfg.recAt (q : MCfg) (mgot : AMap MByte) (maddr e : Nat) : Nat × Bool :=
  if q.mv then bytesAt mgot (maddr + e / q.groupSize * q.recBytes) q.recBytes else (0, false)

/-- The place and length of the records of elements e to e + n - 1 of a row. -/
def MCfg.recSpan (q : MCfg) (maddr e n : Nat) : Nat × Nat :=
  let g0 := e / q.groupSize
  let g1 := (e + n - 1) / q.groupSize
  (maddr + g0 * q.recBytes, (g1 + 1 - g0) * q.recBytes)

/-- A token from a lane function (its codes with their poison, or none for a lane that holds no element) and the number in the row of its first element:
the data token, the scale token, and the flags (R182, R187, R188, R199, R204). R188 gives the lanes of a scale token and no mask: that all of them are active is
the model's choice (notes/assumptions/103.md). -/
def MCfg.makeToken (q : MCfg) (tag : Nat) (codes : Nat → Option (List (Nat × Bool))) (mgot : AMap MByte) (maddr first : Nat) : Token × Token × Flags :=
  let one := fun (i : Nat) => match codes i with
    | none => ((0#36, false), (0#36, false), false, fNone)
    | some cs =>
      let rec_ := q.recAt mgot maddr (first + i * q.perLane)
      let v := q.decodeLane (cs.map Prod.fst) rec_.1
      let sc := if q.scales then q.scaleOf rec_.1 else (0#36, fNone)
      ((v.1, cs.any Prod.snd || rec_.2), (sc.1, rec_.2), true, v.2 ||| sc.2)
  let ls := (List.range 32).map one
  let at_ := fun (i : Nat) => ls.getD i ((0#36, false), (0#36, false), false, fNone)
  let mask := BitVec.ofNat 32 ((List.range 32).foldl (fun x i => x + bnat (at_ i).2.2.1 * 2 ^ i) 0)
  ({ d := Lanes.of fun i => (at_ i).1, mask := mask, tag := tag },
   { d := Lanes.of fun i => (at_ i).2.1, mask := allLanes, tag := tag },
   ls.foldl (fun f x => f ||| x.2.2.2) fNone)

/-! ## Encoding -/

/-- The codes of a lane's elements for a store (R180, last column; R184). -/
def MCfg.encodeLane (q : MCfg) (v : W36) : List Nat × Flags :=
  if q.tgt = 0 then
    let w := laneBits q.lane
    ((subs w v.toNat).map fun x =>
      if 1 ≤ q.fmt ∧ q.fmt ≤ 4 then
        let h : Int := (2 ^ (q.bits - 1) : Nat)
        wrapInt q.bits (clampInt (-h) (h - 1) (sgn w x))
      else x, fNone)
  else let r := encodeElem q.fmt v; ([r.1], r.2)

/-- Elements as bytes: code, poison, whether active. A byte that holds an active 4-bit element is written whole (R341). -/
def MCfg.layBytes (q : MCfg) : List (Nat × Bool × Bool) → List MByte
  | [] => []
  | (v, p, on) :: t =>
    if q.bits = 4 then
      match t with
      | [] => [{ val := BitVec.ofNat 8 (if on then v % 16 else 0), en := on, poi := on && p }]
      | (w, r, on2) :: t2 =>
        { val := BitVec.ofNat 8 ((if on then v % 16 else 0) + (if on2 then w % 16 * 16 else 0)), en := on || on2, poi := (on && p) || (on2 && r) }
          :: MCfg.layBytes q t2
    else ((toBytes (q.bits / 8) v).map fun b => ({ val := b, en := on, poi := p } : MByte)) ++ MCfg.layBytes q t

/-- The bytes of a whole token, and the flags (R341, R183). -/
def MCfg.tokenBytes (q : MCfg) (k : Token) : List MByte × Flags :=
  let ls := (List.range 32).map fun i => (q.encodeLane (k.d.lane i), k.d.bad i, k.mask.getLsbD i)
  (q.layBytes (ls.flatMap fun l => l.1.1.map fun c => (c, l.2.1, l.2.2)),
   ls.foldl (fun f l => if l.2.2 then f ||| l.1.2 else f) fNone)

/-- The bytes of one lane, for SCAT and RST. -/
def MCfg.laneBytes (q : MCfg) (v : W36) (poi : Bool) : List MByte × Flags :=
  let e := q.encodeLane v
  (q.layBytes (e.1.map fun c => (c, poi, true)), e.2)

end Sys2Proof.Machine
end

