-- ==== Sys2Proof/Machine/Net.lean ====
section
/-! DEFINITION. Sending requests into the fabric: the header, the sequence number and the copies kept until the answer
(spec/13_q_fabric.md R362, R364, R368, R374), and turning a packet's header back into the access it asks for. -/

namespace Sys2Proof.Machine

/-- KIND codes of R362. -/
def kRD : Nat := 0
/-- WR. -/
def kWR : Nat := 1
/-- ATM. -/
def kATM : Nat := 2
/-- RSP. -/
def kRSP : Nat := 3
/-- PUT. -/
def kPUT : Nat := 4
/-- LET. -/
def kLET : Nat := 5
/-- MSG. -/
def kMSG : Nat := 6

/-- A node's interface. -/
def State.netIf (s : State) (n : Node) : NetIf :=
  match n with
  | .tile t => (s.tile t).ni
  | .die d => (s.die d).ni

/-- A node's interface changed. -/
def State.modNet (s : State) (n : Node) (f : NetIf → NetIf) : State :=
  match n with
  | .tile t => s.modTile t fun x => { x with ni := f x.ni }
  | .die d => s.modDie d fun x => { x with ni := f x.ni }

/-- Payload flits of a number of bytes (R363). -/
def payFlits (n : Nat) : Nat := (n + 31) / 32

/-- The requests of a stream that have no answer yet, oldest first. -/
def NetIf.open_ (n : NetIf) (stream : Nat) : List Outst := n.outst.filter fun o => o.h.stream == stream

/-- Must an access of a stream to n bytes of a migratable range wait for an earlier one: that one is unanswered, and they overlap. A NOTRES may answer the
earlier one, and accesses to one address perform in issue order (R165, R209; notes/assumptions/109.md). -/
def NetIf.migWaits (n : NetIf) (stream asid a len : Nat) : Bool :=
  (n.open_ stream).any fun o => o.h.bd && o.h.mig && o.h.asid == asid
    && decide (o.h.addr < a + len) && decide (a < o.h.addr + o.h.nbm1 + 1)

/-- The same for a home; any other home waits for none. -/
def NetIf.homeWaits (n : NetIf) (stream len : Nat) (h : Home) : Bool :=
  match h with
  | .mig a v => n.migWaits stream a v len
  | _ => false

/-- Payload flits held in the retransmit buffer (R374): best-effort WR, PUT, ATM and MSG not yet answered. -/
def NetIf.retxUsed (n : NetIf) : Nat :=
  (n.outst.filter fun o => !o.h.ded && (o.h.kind == kWR || o.h.kind == kPUT || o.h.kind == kATM || o.h.kind == kMSG)).foldl
    (fun a o => a + o.h.len) 0

/-- May a stream send one more request with a payload of b bytes: fewer than 64 sequence numbers past its oldest unanswered one (R368), and
room for the payload in the retransmit buffer (R374). -/
def NetIf.canSend (n : NetIf) (stream b : Nat) : Bool :=
  let seq := n.seqs.at stream 0
  let oldest := ((n.open_ stream).head?.map (·.h.seq)).getD seq
  decide ((seq + 2 ^ 32 - oldest) % 2 ^ 32 < 64) && decide (n.retxUsed + payFlits b ≤ 2048)

/-- A request enters the interface (R368): it takes the stream's next sequence number, LOWOFF to the oldest unanswered request, and ORD with DEPOFF when
an earlier request to the same destination and unit is unanswered; its copy is kept for the answer. -/
def NetIf.request (n : NetIf) (h : Hdr) (pay : List MByte) (who : Who) (now : Nat) : NetIf :=
  let seq := n.seqs.at h.stream 0
  let mine := n.open_ h.stream
  let oldest := (mine.head?.map (·.h.seq)).getD seq
  let dep := (mine.filter fun o => o.h.dpkg == h.dpkg && o.h.dtile == h.dtile && o.h.bd == h.bd && o.h.unit == h.unit).getLast?
  let h := { h with
    seq := seq, lowoff := (seq + 2 ^ 32 - oldest) % 2 ^ 32, len := payFlits pay.length,
    ord := dep.isSome, depoff := (dep.map fun o => (seq + 2 ^ 32 - o.h.seq) % 2 ^ 32).getD 0 }
  { n with seqs := n.seqs.put h.stream ((seq + 1) % 2 ^ 32),
           txq := n.txq ++ [{ h := h, pay := pay }],
           outst := n.outst ++ [{ h := h, pay := pay, who := who, sent := now }] }

/-- The fields of a header that say who sends: package, tile, ASID, court and whether its traffic is dedicated (R362). -/
def State.srcHdr (s : State) (t stream : Nat) : Hdr :=
  let r := (s.tile t).reg
  let crt := courtCrt r.court
  { spkg := s.pkg.pkgid.toNat, stile := tileBits t, stream := stream, asid := r.asid.toNat, crt := crt,
    ded := bitOf ((s.court crt).w.at 6 0) 3 }

/-- The part of a header and the payload that say what the access does at its home; the payload of an atomic is operand then compare value. -/
def opHdr (h : Hdr) (op : MemOp) : Hdr × List MByte :=
  match op with
  | .read n => ({ h with kind := kRD, nbm1 := n - 1 }, [])
  | .watch => ({ h with kind := kRD, nbm1 := 7, aop := 12 }, [])
  | .write bs ctr => ({ h with kind := if ctr.isSome then kPUT else kWR, nbm1 := bs.length - 1, cen := ctr.isSome, coff := ctr.getD 0 }, bs)
  | .atomic w o x xp c =>
    ({ h with kind := kATM, nbm1 := w - 1, aop := o },
      ((toBytes 8 x.toNat).map fun v => { val := v, poi := xp }) ++ (toBytes 8 c.toNat).map fun v => { val := v })
  | .post n => ({ h with kind := kATM, nbm1 := 7, aop := 11 }, (toBytes 8 n).map fun v => { val := v })
  -- the COPY's own subtraction stays on its tile (R252)
  | .arrive _ => ({ h with kind := kATM, nbm1 := 7 }, [])

/-- The number in eight payload bytes. -/
def payWord (bs : List MByte) : Nat := ofBytes (bs.map (·.val))

/-- The access that a packet asks for. -/
def Packet.op (p : Packet) : MemOp :=
  if p.h.kind = kRD then (if p.h.aop = 12 then .watch else .read (p.h.nbm1 + 1))
  else if p.h.kind = kATM then
    if p.h.aop = 11 then .post (payWord (p.pay.take 8))
    else .atomic (p.h.nbm1 + 1) p.h.aop (BitVec.ofNat 64 (payWord (p.pay.take 8))) ((p.pay.take 8).any (·.poi))
      (BitVec.ofNat 64 (payWord ((p.pay.drop 8).take 8)))
  else .write (p.pay.take (p.h.nbm1 + 1)) (if p.h.cen then some p.h.coff else none)

/-- Send a scratchpad access from tile t, on a stream, to the scratchpad of a tile of a package. -/
def State.sendScratch (s : State) (t stream pkg dst off : Nat) (op : MemOp) (who : Who) : State :=
  let h := { s.srcHdr t stream with dpkg := pkg, dtile := tileBits dst, unit := 0, addr := off }
  let hp := opHdr h op
  s.modNet (.tile t) fun n => n.request hp.1 hp.2 who s.time

/-- The header field TGT and the address of a base die home; MIG for a migratable one (R174, R362). -/
def dieHome (h : Home) : Option (Bool × Nat × Nat × Nat) :=
  match h with
  | .hbm p => some (false, 0, 0, p)
  | .second p => some (false, 1, 0, p)
  | .host p => some (false, 2, 0, p)
  | .mig a v => some (true, 0, a, v)
  | _ => none

/-- The second-tier port whose window holds an address (R160): 2 * stack + port. -/
def State.cxlPort (s : State) (p : Nat) : Option Nat :=
  (List.range 8).find? fun i =>
    let d := s.die (i / 2)
    let base := (if i % 2 = 0 then d.cxlbase0 else d.cxlbase1).toNat * 2 ^ 28
    let win := (if i % 2 = 0 then d.cxlwin0 else d.cxlwin1).toNat * 2 ^ 28
    decide (base ≤ p) && decide (p < base + win)

/-- The base die that serves a home (R160, R164). -/
def State.homeDie (s : State) (h : Home) : Nat :=
  match h with
  | .hbm p => nfld p 10 8 / 2
  | .second p => match s.cxlPort p with | some i => i / 2 | none => 0
  | .mig _ v => v / 2 ^ 21 % 4
  | _ => 0

/-- Send a base die access from tile t on a stream with port tag `tag` (R174). -/
def State.sendDie (s : State) (t stream tag : Nat) (home : Home) (op : MemOp) (who : Who) : State :=
  match dieHome home with
  | none => s
  | some (mig, tgt, asid, addr) =>
    let h := { s.srcHdr t stream with
      dpkg := s.pkg.pkgid.toNat, dtile := s.homeDie home * 2 ^ 8, bd := true, unit := if tgt = 2 && !mig then 4 else 3,
      mig := mig, tgt := tgt, addr := addr, rtag := tag }
    let h := if mig then { h with asid := asid } else h
    let hp := opHdr h op
    s.modNet (.tile t) fun n => n.request hp.1 hp.2 who s.time

/-- Does the word of memory that a task names lie with its local scratchpad or in its window: room for one more access (R168, R368). DESIGN CHOICE
(notes/assumptions/121.md): local stores that wait for their bank stand among the four local requests that hold back a load, but a store waits for its own limit
alone. -/
def State.accRoom (s : State) (pl : Place) (isStore : Bool) (bytes : Nat) : Bool :=
  match pl with
  | .spill _ => true
  | .loc _ => if isStore then s.cur.storeRoom else s.curTile.localRoom
  | .window _ _ => s.cur.windowRoom && s.curTile.ni.canSend s.focusS bytes

/-- Issue a local or court-window access of the focused task (R168, R169): its record, and its request at the bank queue or in the fabric. -/
def State.issueAcc (s : State) (pl : Place) (kind : AccKind) (op : MemOp) (dst : Nat) (ea : Word) (acq : Bool) : State :=
  let k := s.nextId
  let who : Who := .task s.focusT s.focusS k
  let acc : TaskAcc := { k := k, kind := kind, window := match pl with | .window _ _ => true | _ => false, dst := dst, ea := ea, acq := acq }
  let s := { s with nextId := k + 1 }.modCur fun sl => { sl with accs := sl.accs ++ [acc] }
  match pl with
  | .spill _ => s
  | .loc off => s.modTile s.focusT fun x => { x with tccReq := x.tccReq ++ [{ who := who, off := off, op := op }] }
  | .window tile off => s.sendScratch s.focusT s.focusS s.pkg.pkgid.toNat tile off op who

end Sys2Proof.Machine
end

