-- ==== Sys2Proof/Machine/Translate.lean ====
section
/-! DEFINITION. Translation: range entries, the court's shares of layer memory, and the home of an access of a memory cell, the copy engine or the
host (spec/06_mem_spaces.md R155, R159 to R164; spec/12_q_cells.md R337; spec/16_t_system.md R430, R437). -/

namespace Sys2Proof.Machine

/-- What an access wants to do (R163). -/
inductive AKind where
  | read | write | atomic
deriving DecidableEq, Repr

/-! ## Range entries (R437): words 0 to 3 in one value -/

/-- V. -/
def rgV (e : BitVec 256) : Bool := nbit e.toNat 63
/-- MIG. -/
def rgMig (e : BitVec 256) : Bool := nbit e.toNat 62
/-- Is the kind of access permitted. -/
def rgPerm (e : BitVec 256) (k : AKind) : Bool :=
  match k with
  | .read => nbit e.toNat 61
  | .write => nbit e.toNat 60
  | .atomic => nbit e.toNat 59
/-- BASE. -/
def rgBase (e : BitVec 256) : Nat := nfld e.toNat 55 0
/-- TGT. -/
def rgTgt (e : BitVec 256) : Nat := nfld e.toNat 127 125
/-- LEN. -/
def rgLen (e : BitVec 256) : Nat := nfld e.toNat 120 64
/-- TOFF. -/
def rgToff (e : BitVec 256) : Nat := nfld e.toNat 183 128
/-- TPKG. -/
def rgTpkg (e : BitVec 256) : Nat := nfld e.toNat 255 244
/-- TSTK. -/
def rgTstk (e : BitVec 256) : Nat := nfld e.toNat 243 242
/-- The tile that TSTK, TLYR, TROW and TCOL name. -/
def rgTile (e : BitVec 256) : Nat := tileNo (rgTstk e) (nfld e.toNat 241 240) (nfld e.toNat 239 237) (nfld e.toNat 236 234)
/-- WB. -/
def rgWb (e : BitVec 256) : Bool := nbit e.toNat 232
/-- WBADDR. -/
def rgWbaddr (e : BitVec 256) : Nat := nfld e.toNat 230 192

/-- Entry i of an ASID's range table. -/
def State.range (s : State) (asid i : Nat) : BitVec 256 := s.ranges.at (asid * 64 + i) 0

/-- Does the entry hold address v. -/
def rgHolds (e : BitVec 256) (v : Nat) : Bool := rgV e && decide (rgBase e ≤ v) && decide (v < rgBase e + rgLen e)

/-- The entry of an ASID that holds an address (R163). -/
def State.rangeOf (s : State) (asid v : Nat) : Option (BitVec 256) :=
  ((List.range 64).map (s.range asid)).find? fun e => rgHolds e v

/-! ## Layer memory (R159) -/

/-- Layer memory of one layer: 192 MiB. -/
def layerBytes : Nat := 192 * 2 ^ 20

/-- The memory-role layers of a stack, upwards. -/
def State.memLayers (s : State) (stk : Nat) : List Nat :=
  (List.range 4).filter fun y => nfld s.roles.roles.toNat (8 * stk + 2 * y + 1) (8 * stk + 2 * y) == 2

/-- Where a stack offset lies: tile and scratchpad offset. -/
def State.layerAt (s : State) (stk u : Nat) : Option (Nat × Nat) :=
  match (s.memLayers stk)[u / layerBytes]? with
  | none => none
  | some y =>
    let v := u % layerBytes
    let b := v / 2 ^ 12
    some (tileNo stk y (b % 48 / 8) (b % 8), b / 48 * 2 ^ 12 + v % 2 ^ 12)

/-- LMBASE of a court on a stack, in bytes. -/
def Court.lmBase (c : Court) (stk : Nat) : Nat := fld (c.w.at 2 0) (16 * stk + 7) (16 * stk) * 2 ^ 22
/-- LMLEN of a court on a stack, in bytes. -/
def Court.lmLen (c : Court) (stk : Nat) : Nat := fld (c.w.at 2 0) (16 * stk + 15) (16 * stk + 8) * 2 ^ 22

/-- The home of a stack offset; an offset that no layer holds is refused as RANGE. -/
def State.layerHome (s : State) (stk u : Nat) : Except (BitVec 8) Home :=
  match s.layerAt stk u with
  | some (t, o) => .ok (.far s.pkg.pkgid.toNat t o)
  | none => .error cRange

/-- A share offset of a court (R159). -/
def State.shareHome (s : State) (c : Court) (stk o n : Nat) : Except (BitVec 8) Home :=
  if c.lmLen stk < o + n then .error cRange else s.layerHome stk (c.lmBase stk + o)

/-! ## Range translation (R163) -/

/-- Translate through an entry, for the court c that makes the access; the host is checked against no share (R159). -/
def State.translateBy (s : State) (e : BitVec 256) (c : Option Court) (asid v n : Nat) (k : AKind) : Except (BitVec 8) Home :=
  if !rgV e || decide (2 ^ 56 ≤ v) || decide (v < rgBase e) || decide (rgBase e + rgLen e < v + n) then .error cRange
  else if !rgPerm e k then .error cPerm
  else
    let p := rgToff e + (v - rgBase e)
    if rgMig e then .ok (.mig asid v)
    else if rgTgt e = 0 then .ok (.hbm p)
    else if rgTgt e = 1 then .ok (.second p)
    else if rgTgt e = 2 then .ok (.host p)
    else if rgTgt e = 3 then
      match c with
      | some c =>
        if p < c.lmBase (rgTstk e) ∨ c.lmBase (rgTstk e) + c.lmLen (rgTstk e) < p + n then .error cRange
        else s.layerHome (rgTstk e) p
      | none => s.layerHome (rgTstk e) p
    else .ok (.far (rgTpkg e) (rgTile e) p)

/-- Translate through the entry that holds the address (R163: the copy engine, the host). -/
def State.translate (s : State) (c : Option Court) (asid v n : Nat) (k : AKind) : Except (BitVec 8) Home :=
  match s.rangeOf asid v with
  | some e => s.translateBy e c asid v n k
  | none => .error cRange

/-- The court table entry of a tile's court. -/
def State.courtOf (s : State) (t : Nat) : Court := s.court (courtCrt (s.tile t).reg.court)

/-- Is the energy quota of the court that holds the tile exhausted (R456, R459). -/
def State.overQuota (s : State) (t : Nat) : Bool :=
  let c := s.courtOf t
  c.ex && c.v && (c.st == 1 || c.st == 2) && c.tiles.contains t

/-! ## Pieces of an access -/

/-- The byte place of a home within its memory, for splitting at lines and granules. -/
def Home.pos : Home → Nat
  | .scratch _ o => o
  | .hbm p => p
  | .second p => p
  | .host p => p
  | .mig _ v => v
  | .ctx _ o => o
  | .istore _ o => o
  | .far _ _ o => o

/-- Split n bytes from address a on into pieces that stay within 64 bytes both at the address and at the home: place in the access, length, and home. -/
def splitHomes (homeAt : Nat → Except (BitVec 8) Home) : Nat → Nat → Nat → Nat → List (Nat × Nat × Home)
  | 0, _, _, _ => []
  | fuel + 1, a, off, n =>
    if n = 0 then []
    else
      match homeAt a with
      | .error _ => []
      | .ok h =>
        let m := min n (min (64 - a % 64) (64 - h.pos % 64))
        (off, m, h) :: splitHomes homeAt fuel (a + m) (off + m) (n - m)

/-- The aligned packet of 32, 64, 128 or 256 bytes that covers n bytes at p, which cross no 256-byte boundary (R174). -/
def dieBlock (p n : Nat) : Nat × Nat :=
  let l := if p / 32 = (p + n - 1) / 32 then 32 else if p / 64 = (p + n - 1) / 64 then 64
    else if p / 128 = (p + n - 1) / 128 then 128 else 256
  (p / l * l, l)

/-- Bytes in the middle of a block whose other bytes are not written. -/
def maskedBlock (before : Nat) (bs : List MByte) (len : Nat) : List MByte :=
  let hole : MByte := { val := 0, en := false }
  takePad hole len (List.replicate before hole ++ bs)

/-- The home moved to another byte place. -/
def Home.move (h : Home) (p : Nat) : Home :=
  match h with
  | .scratch t _ => .scratch t p
  | .hbm _ => .hbm p
  | .second _ => .second p
  | .host _ => .host p
  | .mig a _ => .mig a p
  | .ctx t _ => .ctx t p
  | .istore t _ => .istore t p
  | .far k t _ => .far k t p

/-- Is the home reached through a base die. -/
def Home.isDie (h : Home) : Bool := (dieHome h).isSome

end Sys2Proof.Machine
end

