-- ==== Sys2Proof/Machine/ACells.lean ====
section
/-! DEFINITION. Address cells (spec/12_q_cells.md R330 to R334, R337; spec/17_counters.md R445): the addresses they give and their counters. -/

namespace Sys2Proof.Machine

/-- A memory cell of a collar. -/
def Collar.mcell (c : Collar) (m : Nat) : MCell := c.mc.at m {}
/-- A memory cell changed. -/
def Collar.modMc (c : Collar) (m : Nat) (f : MCell → MCell) : Collar := { c with mc := c.mc.upd m {} f }
/-- A memory cell of a tile changed. -/
def State.modMc (s : State) (t m : Nat) (f : MCell → MCell) : State := s.modCol t fun c => c.modMc m f

/-- A fault of a memory cell or of its address cell (R357): the record names the memory cell. -/
def State.mcellFault (s : State) (t m cause : Nat) (tval : Word) (pos : Nat) : State :=
  s.unitFault t (nodeM m) 2 (frameAddr (frM m 0)) cause tval pos 0

/-- Count and limit of dimension d of an address cell (R445). -/
def Collar.dim (c : Collar) (a d : Nat) : Nat × Nat := c.acnt.at (a * 4 + d) (0, 1)

/-- One step of the dimensions from d on: whether every one of them wraps, and the collar with pending bound tokens applied at the wraps. -/
def Collar.stepFrom (c : Collar) (a : Nat) : Nat → Nat → Bool × Collar
  | 0, _ => (true, c)
  | n + 1, d =>
    let p := c.dim a d
    if p.2 ≤ p.1 + 1 then
      let l := c.boundLimit 1 a d p.2
      Collar.stepFrom { l.2 with acnt := l.2.acnt.put (a * 4 + d) (0, l.1) } a n (d + 1)
    else (false, { c with acnt := c.acnt.put (a * 4 + d) (p.1 + 1, p.2) })

/-- One iteration of an address cell: whether its dimension 0 wraps, whether its run ends, and the collar. -/
def Collar.stepDims (c : Collar) (a : Nat) : Bool × Bool × Collar :=
  let p := c.dim a 0
  let r := c.stepFrom a 4 0
  (decide (p.2 ≤ p.1 + 1), r.1, r.2)

/-- The sum of the counts times the strides. -/
def Collar.strideSum (c : Collar) (a : Nat) : Int :=
  (List.range 4).foldl (fun x d => x + ((c.dim a d).1 : Int) * (c.active.acell a).str.getD d 0) 0

/-- The base register of an address cell. -/
def Collar.baseReg (c : Collar) (a : Nat) : Word := c.cb.at (c.active.acell a).base 0
/-- The space code of a base register (R337). -/
def baseSpace (b : Word) : Nat := fld b 63 60

/-- May the memory cell be in a run: it is in one, or an ordering token that starts one stands at its input (R334). -/
def Collar.mayRun (c : Collar) (m : Nat) (q : MCfg) : Bool :=
  (c.mcell m).running || (q.ord && !(c.mcell m).runDone && (match c.mord.at m [] with | k :: _ => !k | [] => false))

/-- The check of an address (R330, R337): below 2^56, in a space that a memory cell reaches. -/
def addrOk (b : Word) (a : Int) : Except CellFault Nat :=
  if a < 0 ∨ ((2 ^ 56 : Nat) : Int) ≤ a then .error (cRange.toNat, wrapInt 64 a)
  else if 4 ≤ baseSpace b then .error (cConfig.toNat, a.toNat)
  else .ok a.toNat

/-- The element address that AFF gives now. -/
def Collar.affAddr (c : Collar) (a : Nat) (off : Int) : Except CellFault Nat :=
  let b := c.baseReg a
  addrOk b ((b.toNat % 2 ^ 56 : Nat) + off + c.strideSum a)

/-- How a memory cell reads a poisoned consuming lane (R343): POIS 00 and 01 fault, 10 reads it as zero. -/
def MCfg.poisRule (q : MCfg) : Nat := if q.pois = 2 then 2 else 1

/-- The addresses that IDX gives for the active lanes of an index token (R331): the first lane that fails decides the fault. -/
def Collar.idxAddrs (c : Collar) (a : Nat) (q : MCfg) (k : Token) : Except CellFault (List (Nat × Nat) × Bool) :=
  match consumeLanes q.poisRule k.d k.mask with
  | .error i => .error (cPoisonUse.toNat, i)
  | .ok (l, pz) =>
    let b := c.baseReg a
    let str := (c.active.acell a).str.headD 0
    let one := fun (i : Nat) =>
      let x := (l.lane i).toNat % 2 ^ 32
      let n : Int := if q.mop = 6 then (x / 64 : Nat) else sgn 32 x
      addrOk b ((b.toNat % 2 ^ 56 : Nat) + q.offset + n * str)
    ((List.range 32).filter fun i => k.mask.getLsbD i).foldl (fun acc i => match acc with
      | .error e => .error e
      | .ok (as, z) => match one i with | .ok a => .ok (as ++ [(i, a)], z) | .error e => .error e) (.ok ([], pz))

/-- Does the memory cell make its own accesses as a source, which stop under a drain (R288). -/
def MCfg.isSource (q : MCfg) : Bool := q.mop == 0 || q.mop == 1 || q.mop == 7

/-- The cells that an address cell serves, if the collar may act: the memory cell, and whether by its element link. -/
def Collar.serves (c : Collar) (a cyc : Nat) : Option (Nat × Bool) :=
  match c.active.links a with
  | (m, e) :: _ => if c.mayAct cyc (nodeM m) && !((c.active.mcell m).isSource && c.draining) then some (m, e) else none
  | [] => none

/-- Does the memory cell want the metadata address of its next row (R335). -/
def Collar.wantsMeta (c : Collar) (m : Nat) (q : MCfg) : Bool :=
  q.mv && c.mayRun m q && (c.mcell m).maddr.isNone && !(c.mcell m).mdone && (q.mop != 8 || !(c.minp.at m []).isEmpty)

/-- An address cell gives the next address to its memory cell (R330): the element address, or the metadata address of a row. -/
def State.affStep (s : State) (t a : Nat) : State :=
  let c := (s.tile t).col
  let cyc := s.colCyc t
  match c.serves a cyc with
  | none => s
  | some (m, true) =>
    let q := c.active.mcell m
    if !c.mayRun m q || (c.mcell m).addr.isSome || (c.mcell m).runDone || ((q.mop == 2 || q.mop == 8) && (c.minp.at m []).isEmpty) then s
    else match c.affAddr a q.offset with
      | .error e => s.mcellFault t m e.1 (BitVec.ofNat 64 e.2) (c.mcell m).spos.toNat
      | .ok x => s.modCol t fun c => (c.modMc m fun k => { k with addr := some [(0, x)] }).touch cyc
  | some (m, false) =>
    if !c.wantsMeta m (c.active.mcell m) then s
    else match c.affAddr a 0 with
      | .error e => s.mcellFault t m e.1 (BitVec.ofNat 64 e.2) (c.mcell m).spos.toNat
      | .ok x =>
        let r := c.stepDims a
        s.modCol t fun _ => (r.2.2.modMc m fun k =>
          { k with maddr := some x, mdone := r.2.1, owe := if r.1 && (c.active.acell a).wrapc then k.owe ++ [false] else k.owe }).touch cyc

/-- IDX gives the addresses of the index token at the memory cell's input (R331). -/
def State.idxStep (s : State) (t a : Nat) : State :=
  let c := (s.tile t).col
  let cyc := s.colCyc t
  match c.serves a cyc with
  | some (m, true) =>
    let q := c.active.mcell m
    match c.minp.at m [] with
    | [] => s
    | k :: _ =>
      if !c.mayRun m q || (c.mcell m).addr.isSome then s
      else match c.idxAddrs a q k with
        | .error e => s.mcellFault t m e.1 (BitVec.ofNat 64 e.2) (c.mcell m).spos.toNat
        | .ok (as, pz) => s.modCol t fun c => let c := (c.modMc m fun k => { k with addr := some as }).touch cyc; if pz then c.cstatBit 16 else c
  | _ => s

/-- CNT gives the counting value of its next iteration to its counter port (R332). -/
def State.cntStep (s : State) (t a : Nat) : State :=
  let c := (s.tile t).col
  let cyc := s.colCyc t
  match c.serves a cyc with
  | some (m, true) =>
    let q := c.active.mcell m
    if !c.mayRun m q || (c.mcell m).addr.isSome || (c.mcell m).runDone then s
    else
      let v := wrapInt 32 (((c.baseReg a).toNat % 2 ^ 32 : Nat) + q.offset + c.strideSum a)
      s.modCol t fun c => (c.modMc m fun k => { k with addr := some [(0, v)] }).touch cyc
  | _ => s

/-- An event of an address cell whose operation is op; another operation there does nothing. -/
def acellEvent (t a op : Nat) (f : State → State) (s : State) : Out :=
  if t < numTiles ∧ a < 16 then (if ((s.tile t).col.active.acell a).aop = op then .next (f s) else .next s) else .fault .noSuchUnit

/-- AFF (R330). -/
def execAff (t a : Nat) (s : State) : Out := acellEvent t a 1 (fun s => s.affStep t a) s
/-- IDX (R331). -/
def execIdx (t a : Nat) (s : State) : Out := acellEvent t a 2 (fun s => s.idxStep t a) s
/-- CNT of an address cell (R332). -/
def execAcellCnt (t a : Nat) (s : State) : Out := acellEvent t a 3 (fun s => s.cntStep t a) s

end Sys2Proof.Machine
end

