-- ==== Sys2Proof/Machine/ArrayOps.lean ====
section
/-! DEFINITION. What the array computes (spec/11_q_array.md R303, R304, R311 to R314), and its registers as words (R302). -/

namespace Sys2Proof.Machine

/-! ## Registers (R302) -/

/-- ARP. -/
def ArrayState.arp (a : ArrayState) : Word :=
  BitVec.ofNat 64 (a.cmd.toNat * 2 ^ 32 + bnat a.v * 2 ^ 31 + bnat a.cpl * 2 ^ 30 + place a.lrow 20 10 + place a.mrow 10 10 + place a.orow 0 10)
/-- ALD. -/
def ArrayState.ald (a : ArrayState) : Word :=
  BitVec.ofNat 64 (bnat a.full * 2 ^ 19 + bnat a.lpl * 2 ^ 18 + place a.sgrp 14 4 + place a.stok 11 3 + place a.lrows 0 9)
/-- The array with ARP written; its reserved bits do not exist. -/
def ArrayState.setArp (a : ArrayState) (w : Word) : ArrayState :=
  { a with cmd := BitVec.ofNat 32 (fld w 63 32), v := bitOf w 31, cpl := bitOf w 30, lrow := fld w 29 20, mrow := fld w 19 10, orow := fld w 9 0 }
/-- The array with ALD written. -/
def ArrayState.setAld (a : ArrayState) (w : Word) : ArrayState :=
  { a with full := bitOf w 19, lpl := bitOf w 18, sgrp := fld w 17 14, stok := fld w 13 11, lrows := fld w 8 0 }

/-! ## The command word (R309) -/

/-- OUT. -/
def ArrayState.isOut (a : ArrayState) : Bool := a.cmd.getLsbD 31
/-- LOAD. -/
def ArrayState.isLoad (a : ArrayState) : Bool := a.cmd.getLsbD 30
/-- FRESH. -/
def ArrayState.isFresh (a : ArrayState) : Bool := a.cmd.getLsbD 29
/-- NOMMA = 0: the pass has a K-step. -/
def ArrayState.isMma (a : ArrayState) : Bool := !a.cmd.getLsbD 28
/-- Rows of the pass. -/
def ArrayState.rows (a : ArrayState) : Nat := nfld a.cmd.toNat 17 9 + 1
/-- ROW0. -/
def ArrayState.row0 (a : ArrayState) : Nat := nfld a.cmd.toNat 8 0

/-- Is a command word in order for the array's configuration. -/
def ArrCfg.cmdOk (q : ArrCfg) (w : Nat) : Bool :=
  let out := nbit w 31
  let load := nbit w 30
  let fresh := nbit w 29
  let nomma := nbit w 28
  nfld w 35 32 == 0 && nfld w 27 18 == 0 && decide (nfld w 8 0 + nfld w 17 9 ≤ q.accrowsm1) && (!out || q.accr) && (!load || q.accw)
    && !(fresh && (load || nomma)) && q.amode != 0

/-! ## Operands (R303, R304) -/

/-- The value of an L18 pair, high part and low part (R313). -/
def pairVal (hi lo : L18) : FVal :=
  match l18Val hi, l18Val lo with
  | .nan b, _ => .nan b
  | .inf s, _ => .inf s
  | .fin a, .fin b => .fin (a.add b)
  | .fin _, v => v

/-- A small integer as a value; zero is +0 (R314). -/
def smallVal (n : Nat) : FVal := let i := sgn 5 n; .fin ⟨decide (i < 0), i.natAbs, 0⟩

/-- Element k of the A row held by two tokens. -/
def ArrCfg.aElem (q : ArrCfg) (a0 a1 : Token) (k : Nat) : FVal :=
  let per := if q.amode = 2 then 1 else if q.amode = 4 ∨ q.amode = 5 then 4 else 2
  let tok := if k / (32 * per) = 0 then a0 else a1
  let l := (tok.d.lane (k / per % 32)).toNat
  if q.amode = 2 then pairVal (BitVec.ofNat 18 l) (BitVec.ofNat 18 (l / 2 ^ 18))
  else if per = 4 then smallVal (l / 2 ^ (8 * (k % 4)) % 32)
  else l18Val (BitVec.ofNat 18 (l / 2 ^ (18 * (k % 2))))

/-- The lanes of the two A tokens that hold an element of the K-step. -/
def ArrCfg.aUsed (q : ArrCfg) (tok : Nat) : BitVec 32 :=
  let per := if q.amode = 2 then 1 else if q.amode = 4 ∨ q.amode = 5 then 4 else 2
  BitVec.ofNat 32 ((List.range 32).foldl (fun x i => x + bnat (decide ((tok * 32 + i) * per < q.krows)) * 2 ^ i) 0)

/-- The word of a PE of a plane. -/
def ArrayState.pe (a : ArrayState) (plane : Bool) (row j : Nat) : BitVec 18 := (if plane then a.b1 else a.b0).at (row * 256 + j) 0

/-- Element B(k, j) of a plane. Where one PE holds two 4-bit codes, the lower K row lies in the low half of its word (notes/assumptions/40.md). -/
def ArrayState.bElem (a : ArrayState) (q : ArrCfg) (plane : Bool) (k j : Nat) : FVal :=
  if q.amode = 2 then pairVal (a.pe plane (2 * k) j) (a.pe plane (2 * k + 1) j)
  else if q.amode = 4 ∨ q.amode = 5 then smallVal ((a.pe plane (k / 2) j).toNat / 2 ^ (9 * (k % 2)) % 32)
  else l18Val (a.pe plane k j)

/-! ## Exact sums (R311, R312) -/

/-- A value while a sum is formed, with the NV that its forming raised. -/
abbrev Term := FVal × Bool

/-- The product of two values: 0 times an infinity is a NaN and raises NV. -/
def termMul (x y : FVal) : Term :=
  match x, y with
  | .nan _, _ => (.nan false, false)
  | _, .nan _ => (.nan false, false)
  | .fin a, .fin b => (.fin (a.mul b), false)
  | .fin a, .inf s => if a.man = 0 then (.nan false, true) else (.inf (a.neg != s), false)
  | .inf s, .fin b => if b.man = 0 then (.nan false, true) else (.inf (s != b.neg), false)
  | .inf s, .inf r => (.inf (s != r), false)

/-- The exact sum of terms: infinities of both signs give a NaN and raise NV, whatever else there is. -/
def termSum (l : List Term) : Term :=
  let nv := l.any (·.2)
  let isNaN := l.any fun t => match t.1 with | .nan _ => true | _ => false
  let isInf := fun (s : Bool) => l.any fun t => match t.1 with | .inf r => r == s | _ => false
  if isInf false && isInf true then (.nan false, true)
  else if isNaN then (.nan false, nv)
  else if isInf false then (.inf false, nv)
  else if isInf true then (.inf true, nv)
  else (.fin (l.foldl (fun (d : Dyadic) t => match t.1 with | .fin x => d.add x | _ => d) ⟨true, 0, 0⟩), nv)

/-- One term from the dot product of a group and its scale. -/
def scaleTerm (s : W36) (p : Term) : Term :=
  let r := termMul (w36Val s) p.1
  (r.1, r.2 || p.2 || w36IsSNaN s)

/-- A zero as +0: products and sums of the 4-bit modes are integers, whose zero is +0 (R314). -/
def Term.plusZero (t : Term) : Term := match t.1 with | .fin x => if x.man = 0 then (.fin ⟨false, 0, 0⟩, t.2) else t | _ => t

/-- KStep (R311): C, the A row as a function, and column j of a plane. -/
def ArrayState.kStep (a : ArrayState) (q : ArrCfg) (c : W36) (row : List FVal) (plane : Bool) (j : Nat) : W36 × Flags :=
  let int := fun (t : Term) => if q.amode = 4 ∨ q.amode = 5 then t.plusZero else t
  let dot := fun (lo n : Nat) =>
    int (termSum ((List.range n).map fun i => int (termMul (row.getD (lo + i) (.fin ⟨false, 0, 0⟩)) (a.bElem q plane (lo + i) j))))
  let s : Term :=
    if q.grouped then
      termSum ((List.range (q.krows / q.group)).map fun g =>
        scaleTerm (a.sc.at ((bnat plane * 8 + g) * 256 + j) 0) (dot (g * q.group) q.group))
    else dot 0 q.krows
  let nv := s.2 || w36IsSNaN c
  let nan := (w36NaN, if nv then fNV else fNone)
  match w36Val c, s.1 with
  | .nan _, _ => nan
  | _, .nan _ => nan
  | .inf x, .inf y => if x = y then (w36Inf x, if nv then fNV else fNone) else (w36NaN, fNV)
  | .inf x, _ => (w36Inf x, if nv then fNV else fNone)
  | _, .inf y => (w36Inf y, if nv then fNV else fNone)
  | .fin x, .fin y => let r := roundW36 (x.add y) .rne; (r.1, if nv then r.2 ||| fNV else r.2)

end Sys2Proof.Machine
end

