-- ==== Sys2Proof/Machine/Array.lean ====
section
/-! DEFINITION. The array (spec/11_q_array.md R301 to R324): plane loads, passes and their steps, faults, and pairs. -/

namespace Sys2Proof.Machine

/-- The array of a tile changed. -/
def State.modArr (s : State) (t : Nat) (f : ArrayState → ArrayState) : State := s.modCol t fun c => { c with arr := f c.arr }
/-- The array of a tile. -/
def State.arr (s : State) (t : Nat) : ArrayState := (s.tile t).col.arr
/-- The array's configuration on a tile. -/
def State.arrCfg (s : State) (t : Nat) : ArrCfg := (s.tile t).col.active.arr

/-- The other half, when the tile is a pair half by its frames (R39). -/
def State.otherHalf (s : State) (t : Nat) : Option Nat :=
  if (s.arrCfg t).pair then some (pairPartner (s.tile t).reg.court t) else none
/-- Is the tile the east half of a pair. -/
def State.isEast (s : State) (t : Nat) : Bool := (s.arrCfg t).pair && !isWest (s.tile t).reg.court t
/-- The halves that act together: the tile, with its partner. -/
def State.halves (s : State) (t : Nat) : List Nat := t :: (s.otherHalf t).toList

/-- May the array finish what it has begun: a rally runs and the array has not faulted. -/
def State.arrLive (s : State) (t : Nat) : Bool :=
  let c := (s.tile t).col
  c.running (s.colCyc t) && (match c.rally with | some r => !r.faulted.contains nodeArr | none => false)
/-- May the array take and give tokens. -/
def State.arrAct (s : State) (t : Nat) : Bool := (s.tile t).col.mayAct (s.colCyc t) nodeArr

/-! ## Faults (R317, R322) -/

/-- One array stops: its rows that have not committed are lost, and its record is posted. -/
def State.arrStop (s : State) (t kind cause : Nat) : State :=
  let a := s.arr t
  (s.modArr t fun a => { a with pipe := [], pskew := 0, skewAt := none }).unitFault t nodeArr kind 0xC010 cause a.arp 0 a.ald

/-- Does the array stop with its partner: it may still act, or its tile has whistled at the court's stop and keeps its rally (R404). -/
def State.arrStops (s : State) (t : Nat) : Bool :=
  s.arrLive t || (match (s.tile t).col.rally with | some r => r.saved && !r.faulted.contains nodeArr | none => false)

/-- The array faults; the partner of a pair half stops with it. -/
def State.arrFault (s : State) (t cause : Nat) : State :=
  let s := s.arrStop t 3 cause
  match s.otherHalf t with
  | some u => if s.arrStops u then s.arrStop u 4 cause else s
  | none => s

/-! ## Tokens -/

/-- The X-box of an array edge group: side 0 north, 1 south, 2 west. -/
def edgeXbox (side g : Nat) : Nat := if side = 0 then g else if side = 1 then 23 - g else 31 - 2 * g

/-- The first token of an array data input. -/
def Collar.arrIn (c : Collar) (side g : Nat) : Option Token := (c.ain.at (aKey side g) []).head?
/-- Take one token from each of n groups of a side, from group g on. -/
def Collar.arrTake (c : Collar) (side g n : Nat) : Collar :=
  Collar.took { c with ain := (List.range n).foldl (fun m i => m.upd (aKey side (g + i)) [] List.tail) c.ain } nodeArr n
/-- The tokens at the head of n groups of a side, when each has one. -/
def Collar.arrHeads (c : Collar) (side g n : Nat) : Option (List Token) :=
  let l := (List.range n).filterMap fun i => c.arrIn side (g + i)
  if l.length = n then some l else none

/-- Give a control token on an array control output; one that no route takes is discarded (R305). -/
def Collar.arrCtl (c : Collar) (side g : Nat) : Collar :=
  let x := edgeXbox side g
  (c.putXc x 2 [false]).gave nodeArr (c.active.takers 1 x 2).length
/-- Room for a control token. -/
def Collar.arrCtlRoom (c : Collar) (side g : Nat) : Bool := c.roomXc (edgeXbox side g) 2 1

/-- Is one of the lanes that a step uses poisoned. -/
def Token.badIn (k : Token) (used : BitVec 32) : Bool := (k.d.firstBad (k.mask &&& used)).isSome

/-- Lanes for which a condition holds. -/
def lanesIf (f : Nat → Bool) : BitVec 32 := BitVec.ofNat 32 ((List.range 32).foldl (fun x i => x + bnat (f i) * 2 ^ i) 0)

/-! ## Control tokens owed, and the end of a pass (R307, R310) -/

/-- Does the pass in progress wait for its plane (R310). While it waits, ARP.CPL names the plane it will take (notes/assumptions/40.md). -/
def ArrayState.waitsPlane (a : ArrayState) (q : ArrCfg) : Bool := a.v && a.isMma && q.wld && !a.full && a.cpl == a.lpl

/-- Have all steps of the pass taken effect. -/
def ArrayState.passDone (a : ArrayState) (q : ArrCfg) : Bool :=
  a.v && !a.waitsPlane q && (!a.isLoad || a.lrow == a.rows) && (!a.isMma || a.mrow == a.rows) && (!a.isOut || a.orow == a.rows) && a.pipe.isEmpty

/-- Give the token of a completed plane and the end-of-K token of a completed pass, when there is room. -/
def State.arrOwed (s : State) (t : Nat) : State :=
  if !s.arrAct t then s
  else
    let cyc := s.colCyc t
    let s := s.modCol t fun c =>
      if c.arr.planeOwed && c.arrCtlRoom 0 0 then (({ c with arr := { c.arr with planeOwed := false } } : Collar).arrCtl 0 0).touch cyc else c
    s.modCol t fun c =>
      if c.arr.passDone (s.arrCfg t) && c.arrCtlRoom 2 0 then (({ c with arr := { c.arr with v := false } } : Collar).arrCtl 2 0).touch cyc else c

/-! ## WLD (R303, R304, R307, R308) -/

/-- North groups of one WLD cycle. -/
def ArrCfg.bGroups (q : ArrCfg) : Nat := if q.amode = 2 then 8 else 4

/-- The PE words that the token of north group g writes in WLD cycle c: PE row, column, value, for each of its lanes. -/
def ArrCfg.bWords (q : ArrCfg) (c g i : Nat) (lane : W36) : List (Nat × Nat × Nat) :=
  let l := lane.toNat
  if q.amode = 2 then [(2 * c, 32 * g + i, l % 2 ^ 18), (2 * c + 1, 32 * g + i, l / 2 ^ 18)]
  else if q.amode = 4 ∨ q.amode = 5 then (List.range 4).map fun b => (c, 128 * (g % 2) + 4 * i + b, l / 2 ^ (8 * b) % 32)
  else [(c, 64 * g + 2 * i, l % 2 ^ 18), (c, 64 * g + 2 * i + 1, l / 2 ^ 18)]

/-- The lanes of a north token that write an enabled column. -/
def Plane.bUsed (p : Plane) (g : Nat) : BitVec 32 := lanesIf fun i => (p.arr.bWords 0 g i 0).any fun w => p.colOn w.2.1

/-- Write the tokens of one WLD cycle into a plane. In the 4-bit modes groups 2 and 3 hold the higher K row. -/
def Plane.loadRow (p : Plane) (c : Nat) (toks : List Token) (m : AMap (BitVec 18)) : AMap (BitVec 18) :=
  let four : Bool := decide (p.arr.amode = 4 ∨ p.arr.amode = 5)
  ((List.range toks.length).zip toks).foldl (fun m gt =>
    (List.range 32).foldl (fun m i =>
      (p.arr.bWords c gt.1 i (gt.2.d.lane i)).foldl (fun m w =>
        if p.colOn w.2.1 then
          let key := w.1 * 256 + w.2.1
          let old := (m.at key 0).toNat
          let v := if four then (if gt.1 < 2 then old / 2 ^ 9 * 2 ^ 9 + w.2.2 else old % 2 ^ 9 + w.2.2 * 2 ^ 9) else w.2.2
          if v = 0 then m.del key else m.put key (BitVec.ofNat 18 v)
        else m) m) m) m

/-- Scale rows of one plane load. -/
def ArrCfg.scaleRows (q : ArrCfg) : Nat := if q.grouped then q.krows / q.group else 0
/-- The K row that the next WLD cycle begins with. -/
def ArrCfg.nextK (q : ArrCfg) (lrows : Nat) : Nat := lrows * (if q.amode = 4 ∨ q.amode = 5 then 2 else 1)
/-- Are the scale rows that the next WLD cycle needs complete. -/
def ArrayState.scalesDue (a : ArrayState) (q : ArrCfg) : Bool := !q.grouped || decide (q.nextK a.lrows / q.group < a.sgrp)

/-- A load that has all its rows is complete: its plane is full, or the waiting pass takes it. -/
def ArrayState.loadDone (a : ArrayState) (q : ArrCfg) : ArrayState :=
  if a.lrows = q.kstepm1 + 1 ∧ a.sgrp = q.scaleRows then
    { a with full := !a.waitsPlane q, lpl := !a.lpl, lrows := 0, sgrp := 0, stok := 0, planeOwed := true }
  else a

/-- May a plane be loaded. -/
def State.arrLoads (s : State) (t : Nat) : Bool :=
  s.arrAct t && (s.arrCfg t).wld && (s.arrCfg t).amode != 0 && !(s.arr t).full && !(s.arr t).planeOwed

/-- One WLD cycle. -/
def State.wld (s : State) (t : Nat) : State :=
  let s := s.arrOwed t
  let q := s.arrCfg t
  let a := s.arr t
  let cyc := s.colCyc t
  if !s.arrLoads t || !decide (a.lrows < q.kstepm1 + 1) || !a.scalesDue q then s
  else
    match (s.tile t).col.arrHeads 0 0 q.bGroups with
    | none => s
    | some toks =>
      let p := (s.tile t).col.active
      let s := s.modCol t fun c => (c.arrTake 0 0 q.bGroups).touch cyc
      if ((List.range toks.length).zip toks).any fun gt => gt.2.badIn (p.bUsed gt.1) then s.arrFault t cPoisonUse.toNat
      else
        let s := s.modArr t fun a =>
          let m := p.loadRow a.lrows toks (if a.lpl then a.b1 else a.b0)
          ({ (if a.lpl then { a with b1 := m } else { a with b0 := m }) with lrows := a.lrows + 1 } : ArrayState).loadDone q
        (s.pm t 0x0008 1).arrOwed t

/-- One scale token (R308). -/
def State.scaleTake (s : State) (t : Nat) : State :=
  let s := s.arrOwed t
  let q := s.arrCfg t
  let a := s.arr t
  let cyc := s.colCyc t
  if !s.arrLoads t || !decide (a.sgrp < q.scaleRows) then s
  else
    match (s.tile t).col.arrIn 2 3 with
    | none => s
    | some k =>
      let p := (s.tile t).col.active
      let s := s.modCol t fun c => (c.arrTake 2 3 1).touch cyc
      if k.badIn (lanesIf fun i => p.colOn (32 * a.stok + i)) then s.arrFault t cPoisonUse.toNat
      else
        (s.modArr t fun a =>
          let sc := (List.range 32).foldl (fun m i =>
            let j := 32 * a.stok + i
            let key := (bnat a.lpl * 8 + a.sgrp) * 256 + j
            if p.colOn j then (if k.d.lane i = 0#36 then m.del key else m.put key (k.d.lane i)) else m) a.sc
          ({ a with sc := sc, stok := (a.stok + 1) % 8, sgrp := if a.stok = 7 then a.sgrp + 1 else a.sgrp } : ArrayState).loadDone q).arrOwed t

/-! ## Passes (R309, R310, R319, R321, R324) -/

/-- A pass starts on one tile. -/
def ArrayState.start (a : ArrayState) (q : ArrCfg) (p : Plane) (w : Nat) : ArrayState :=
  let a := { a with cmd := BitVec.ofNat 32 w, v := true, lrow := 0, mrow := 0, orow := 0, pipe := [], hasImg := true, imgId := p.imageId,
                    img1 := p.at (frArr 1) 0#256, img2 := p.at (frArr 2) 0#256 }
  if nbit w 28 then a
  else if q.wld then (if a.full then { a with cpl := !a.lpl, full := false } else { a with cpl := a.lpl })
  else { a with cpl := a.lpl, lpl := !a.lpl }

/-- Do the halves' frames agree (R324). -/
def ArrCfg.matches_ (a b : ArrCfg) : Bool :=
  a.amode == b.amode && a.gsize == b.gsize && a.kstepm1 == b.kstepm1 && a.plane == b.plane && a.wld == b.wld && a.accrowsm1 == b.accrowsm1

/-- The command token is taken and the pass starts, in both halves of a pair together. -/
def State.arrPass (s : State) (t : Nat) : State :=
  let s := s.arrOwed t
  let cyc := s.colCyc t
  if s.isEast t || !(s.halves t).all (fun u => s.arrAct u && !(s.arr u).v) then s
  else
    match (s.tile t).col.arrIn 2 2 with
    | none => s
    | some k =>
      let first := (s.halves t).any fun u => !(s.arr u).paired
      let agree := (s.halves t).all fun u => (s.arrCfg t).matches_ (s.arrCfg u)
      let s := s.modCol t fun c => (c.arrTake 2 2 1).touch cyc
      let w := if k.mask.getLsbD 0 then (k.d.lane 0).toNat else 0
      if k.badIn 1#32 then s.arrFault t cPoisonUse.toNat
      else if let some u := (s.halves t).find? fun u => !(s.arrCfg u).cmdOk w then s.arrFault u cConfig.toNat
      else if first && !agree then
        -- both halves fault, each with a record of its own
        (s.halves t).foldl (fun s u => s.arrStop u 3 cConfig.toNat) s
      else
        (s.halves t).foldl (fun s u => s.modArr u fun a => { a.start (s.arrCfg u) (s.tile u).col.active w with paired := true }) s

/-- ACCW: one row from the south feed (R305, R310); it waits for no plane, which only the K-step needs. -/
def State.accw (s : State) (t : Nat) : State :=
  let s := s.arrOwed t
  let q := s.arrCfg t
  let a := s.arr t
  let cyc := s.colCyc t
  if !s.arrAct t || !a.v || !a.isLoad || decide (a.rows ≤ a.lrow) then s
  else
    match (s.tile t).col.arrHeads 1 0 8 with
    | none => s
    | some toks =>
      let p := (s.tile t).col.active
      let s := s.modCol t fun c => (c.arrTake 1 0 8).touch cyc
      if ((List.range 8).zip toks).any fun gt => gt.2.badIn (lanesIf fun i => p.colOn (32 * gt.1 + i)) then s.arrFault t cPoisonUse.toNat
      else
        let row := q.accbase + a.row0 + a.lrow
        let put := fun (acc : AMap W36 × List Nat) (j : Nat) =>
          let k := toks.getD (j / 32) {}
          if p.colOn j && k.mask.getLsbD (j % 32) then
            let v := k.d.lane (j % 32)
            let key := row * 256 + j
            (if v = 0#36 then acc.1.del key else acc.1.put key v, setDel acc.2 key)
          else acc
        (s.modArr t fun a =>
          let r := (List.range 256).foldl put (a.acc, a.accBad)
          { a with acc := r.1, accBad := r.2, accSoft := a.accSoft.filter (fun k => !(k / 256 == row && p.colOn (k % 256) && (toks.getD (k % 256 / 32) {}).mask.getLsbD (k % 32))), lrow := a.lrow + 1 }).arrOwed t

/-- One A row is taken by the tile, and by both halves of a pair (R303, R321): at most one in an array cycle, in PRECISE one in two. -/
def State.takeA (s : State) (t : Nat) : State :=
  let q := s.arrCfg t
  let a := s.arr t
  let cyc := s.colCyc t
  let gap := if q.amode = 2 then 2 else 1
  let busy := match a.pipe.getLast? with | some r => decide (cyc < r.1 + gap) | none => false
  let open_ := fun (u : Nat) => s.arrAct u && (s.arr u).v && (s.arr u).isMma && !(s.arr u).waitsPlane (s.arrCfg u)
    && decide ((s.arr u).mrow + (s.arr u).pipe.length < (s.arr u).rows)
  if s.isEast t || !(s.halves t).all open_ || busy then s
  else
    match (s.tile t).col.arrHeads 2 0 2 with
    | some [k0, k1] =>
      let s := s.modCol t fun c => (c.arrTake 2 0 2).touch cyc
      if k0.badIn (q.aUsed 0) || k1.badIn (q.aUsed 1) then s.arrFault t cPoisonUse.toNat
      else (s.halves t).foldl (fun s u => (s.modArr u fun a => { a with pipe := a.pipe ++ [(s.colCyc u, k0, k1)] }).pm u 0x0007 1) s
    | _ => s

/-- Is the next row of the K-step ready to commit on this tile: its A row has passed the pipeline, and its C has been written (R315). -/
def State.rowReady (s : State) (t : Nat) : Bool :=
  let q := s.arrCfg t
  let a := s.arr t
  s.arrLive t && a.v && a.isMma && (!a.isLoad || decide (a.mrow < a.lrow)) &&
    (match a.pipe with | r :: _ => decide (r.1 + (if q.amode = 2 then 393 else 392) ≤ s.colCyc t) | [] => false)

/-- The row that commits next on a tile, and the memory after it; none where it reads a C word with an uncorrectable error (R317). -/
def State.rowResult (s : State) (t : Nat) : Option (AMap W36 × Flags) :=
  let p := (s.tile t).col.active
  let q := p.arr
  let a := s.arr t
  let row := q.accbase + a.row0 + a.mrow
  let cols := (List.range 256).filter p.colOn
  match a.pipe with
  | [] => none
  | (_, k0, k1) :: _ =>
    if !a.isFresh && cols.any fun j => a.accBad.contains (row * 256 + j) then none
    else
      let es := (List.range q.krows).map (q.aElem k0 k1)
      some (cols.foldl (fun m j =>
        let key := row * 256 + j
        let r := a.kStep q (if a.isFresh then w36Zero true else a.acc.at key 0) es a.cpl j
        (if r.1 = 0#36 then m.1.del key else m.1.put key r.1, m.2 ||| r.2)) (a.acc, fNone))

/-- The accumulator words of a row are read: single-bit errors in enabled columns are corrected, written back and counted (R152). -/
def State.accScrub (s : State) (t row : Nat) : State :=
  let c := (s.tile t).col
  let hit := fun (k : Nat) => k / 256 == row && c.active.colOn (k % 256)
  { s.modArr t fun a => { a with accSoft := a.accSoft.filter fun k => !hit k } with secded := s.secded + (c.arr.accSoft.filter hit).length }

/-- A row of the K-step commits, in both halves of a pair together (R310, R321, R322). -/
def State.commitRow (s : State) (t : Nat) : State :=
  if !(s.halves t).all s.rowReady then s
  else
    match (s.halves t).find? fun u => (s.rowResult u).isNone with
    | some u => s.arrFault u cPoisonUse.toNat
    | none =>
      (s.halves t).foldl (fun s u =>
        match s.rowResult u with
        | none => s
        | some r =>
          let row := (s.arrCfg u).accbase + (s.arr u).row0 + (s.arr u).mrow
          let cyc := s.colCyc u
          let s := if (s.arr u).isFresh then s else s.accScrub u row
          (s.modCol u fun c => Collar.touch (Collar.cstatFlags { c with arr := { c.arr with
              acc := r.1, accBad := c.arr.accBad.filter (fun k => !(k / 256 == row && c.active.colOn (k % 256))), mrow := c.arr.mrow + 1,
              accSoft := c.arr.accSoft.filter (fun k => !(k / 256 == row && c.active.colOn (k % 256))), pipe := c.arr.pipe.tail, pskew := 0, skewAt := none } } r.2) cyc).pm u 0x0009 1) s

/-- The K-step of a pass goes on: a row commits, and an A row is taken. -/
def State.mma (s : State) (t : Nat) : State :=
  let s := s.arrOwed t
  let s := s.commitRow t
  let s := if s.isEast t then s else s.takeA t
  s.arrOwed t

/-- ACCR: one row on the south groups, with its end-of-row token (R305, R310). -/
def State.accr (s : State) (t : Nat) : State :=
  let s := s.arrOwed t
  let c := (s.tile t).col
  let q := s.arrCfg t
  let a := s.arr t
  let cyc := s.colCyc t
  let due := if a.isMma then a.mrow else if a.isLoad then a.lrow else a.rows
  let room := (List.range 8).all (fun g => c.roomX (edgeXbox 1 g) 2 1) && c.arrCtlRoom 1 0
  if !s.arrAct t || !a.v || !a.isOut || a.waitsPlane q || decide (min due a.rows ≤ a.orow) || !room then s
  else
    let row := q.accbase + a.row0 + a.orow
    let s := s.accScrub t row
    let tok := fun (g : Nat) =>
      let on := fun (i : Nat) => c.active.colOn (32 * g + i)
      ({ d := Lanes.of fun i => if on i then (a.acc.at (row * 256 + 32 * g + i) 0, a.accBad.contains (row * 256 + 32 * g + i)) else (0#36, false),
         mask := lanesIf on, tag := 0 } : Token)
    let s := s.modCol t fun c =>
      let c := (List.range 8).foldl (fun c g =>
        let x := edgeXbox 1 g
        (c.putX x 2 [tok g]).gave nodeArr (c.active.takers 0 x 2).length) c
      Collar.touch { (c.arrCtl 1 0) with arr := { c.arr with orow := c.arr.orow + 1 } } cyc
    s.arrOwed t

/-! ## Skew (R323) -/

/-- Does the half wait on its partner while both run a rally: at a row commit; at a pass start, with a command token there and the partner still in its
pass; or, the pass begun, with its plane at hand while the partner waits for its own. -/
def State.waitsPartner (s : State) (t : Nat) : Bool :=
  match s.otherHalf t with
  | none => false
  | some u =>
    s.arrLive t && s.arrLive u && (s.tile t).stopAt.isNone &&
      ((s.rowReady t && !s.rowReady u) ||
       (!(s.arr t).v && (s.arr u).v && ((s.tile (if s.isEast t then u else t)).col.arrIn 2 2).isSome) ||
       ((s.arr t).v && (s.arr t).isMma && !(s.arr t).waitsPlane (s.arrCfg t) && (s.arr u).waitsPlane (s.arrCfg u)))

/-- PSKEW now. -/
def State.skewNow (s : State) (t : Nat) : Nat :=
  let a := s.arr t
  match a.skewAt with
  | some c0 => a.pskew + (s.colCyc t - c0)
  | none => a.pskew

/-- The skew count begins, is frozen for a stop, ends with its wait, or runs out: then both halves fault. -/
def State.pairTimeout (s : State) (t : Nat) : State :=
  let a := s.arr t
  if s.waitsPartner t then
    match a.skewAt with
    | none => s.modArr t fun a => { a with skewAt := some (s.colCyc t) }
    | some _ => if 2 ^ 20 ≤ s.skewNow t then (s.halves t).foldl (fun s u => s.arrStop u 3 cPairTimeout.toNat) s else s
  else if (s.tile t).stopAt.isSome then s.modArr t fun a => { a with pskew := s.skewNow t % 2 ^ 21, skewAt := none }
  else if a.skewAt.isSome || a.pskew != 0 then s.modArr t fun a => { a with pskew := 0, skewAt := none }
  else s

/-! ## Events -/

/-- An event of a tile's array. -/
def arrayEvent (t : Nat) (f : State → State) (s : State) : Out := if t < numTiles then .next (f s) else .fault .noSuchUnit

/-- WLD (R307). -/
def execWld (t : Nat) (s : State) : Out := arrayEvent t (fun s => s.wld t) s
/-- SCALE_ROW_TAKE (R308). -/
def execScaleRowTake (t : Nat) (s : State) : Out := arrayEvent t (fun s => s.scaleTake t) s
/-- ARRAY_PASS (R309, R310). -/
def execArrayPass (t : Nat) (s : State) : Out := arrayEvent t (fun s => s.arrPass t) s
/-- ACCW (R310). -/
def execAccw (t : Nat) (s : State) : Out := arrayEvent t (fun s => s.accw t) s
/-- MMA (R310, R311): the K-step in the modes without groups. -/
def execMma (t : Nat) (s : State) : Out := arrayEvent t (fun s => if (s.arrCfg t).grouped then s else s.mma t) s
/-- MMA.G (R310, R311): the K-step in the grouped modes. -/
def execMmaG (t : Nat) (s : State) : Out := arrayEvent t (fun s => if (s.arrCfg t).grouped then s.mma t else s) s
/-- ACCR (R310). -/
def execAccr (t : Nat) (s : State) : Out := arrayEvent t (fun s => s.accr t) s
/-- PAIR_TIMEOUT (R323). -/
def execPairTimeout (t : Nat) (s : State) : Out := arrayEvent t (fun s => s.pairTimeout t) s

end Sys2Proof.Machine
end

