-- ==== Sys2Proof/Machine/LoadStore.lean ====
section
/-! DEFINITION. Loads and stores of a task, and how an answer comes back to it (spec/06_mem_spaces.md R152, R154, R166 to R170). -/

namespace Sys2Proof.Machine

/-- The register value of a loaded field (R166). -/
def extend (size : Nat) (signed : Bool) (v : Nat) : Word :=
  if signed then int64 (sgn (8 * size) v) else BitVec.ofNat 64 (v % 2 ^ (8 * size))

/-- Bytes of a register's low part, with its poison. -/
def storeBytes (size : Nat) (v : PWord) : List MByte := (toBytes size v.val.toNat).map fun b => { val := b, poi := v.poi }

/-- Classify for the focused task: a place, or the trap (R154, R173). -/
def State.withPlace (s : State) (ea : Word) (size : Nat) (body : Place → Out) : Out :=
  if ea.toNat % size ≠ 0 then s.trapHere cAlign ea
  else
    match s.cur.classify s.curTile.reg.court ea size with
    | .error c => s.trapHere c ea
    | .ok pl => body pl

/-- The form of a load (R166, R167): spill memory at once, other places by request. That a spill access does not wait for an earlier local access of its task
is the model's choice between R168 and R169 (notes/assumptions/104.md). -/
def State.loadForm (s : State) (g : BitVec 4) (d b : BitVec 6) (i : BitVec 10) (size : Nat) (signed : Bool) : Out :=
  s.issue { g := g, rd := [b.toNat], wr := [d.toNat], cls := .load } (s.consume [b.toNat]
    (let ea := effAddr (s.reg b.toNat) i size
     s.withPlace ea size fun pl =>
      match pl with
      | .spill off =>
        let key := spillKey s.focusT off
        let s := s.scrub key 1
        s.retire fun sl => sl.modRf fun r => r.set d.toNat { val := extend size signed (s.mem.readN key size), poi := s.marks.has key }
      | pl =>
        if s.accRoom pl false 0 then (s.issueAcc pl (.load size signed) (.read size) d.toNat ea false).retire id
        else .next s))

/-- The form of a store (R166, R167): the data register is a move; spill memory is written at once (notes/assumptions/104.md). -/
def State.storeForm (s : State) (g : BitVec 4) (d b : BitVec 6) (i : BitVec 10) (size : Nat) : Out :=
  s.issue { g := g, rd := [b.toNat, d.toNat], cls := .store } (s.consume [b.toNat]
    (let ea := effAddr (s.reg b.toNat) i size
     let bs := storeBytes size (s.cur.rf.get d.toNat)
     s.withPlace ea size fun pl =>
      match pl with
      | .spill off => (s.writeM (spillKey s.focusT off) bs).retire id
      | pl =>
        if s.accRoom pl true size then (s.issueAcc pl .store (.write bs none) 0 ea false).retire id
        else .next s))

/-- LDB (R166, R167). -/
def execLdb (g : BitVec 4) (d b : BitVec 6) (i : BitVec 10) (s : State) : Out := s.loadForm g d b i 1 true

/-- LDH (R166, R167). -/
def execLdh (g : BitVec 4) (d b : BitVec 6) (i : BitVec 10) (s : State) : Out := s.loadForm g d b i 2 true

/-- LDW (R166, R167). -/
def execLdw (g : BitVec 4) (d b : BitVec 6) (i : BitVec 10) (s : State) : Out := s.loadForm g d b i 4 true

/-- LDD (R166, R167). -/
def execLdd (g : BitVec 4) (d b : BitVec 6) (i : BitVec 10) (s : State) : Out := s.loadForm g d b i 8 false

/-- LDBU (R166, R167). -/
def execLdbu (g : BitVec 4) (d b : BitVec 6) (i : BitVec 10) (s : State) : Out := s.loadForm g d b i 1 false

/-- LDHU (R166, R167). -/
def execLdhu (g : BitVec 4) (d b : BitVec 6) (i : BitVec 10) (s : State) : Out := s.loadForm g d b i 2 false

/-- LDWU (R166, R167). -/
def execLdwu (g : BitVec 4) (d b : BitVec 6) (i : BitVec 10) (s : State) : Out := s.loadForm g d b i 4 false

/-- STB (R166, R167). -/
def execStb (g : BitVec 4) (d b : BitVec 6) (i : BitVec 10) (s : State) : Out := s.storeForm g d b i 1

/-- STH (R166, R167). -/
def execSth (g : BitVec 4) (d b : BitVec 6) (i : BitVec 10) (s : State) : Out := s.storeForm g d b i 2

/-- STW (R166, R167). -/
def execStw (g : BitVec 4) (d b : BitVec 6) (i : BitVec 10) (s : State) : Out := s.storeForm g d b i 4

/-- STD (R166, R167). -/
def execStd (g : BitVec 4) (d b : BitVec 6) (i : BitVec 10) (s : State) : Out := s.storeForm g d b i 8

/-! ## The answer to an access of a task -/

/-- The value an answer brings: 0 poisoned when the access failed (R167, R171). -/
def Reply.pword (r : Reply) (size : Nat) (signed : Bool) : PWord :=
  match r.stat with
  | .fail | .unknown => { val := 0, poi := true }
  | _ => { val := extend size signed (ofBytes (r.data.map (·.val))), poi := r.data.any (·.poi) }

/-- A status that a task takes as a late trap (R170). -/
def RStat.late : RStat → Option Nat
  | .fail => some cRemoteFail.toNat
  | .unknown => some cLinkUnknown.toNat
  | _ => none

/-- The place of a counter word that a task of a slot waits for: tile and offset. -/
def State.counterAt (s : State) (t k : Nat) (ea : Word) : Option (Nat × Nat) :=
  match (s.slot t k).classify (s.tile t).reg.court ea 8 with
  | .ok (.loc off) => some (t, off)
  | .ok (.window tile off) => some (tile, off)
  | _ => none

/-- Does a watch entry of the word's memory cell stand for the task (R455). -/
def State.watches (s : State) (t k : Nat) (ea : Word) : Bool :=
  match s.counterAt t k ea with
  | some (tile, off) => ((s.tile tile).watch.at (off / 64 % 32) []).contains (off, .task t k 0)
  | none => false

/-- A task that is stopped at its BWAIT loses its watch (R455). -/
def State.dropWatch (s : State) (t k : Nat) : State :=
  let drop := fun (ea : Word) =>
    match s.counterAt t k ea with
    | some (tile, off) => s.modTile tile fun x => { x with watch := x.watch.upd (off / 64 % 32) [] fun l => l.filter (· != (off, Who.task t k 0)) }
    | none => s
  match (s.slot t k).task with
  | some ti => (match ti.hold with | .bwait ea _ _ | .bwatch ea _ _ => drop ea | _ => s)
  | none => s

/-- The read of a BWAIT has come back (R454): a trap, the end of the BWAIT, or the wait for a change notice; without a watch entry of the word's memory
cell, and when the notice has come already, the word is due to be read again (R455). A task that its court's stop has stopped meanwhile loses the watch. -/
def State.bwaitAnswer (s : State) (t k : Nat) (ea : Word) (r : Reply) : State :=
  let sl := s.slot t k
  let trap := fun (c : BitVec 8) (v : Word) =>
    (s.modSlot t k fun sl => sl.modTask fun ti => { ti with hold := .none }).takeTrap t k { cause := c, tval := v, tepc := sl.rf.pc, ipc := sl.rf.pc }
  match r.stat with
  | .fail => trap cRemoteFail ea
  | .unknown => trap cLinkUnknown ea
  | _ =>
    let w := BitVec.ofNat 64 (ofBytes (r.data.map (·.val)))
    if r.data.any (·.poi) then trap cPoisonUse 64
    else if bitOf w 62 then trap cBarrierOverrun ea
    else if bitOf w 63 && w.toNat % 2 ^ 48 == 0 then
      (s.modSlot t k fun sl => (sl.modTask fun ti => { ti with hold := .none }).past).atFocus t k State.runOff
    else if sl.stop.state != 0 then (s.dropWatch t k).modSlot t k fun sl => sl.modTask fun ti => { ti with hold := .none }
    else
      let again := match sl.task with | some ti => (match ti.hold with | .bwait _ _ a => a | _ => false) | none => false
      s.modSlot t k fun sl => sl.modTask fun ti =>
        { ti with hold := if again then .bwatch ea 0 false else .bwatch ea s.time (s.watches t k ea) }

/-- The header of a launch packet from slot k of tile t to the dispatcher (R362, R365, R415): a message of stream 52 to the management core's unit of base die
s0, which travels on VC0. -/
def State.postHdr (s : State) (t k : Nat) : Hdr :=
  { s.srcHdr t 52 with dpkg := s.pkg.pkgid.toNat, bd := true, unit := 2, kind := kMSG, tslot := k, len := 4, nbm1 := 127, ded := false }

/-- Is it the header of a launch packet. -/
def Hdr.isPost (h : Hdr) : Bool := h.kind == kMSG && h.stream == 52 && h.bd && h.unit == 2 && h.len == 4

/-- Is it the header of the dispatcher's answer to a launch packet. -/
def Hdr.isPostRsp (h : Hdr) : Bool := h.kind == kRSP && h.stream == 52 && !h.bd && h.len == 1

/-- The launch packet that a packet of the fabric carries. -/
def Packet.postReq (p : Packet) : PostReq :=
  { from_ := .task (tileOfBits p.h.stile) p.h.tslot, poi := p.pay.any (·.poi),
    words := (List.range 16).map fun i => BitVec.ofNat 64 (payWord ((p.pay.drop (8 * i)).take 8)) }

/-- The dispatcher's answer to a launch packet of slot k of tile t: its status and its value, on VC1 (R365, R415). -/
def State.postRsp (s : State) (t k status value : Nat) : Packet :=
  { h := { dpkg := s.pkg.pkgid.toNat, dtile := tileBits t, spkg := s.pkg.pkgid.toNat, kind := kRSP, stream := 52, tslot := k, len := 1, nbm1 := 15, aop := 15 },
    pay := (toBytes 8 status ++ toBytes 8 value).map fun b => { val := b } }

/-- A word of a launch packet has been read (R415): the next one is asked for, or the packet goes to the dispatcher and the task waits for
the answer, which counts as a court-window store (R415; notes/assumptions/118.md). -/
def State.packetWord (s : State) (t k : Nat) (r : Reply) : State :=
  match (s.slot t k).task with
  | none => s
  | some ti =>
    match ti.hold with
    | .launch dst p ws =>
      let ws := ws ++ [r.pword 8 false]
      let n := s.nextId
      let acc : TaskAcc := { k := n, kind := .packet, window := decide (ws.length = 16), ea := p }
      let s := { s with nextId := n + 1 }.modSlot t k fun sl =>
        { (sl.modTask fun ti => { ti with hold := .launch dst p ws }) with accs := sl.accs ++ [acc] }
      if ws.length < 16 then
        s.modTile t fun x => { x with tccReq := x.tccReq ++
          [{ who := .task t k n, off := (p.toNat - 0x400000 + 8 * ws.length) % 2 ^ 22, op := .read 8 }] }
      else s.modNet (.tile t) fun ni => { ni with txq := ni.txq ++ [{ h := s.postHdr t k, pay := ws.flatMap (storeBytes 8) }] }
    | _ => s

/-- The answer to a LAUNCH: a trap, or s[d] and the next instruction; a task that an abort has stopped takes no notice of it. -/
def State.answerLaunch (s : State) (t k : Nat) (status value : Nat) : State :=
  match (s.slot t k).task with
  | none => s
  | some ti =>
    let s := s.modSlot t k fun sl => { sl with accs := sl.accs.filter fun a => !(a.kind == .packet && a.window) }
    match ti.hold with
    | .launch d p _ =>
      let s := s.modSlot t k fun sl => sl.modTask fun ti => { ti with hold := .none }
      if ti.halted then s
      else if status = 4 then
        let pc := (s.slot t k).rf.pc
        s.takeTrap t k { cause := cLaunchDenied, tval := p, tepc := pc, ipc := pc }
      else
        let v : PWord := { val := BitVec.ofNat 64 (if status = 0 then value else 2 ^ 63 + status) }
        (s.modSlot t k fun sl => (sl.modRf fun r => r.set d v).past).atFocus t k State.runOff
    | _ => s

/-- Does the task stand at the BWAIT whose read is access k. -/
def Slot.awaits (sl : Slot) (k : Nat) : Bool :=
  match sl.task with
  | some ti => (match ti.hold with | .bwait _ i _ => i == k | _ => false)
  | none => false

/-- The answer to access k of a task (R166, R170, R171, R246): it completes. -/
def State.deliverTask (s : State) (t slot k : Nat) (r : Reply) : State :=
  let sl := s.slot t slot
  match sl.accs.find? (·.k == k) with
  | none => s
  | some a =>
    let s := s.modSlot t slot fun sl => { sl with accs := sl.accs.filter (·.k != k) }
    let lateOf := fun (s : State) =>
      match r.stat.late with
      | some c => s.lateTrap t slot c a.ea
      | none => s
    let s := match a.kind with
      | .load size signed => s.modSlot t slot fun sl => sl.modRf fun f => f.set a.dst (r.pword size signed)
      | .amo => lateOf (s.modSlot t slot fun sl => sl.modRf fun f => f.set a.dst (r.pword 8 false))
      | .store | .send | .post => lateOf s
      | .bwait => if sl.awaits k then s.bwaitAnswer t slot a.ea r else s
      | .packet => s.packetWord t slot r
    s.settleEnd t slot

end Sys2Proof.Machine
end

