-- ==== Sys2Proof/Machine/Atomic.lean ====
section
/-! DEFINITION. Atomic memory operations, arrival counters and their waits, and fences (spec/06_mem_spaces.md R171, R172; spec/08_mem_order.md R218 to R220;
spec/17_counters.md R452 to R454). -/

namespace Sys2Proof.Machine

/-- Has every earlier load, store and AMO of the task performed, so that a release AMO is ready (R172); BPOST and the read of a BWAIT count as a store and
a load (R453, R454), and a SEND does not count. -/
def Slot.relReady (sl : Slot) : Bool := sl.accs.all fun a => a.kind == .send

/-- The form of an AMO (R171, R172): a release is not ready while an earlier access has not performed; SWAP's operand is a move, CAS also consumes s[d]. -/
def State.amoForm (s : State) (g : BitVec 4) (d a b : BitVec 6) (o : BitVec 4) (acq rel : Bool) : Out :=
  let cas := o = 9
  let rd := [a.toNat, b.toNat] ++ (if cas then [d.toNat] else [])
  let con := [a.toNat] ++ (if o = 8 then [] else [b.toNat]) ++ (if cas then [d.toNat] else [])
  s.issue { g := g, rd := rd, wr := [d.toNat], cls := .amo } (if rel && !s.cur.relReady then .next s else s.consume con
    (let ea := s.reg a.toNat
     s.withPlace ea 8 fun pl =>
      match pl with
      | .spill _ => s.trapHere cPerm ea
      | pl =>
        if !s.accRoom pl false 16 then .next s
        else
          let x := s.cur.rf.get b.toNat
          (s.issueAcc pl .amo (.atomic 8 o.toNat x.val x.poi (s.reg d.toNat)) d.toNat ea acq).retire id))

/-- AMO (R171). -/
def execAmo (g : BitVec 4) (d a b : BitVec 6) (o : BitVec 4) (s : State) : Out := s.amoForm g d a b o false false
/-- AMO.ACQ (R172). -/
def execAmoAcq (g : BitVec 4) (d a b : BitVec 6) (o : BitVec 4) (s : State) : Out := s.amoForm g d a b o true false
/-- AMO.REL (R172). -/
def execAmoRel (g : BitVec 4) (d a b : BitVec 6) (o : BitVec 4) (s : State) : Out := s.amoForm g d a b o false true
/-- AMO.AR (R172). -/
def execAmoAr (g : BitVec 4) (d a b : BitVec 6) (o : BitVec 4) (s : State) : Out := s.amoForm g d a b o true true

/-- BPOST (R453). -/
def execBpost (g : BitVec 4) (a b : BitVec 6) (s : State) : Out :=
  s.issue { g := g, rd := [a.toNat, b.toNat], cls := .post } (s.consume [a.toNat, b.toNat]
    (let ea := s.reg a.toNat
     let n := s.reg b.toNat
     s.withPlace ea 8 fun pl =>
      match pl with
      | .spill _ => s.trapHere cPerm ea
      | pl =>
        if n = 0 ∨ 2 ^ 47 ≤ n.toNat then s.trapHere cRange n
        else if s.accRoom pl true 8 then (s.issueAcc pl .post (.post n.toNat) 0 ea false).retire id
        else .next s))

/-- The read of a BWAIT goes out (R454); the task stays at the BWAIT. -/
def State.bwaitRead (s : State) (pl : Place) (ea : Word) : State :=
  let k := s.nextId
  (s.issueAcc pl .bwait .watch 0 ea false).modCur fun sl => sl.modTask fun ti => { ti with hold := .bwait ea k false }

/-- BWAIT (R454): its first read; the answer ends it, traps, or makes it wait for a change notice. -/
def execBwait (g : BitVec 4) (a : BitVec 6) (s : State) : Out :=
  s.issue { g := g, rd := [a.toNat], cls := .bwait } (s.consume [a.toNat]
    (let ea := s.reg a.toNat
     s.withPlace ea 8 fun pl =>
      match pl with
      | .spill _ => s.trapHere cPerm ea
      | pl => if s.accRoom pl false 0 then (s.bwaitRead pl ea).stand id else .next s))

/-! ## FENCE -/

/-- The accesses of the task in W (R219): loads, stores and AMOs, and no SEND; those of TILE scope leave out court-window accesses. -/
def Slot.fenceAccs (sl : Slot) (scope : Nat) (readsOnly : Bool) : List Nat :=
  ((sl.accs.filter fun a => a.kind != .send && (scope != 0 || !a.window) &&
    (!readsOnly || (match a.kind with | .load _ _ | .amo | .bwait => true | _ => false))).map (·.k))

/-- Does a COPY's destination lie in the package (R219): every copy address does, but a global range whose target is host memory or a tile of
another package. -/
def State.copyInPackage (s : State) (t : Nat) (da : Word) : Bool :=
  if fld da 63 60 = 2 then
    let asid := (s.tile t).reg.asid.toNat
    let v := fld da 55 0
    (List.range 64).all fun i =>
      let e := s.ranges.at (asid * 64 + i) 0
      let base := nfld e.toNat 55 0
      let len := nfld e.toNat 120 64
      !(nbit e.toNat 63 && decide (base ≤ v) && decide (v < base + len)
        && (nfld e.toNat 127 125 == 2 || (nfld e.toNat 127 125 == 4 && nfld e.toNat 255 244 != s.pkg.pkgid.toNat)))
  else true

/-- The engine work of the task in W (R219). -/
def State.fenceCmds (s : State) (scope : Nat) : List Nat :=
  let x := s.curTile
  let mine := fun (c : Cmd) => c.slot == s.focusS && c.entry == s.curEntry
  if scope < 2 then []
  else
    ((x.colq.filter fun c => mine c && c.cmd == 2).map (·.uid))
      ++ (x.cpyq.filter fun c => mine c && c.cmd == 2 && (scope == 3 || s.copyInPackage s.focusT c.b)).map (·.uid)

/-- FENCE (R220): the task stands at it until every access and all engine work in W is done. -/
def execFence (g : BitVec 4) (sc : BitVec 2) (s : State) : Out :=
  let own := fun (h : Hold) => match h with | .fence _ _ => true | _ => false
  s.issueOwn own { g := g }
    (let held := match s.cur.task with | some ti => ti.hold | none => .none
     let w : List Nat × List Nat := match held with
       | .fence a c => (a, c)
       | _ => (s.cur.fenceAccs sc.toNat false, s.fenceCmds sc.toNat)
     let f : FenceHold := { rel := true, accs := w.1, cmds := w.2 }
     let stood := s.cur.held own
     if f.stands s.curTile s.cur then
       (if stood then .next s else s.stand fun sl => sl.modTask fun ti => { ti with hold := .fence w.1 w.2 })
     else s.endIt stood fun sl => sl.modTask fun ti => { ti with hold := .none })

/-- FENCE.ACQ (R220): later accesses and commands are held until every load and AMO in W has answered. -/
def execFenceAcq (g : BitVec 4) (sc : BitVec 2) (s : State) : Out :=
  s.issue { g := g } (s.retire fun sl => sl.modTask fun ti =>
    { ti with fences := (ti.fences.filter fun f => f.stands s.curTile s.cur) ++ [{ rel := false, accs := s.cur.fenceAccs sc.toNat true, cmds := [] }] })

/-- FENCE.REL (R220): later stores and releases are held until every access in W and its engine work is done. -/
def execFenceRel (g : BitVec 4) (sc : BitVec 2) (s : State) : Out :=
  s.issue { g := g } (s.retire fun sl => sl.modTask fun ti =>
    { ti with fences := (ti.fences.filter fun f => f.stands s.curTile s.cur)
        ++ [{ rel := true, accs := s.cur.fenceAccs sc.toNat false, cmds := s.fenceCmds sc.toNat }] })

end Sys2Proof.Machine
end

