-- ==== Sys2Proof/Machine/Copy.lean ====
section
/-! DEFINITION. The copy engine (spec/09_q_engines.md R248 to R256): settings, copy addresses, the elements and their conversion, the requests, the
arrival counter, the records, and the ending of a COPY. -/

namespace Sys2Proof.Machine

/-! ## Settings (R249) -/

/-- CNT0M1 + 1. -/
def CopySet.cnt0 (c : CopySet) : Nat := fld c.cshape 19 0 + 1
/-- CNT1M1 + 1. -/
def CopySet.cnt1 (c : CopySet) : Nat := fld c.cshape 39 20 + 1
/-- CNT2M1 + 1. -/
def CopySet.cnt2 (c : CopySet) : Nat := fld c.cshape 59 40 + 1
/-- The number of elements. -/
def CopySet.total (c : CopySet) : Nat := c.cnt0 * c.cnt1 * c.cnt2
/-- SFMT. -/
def CopySet.sfmt (c : CopySet) : Nat := fld c.cxf 4 0
/-- DFMT. -/
def CopySet.dfmt (c : CopySet) : Nat := fld c.cxf 9 5
/-- FP. -/
def CopySet.fp (c : CopySet) : Bool := bitOf c.cxf 12
/-- FPV. -/
def CopySet.fpv (c : CopySet) : Bool := bitOf c.cxf 13
/-- MOFF. -/
def CopySet.moff (c : CopySet) : Int := sgn 32 (fld c.cxf 63 32)
/-- CEN. -/
def CopySet.cen (c : CopySet) : Bool := bitOf c.cctr 63
/-- COFF. -/
def CopySet.coff (c : CopySet) : Nat := fld c.cctr 21 0
/-- A verbatim copy (R250). -/
def CopySet.verbatim (c : CopySet) : Bool := c.sfmt == c.dfmt
/-- Bits of a source element. -/
def CopySet.sbits (c : CopySet) : Nat := if c.verbatim then 8 else fmtBits c.sfmt
/-- Bits of a destination element. -/
def CopySet.dbits (c : CopySet) : Nat := if c.verbatim then 8 else fmtBits c.dfmt
/-- Are the source's elements in MX blocks. -/
def CopySet.smx (c : CopySet) : Bool := !c.verbatim && fmtIsMX c.sfmt
/-- Are the destination's elements in MX blocks. -/
def CopySet.dmx (c : CopySet) : Bool := !c.verbatim && fmtIsMX c.dfmt
/-- Elements of a chunk: a block of 32, or 64 bytes. -/
def CopySet.grain (c : CopySet) : Nat := if c.verbatim then 64 else 32

/-- Codes a converting copy may read (R250). -/
def copySrc (c : Nat) : Bool := [1, 2, 4, 7, 8, 9, 10, 11, 12, 13, 14, 15, 16, 17, 18].contains c
/-- Codes a converting copy may write (R250). -/
def copyDst (c : Nat) : Bool := c == 3 || copySrc c

/-! ## Copy addresses (R250) -/

/-- The space of a copy address. -/
def cpSpace (a : Word) : Nat := fld a 63 60
/-- The width of the offset field of a space. -/
def cpWidth (sp : Nat) : Nat := if sp = 0 ∨ sp = 1 then 22 else if sp = 2 ∨ sp = 3 then 56 else 18
/-- The offset of a copy address. -/
def cpOff (a : Word) : Nat := a.toNat % 2 ^ cpWidth (cpSpace a)
/-- A valid space, with the bits it does not use zero. -/
def cpValid (a : Word) : Bool :=
  match cpSpace a with
  | 0 => fld a 59 22 == 0
  | 1 => fld a 59 28 == 0
  | 2 => fld a 59 56 == 0
  | 3 => fld a 59 58 == 0
  | 4 => fld a 59 18 == 0
  | 5 => fld a 59 18 == 0
  | _ => false
/-- The copy address with another offset: the code and fixed fields of the base, and the low bits of the offset that fit (R251). -/
def cpAt (a : Word) (off : Int) : Word :=
  BitVec.ofNat 64 (a.toNat / 2 ^ cpWidth (cpSpace a) * 2 ^ cpWidth (cpSpace a) + wrapInt (cpWidth (cpSpace a)) off)

/-- The home of n bytes at an offset of a base address, for the copy engine of tile t (R250, R251). R251 tests where an element begins: that one which ends past
its space is out of RANGE too is the model's choice (notes/assumptions/105.md). -/
def State.copyHome (s : State) (t : Nat) (base : Word) (off : Int) (n : Nat) (k : AKind) : Except (BitVec 8) Home :=
  let w := cpWidth (cpSpace base)
  if off < 0 ∨ ((2 ^ w : Nat) : Int) ≤ off then .error cRange
  else
    let o := off.toNat
    let court := (s.tile t).reg.court
    match cpSpace base with
    | 0 => if 2 ^ 22 < o + n then .error cRange else .ok (.scratch t o)
    | 1 =>
      if 2 ^ 22 < o + n ∨ courtRowsM1 court < fld base 27 25 ∨ courtColsM1 court < fld base 24 22 then .error cRange
      else .ok (.far s.pkg.pkgid.toNat (courtTile court (fld base 27 25) (fld base 24 22)) o)
    | 2 => s.translate (some (s.courtOf t)) (s.tile t).reg.asid.toNat o n k
    | 3 => s.shareHome (s.courtOf t) (fld base 57 56) o n
    | 4 => if 2 ^ 18 < o + n then .error cRange else .ok (.ctx t o)
    | 5 => if 2 ^ 18 < o + n then .error cRange else .ok (.istore t o)
    | _ => .error cConfig

/-! ## The check at the start (R251) -/

/-- The code pair, and the conditions of a fingerprint (R250). -/
def CopySet.codesOk (c : CopySet) : Bool :=
  if c.verbatim then
    decide (c.sfmt ≤ 0x13) && (!c.fp || (copySrc c.sfmt && !fmtIsMX c.sfmt && (c.sfmt == 4 || c.cnt0 % (fmtBits c.sfmt / 8) == 0)))
  else copySrc c.sfmt && copyDst c.dfmt && !(fmtIsMX c.sfmt && fmtIsMX c.dfmt)

/-- The cause with which a COPY is refused as it starts, and its TVAL. -/
def copyCheck (c : CopySet) (priv : Bool) (sa da : Word) : Option (BitVec 8 × Word) :=
  let crecBad := c.crec != 0 && (c.crec.toNat % 64 != 0 || !cpValid c.crec)
  if !cpValid sa || !cpValid da || crecBad || !c.codesOk || fld c.cxf 31 14 != 0 || fld c.cxf 11 10 != 0 || fld c.cctr 62 22 != 0
      || fld c.cshape 63 60 != 0 || (c.cen && c.coff % 8 != 0) then some (cConfig, 0)
  else if !priv && cpSpace sa == 5 then some (cPerm, sa)
  else if !priv && cpSpace da == 5 then some (cPerm, da)
  else if !priv && c.crec != 0 && cpSpace c.crec == 5 then some (cPerm, c.crec)
  else if cpOff sa % ((c.sbits + 7) / 8) != 0 then some (cAlign, sa)
  else if cpOff da % ((c.dbits + 7) / 8) != 0 then some (cAlign, da)
  else none

/-! ## Elements -/

/-- The dimension 0 run of element e, counted from 0. -/
def CopySet.runOf (c : CopySet) (e : Nat) : Nat := e / c.cnt0
/-- The byte offset of element e, from the offset of a base with strides in str and elements of `bits` bits. -/
def CopySet.place (c : CopySet) (base str : Word) (bits e : Nat) : Int :=
  let r := c.runOf e
  (cpOff base : Int) + (r / c.cnt1 : Nat) * sgn 32 (fld str 63 32) + (r % c.cnt1 : Nat) * sgn 32 (fld str 31 0) + (e % c.cnt0 * bits / 8 : Nat)
/-- The number of the block of element e (R250). -/
def CopySet.blockOf (c : CopySet) (e : Nat) : Nat := c.runOf e * ceilDiv c.cnt0 32 + e % c.cnt0 / 32
/-- The offset of the scale byte of element e's block. -/
def CopySet.scalePlace (c : CopySet) (base : Word) (e : Nat) : Int := (cpOff base : Int) + c.moff + c.blockOf e

/-- The first fault met at element e (R251): reading the element or its scale, then writing. -/
def State.copyElemFault (s : State) (t : Nat) (c : CopySet) (sa da : Word) (e : Nat) : Option (BitVec 8 × Word) :=
  let look := fun (b : Word) (o : Int) (n : Nat) (k : AKind) => match s.copyHome t b o n k with | .error x => some (x, cpAt b o) | .ok _ => none
  [look sa (c.place sa c.csstr c.sbits e) ((c.sbits + 7) / 8) .read,
   if c.smx then look sa (c.scalePlace sa e) 1 .read else none,
   look da (c.place da c.cdstr c.dbits e) ((c.dbits + 7) / 8) .write,
   if c.dmx then look da (c.scalePlace da e) 1 .write else none].findSome? id

/-- How many of n elements from e on may be copied, and the fault that stops at the next one. -/
def State.copyCount (s : State) (t : Nat) (c : CopySet) (sa da : Word) (e : Nat) : Nat → Nat × Option (BitVec 8 × Word)
  | 0 => (0, none)
  | n + 1 =>
    match s.copyElemFault t c sa da e with
    | some f => (0, some f)
    | none => let r := State.copyCount s t c sa da (e + 1) n; (r.1 + 1, r.2)

/-! ## The fingerprint (R254) -/

/-- FingerprintAdd. -/
def CopyRun.addPrint (r : CopyRun) (x : W36) : CopyRun :=
  if w36IsNaN x then { r with fcnt := min (r.fcnt + 1) (2 ^ 32 - 1) }
  else
    let a := w36Abs x
    let sum := w36Add r.fsum x
    let sq := w36Fma x x r.fsq
    { r with famax := if w36Less r.famax a then a else r.famax, fsum := sum.1, fsq := sq.1, fff := r.fff ||| sum.2 ||| sq.2 }

/-! ## Conversion -/

/-- Element j of a list of bytes, with elements of `bits` bits: its code and its poison. -/
def elemAt (bits : Nat) (bs : List MByte) (j : Nat) : Nat × Bool :=
  if bits = 4 then
    let b := bs.getD (j / 2) {}
    (if j % 2 = 0 then b.val.toNat % 16 else b.val.toNat / 16, b.poi)
  else
    let w := (bs.drop (j * (bits / 8))).take (bits / 8)
    (ofBytes (w.map (·.val)), w.any (·.poi))

/-- Codes of elements laid out in bytes, with their poison; an odd last nibble leaves the high nibble 0 (R250). -/
def elemBytes (bits : Nat) : List (Nat × Bool) → List MByte
  | [] => []
  | [(v, p)] => if bits = 4 then [{ val := BitVec.ofNat 8 (v % 16), poi := p }]
      else (toBytes (bits / 8) v).map fun b => { val := b, poi := p }
  | (v, p) :: (w, q) :: t =>
    if bits = 4 then { val := BitVec.ofNat 8 (v % 16 + w % 16 * 16), poi := p || q } :: elemBytes bits t
    else ((toBytes (bits / 8) v).map fun b => { val := b, poi := p }) ++ elemBytes bits ((w, q) :: t)

/-- What a chunk becomes: the bytes to write, the scale byte of an MX destination, and the run with flags, poison and fingerprint added. -/
def CopyRun.convert (r : CopyRun) (ch : Chunk) : List MByte × Option MByte × CopyRun :=
  let c := r.set
  if c.verbatim then
    let bs := ch.raw.take ch.count
    let fb := fmtBits c.sfmt
    let r := { r with poi := r.poi || bs.any (·.poi) }
    let r := if c.fp then (List.range (if fb = 4 then 2 * ch.count else ch.count * 8 / fb)).foldl
        (fun r j => r.addPrint (decodeElem c.sfmt (elemAt fb bs j).1).1) r else r
    (bs, none, r)
  else
    let es := (List.range ch.count).map fun j => let e := elemAt c.sbits ch.raw j; (e.1, e.2 || (c.smx && ch.scale.poi))
    let xs := es.map fun e => if c.smx then decodeMX c.sfmt ch.scale.val.toNat e.1 else decodeElem c.sfmt e.1
    let f := xs.foldl (fun f x => f ||| x.2) r.dflag
    let ps := es.map Prod.snd
    let r := { r with poi := r.poi || ps.any id }
    if c.dmx then
      let m := encodeMX c.dfmt (takePad 0 32 (xs.map Prod.fst))
      let ys := m.2.1.take ch.count
      let r := { r with dflag := f ||| m.2.2 }
      let vs := if c.fpv then ys.map (fun y => (decodeMX c.dfmt m.1 y).1) else xs.map Prod.fst
      let r := if c.fp then vs.foldl CopyRun.addPrint r else r
      (elemBytes 8 (ys.zip ps), some { val := BitVec.ofNat 8 m.1, poi := ps.any id }, r)
    else
      let ys := xs.map fun x => encodeElem c.dfmt x.1
      let r := { r with dflag := ys.foldl (fun f y => f ||| y.2) f }
      let vs := if c.fpv then ys.map (fun y => (decodeElem c.dfmt y.1).1) else xs.map Prod.fst
      let r := if c.fp then vs.foldl CopyRun.addPrint r else r
      (elemBytes c.dbits ((ys.map Prod.fst).zip ps), none, r)

/-! ## Requests -/

/-- A copy in progress, by its command. -/
def Tile.run (x : Tile) (uid : Nat) : Option CopyRun := x.copies.find? fun r => r.uid == uid
/-- The command of a copy. -/
def Tile.copyCmd (x : Tile) (uid : Nat) : Option Cmd := x.cpyq.find? fun c => c.uid == uid
/-- A copy in progress changed. -/
def State.modRun (s : State) (t uid : Nat) (f : CopyRun → CopyRun) : State :=
  s.modTile t fun x => { x with copies := x.copies.map fun r => if r.uid == uid then f r else r }

/-- The requests for n bytes at an offset of a base address, one for each piece of the access. -/
def State.copyPieces (s : State) (t : Nat) (base : Word) (off : Int) (n : Nat) (wr : Bool) (chunk : Option Nat) (isMeta : Bool) (data : List MByte) :
    List CopyReq :=
  let at_ := fun (a : Nat) => s.copyHome t base (a : Int) 1 (if wr then .write else .read)
  (splitHomes at_ n off.toNat 0 n).map fun p =>
    { k := 0, chunk := chunk, wr := wr, off := p.1, len := p.2.1, addr := cpAt base (off + p.1), isMeta := isMeta, data := (data.drop p.1).take p.2.1 }

/-- Add requests to a copy, each with a name of its own. -/
def State.addReqs (s : State) (t uid : Nat) (l : List CopyReq) : State :=
  let named := (List.range l.length).zip l |>.map fun p => { p.2 with k := s.nextId + p.1 }
  { s with nextId := s.nextId + l.length }.modRun t uid fun r => { r with reqs := r.reqs ++ named }

/-- The first cause of a transfer stands, with its copy address (R251). -/
def CopyRun.blame (r : CopyRun) (cause : Nat) (tval : Word) : CopyRun :=
  { r with stopped := true, cause := if r.cause = 0 then cause else r.cause, tval := if r.cause = 0 then tval else r.tval }

/-- Nothing more of the transfer is issued; elements whose writes have not gone out do not count (R251). -/
def CopyRun.dropUnissued (r : CopyRun) : CopyRun :=
  let lost := (r.chunks.filter (·.written)).foldl (fun a ch =>
    match r.reqs.find? fun q => q.chunk == some ch.k && q.wr && q.st == 0 with
    | some q => a + (ch.count - (if q.isMeta then 0 else q.off * 8 / r.set.dbits))
    | none => a) 0
  { r with n := r.n - lost, chunks := r.chunks.filter (·.written), reqs := r.reqs.filter fun q => q.st != 0 && (q.wr || q.st == 1) }

/-- The elements from the failing one of chunk c on are not copied (R251): the chunk is cut, and later chunks that are not written go. -/
def CopyRun.cutAt (r : CopyRun) (c count : Nat) : CopyRun :=
  { r with
    chunks := (r.chunks.filter fun ch => ch.written || decide (ch.k ≤ c)).map fun ch => if ch.k == c then { ch with count := min ch.count count } else ch,
    reqs := r.reqs.filter fun q => q.wr || q.st == 1 || (match q.chunk with | some k => decide (k < c) | none => true) }

/-- The lowest free tag of the copy engine's port (R175). -/
def freeTag (tags : BitVec 8) : Option Nat := (List.range 8).find? fun i => !tags.getLsbD i

/-- Is the destination a single tile's scratchpad (R252). -/
def State.oneTile (s : State) (t : Nat) (da : Word) : Bool :=
  cpSpace da == 0 || cpSpace da == 1 ||
    (cpSpace da == 2 && (match s.rangeOf (s.tile t).reg.asid.toNat (cpOff da) with | some e => !rgMig e && rgTgt e == 4 | none => false))

/-- The access of a request, with the counter its bytes arrive at (R252). -/
def CopyRun.reqOp (r : CopyRun) (q : CopyReq) (one : Bool) : MemOp :=
  if q.wr then .write q.data (if r.set.cen && one && q.chunk.isSome then some r.set.coff else none) else .read q.len

/-- Write bytes of a memory without poison bits; a word written whole has no error left (R152). -/
def State.writeStore (s : State) (key : Nat) (bs : List MByte) : State :=
  let whole := (List.range (bs.length / 8 + 1)).map (fun i => (key + 7) / 8 * 8 + 8 * i) |>.filter fun w => decide (w + 8 ≤ key + bs.length)
  { s with mem := s.mem.writeM key bs, soft := whole.foldl setDel s.soft, hard := whole.foldl setDel s.hard }

/-- What a COPY reads from a memory without poison bits. DESIGN CHOICE (notes/assumptions/117.md): R152 names no outcome for a COPY that reads a word of the
context store or the instruction store with an uncorrectable error; the bytes of each such word arrive poisoned. -/
def State.readStore (s : State) (key n : Nat) : List MByte :=
  (List.range n).map fun i => { val := s.mem.get (key + i), poi := s.hard.contains ((key + i) / 8 * 8) }

/-! ## Meters (R456, R457) -/

/-- The credits of a meter now: a base count and its time, one level a cycle, up to 64. -/
def creditsNow (c at_ level cyc : Nat) : Nat := min 64 (c + level * (cyc - at_))

/-- The effective level of the copy engine's meter (R456): 1 while its court's quota is exhausted. -/
def State.copyLevel (s : State) (t : Nat) : Nat :=
  if s.overQuota t then 1 else (s.tile t).reg.clevel

/-- The copy engine's credits now (R457). -/
def State.copyCredits (s : State) (t : Nat) : Nat :=
  creditsNow (s.tile t).reg.ccred (s.tile t).reg.ccredAt (s.copyLevel t) ((s.tile t).cyc 2 s.time)

/-- Spend the credits of one read request. -/
def State.spendCopy (s : State) (t : Nat) : State :=
  let n := s.copyCredits t
  s.modTile t fun x => { x with reg := { x.reg with ccred := n - 64, ccredAt := x.cyc 2 s.time } }

/-- Send one request of a copy (R175, R256); none while its port has no room. -/
def State.sendCopyReq (s : State) (t : Nat) (r : CopyRun) (q : CopyReq) (one : Bool) : Except (BitVec 8) (Option State) :=
  match s.copyHome t q.addr (cpOff q.addr : Int) q.len (if q.wr then .write else .read) with
  | .error c => .error c
  | .ok h =>
    let op := r.reqOp q one
    let who : Who := .copy t q.k
    let out := fun (s : State) (skip : Nat) (tag : Option Nat) => s.modRun t r.uid fun r =>
      { r with reqs := r.reqs.map fun x => if x.k == q.k then { x with st := 1, skip := skip, tag := tag } else x }
    match h with
    | .scratch _ o =>
      if 8 ≤ (s.tile t).cpyReq.length then .ok none
      else .ok (some (out (s.modTile t fun x => { x with cpyReq := x.cpyReq ++ [{ who := who, off := o, op := op }] }) 0 none))
    | .far pkg tile o =>
      if (s.tile t).ni.canSend (48 + r.ord) q.data.length then .ok (some ((out s 0 none).sendScratch t (48 + r.ord) pkg tile o op who)) else .ok none
    | .ctx _ o => .ok (some ((if q.wr then s.writeStore (ctxKey t o) q.data else s.scrubSoft (ctxKey t o) q.len)))
    | .istore _ o => .ok (some ((if q.wr then s.writeStore (istoreKey t o) q.data else s.scrubSoft (istoreKey t o) q.len)))
    | h =>
      match freeTag (s.tile t).ctags with
      | none => .ok none
      | some tag =>
        let b := dieBlock h.pos q.len
        if (s.tile t).ni.homeWaits (48 + r.ord) b.2 (h.move b.1) then .ok none
        else if (s.tile t).ni.canSend (48 + r.ord) (if q.wr then 256 else 0) then
          let op : MemOp := match op with
            | .write d c => .write (maskedBlock (h.pos - b.1) d b.2) c
            | _ => .read b.2
          let s := out s (h.pos - b.1) (some tag)
          let s := s.modTile t fun x => { x with ctags := x.ctags ||| (1#8 <<< tag) }
          .ok (some ((s.pm t 0x0010 1).sendDie t (48 + r.ord) tag (h.move b.1) op who))
        else .ok none

/-- Issue one request of a copy: a read also needs credits (R457). -/
def State.issueCopyReq (s : State) (t : Nat) (r : CopyRun) (q : CopyReq) (one : Bool) : Except (BitVec 8) (Option State) :=
  match s.sendCopyReq t r q one with
  | .error c => .error c
  | .ok none => .ok none
  | .ok (some s') => if q.wr then .ok (some s') else if s.copyCredits t < 64 then .ok none else .ok (some (s'.spendCopy t))

/-! ## Answers -/

/-- A request has its answer (R251): data arrives, bytes count as written, the transfer stops, or the request waits for residency. -/
def CopyRun.answered (r : CopyRun) (q : CopyReq) (a : Reply) : CopyRun :=
  let gone := { r with reqs := r.reqs.filter fun x => x.k != q.k }
  let upd := fun (f : CopyReq → CopyReq) => { r with reqs := r.reqs.map fun x => if x.k == q.k then f x else x }
  match a.stat with
  | .notres => upd fun x => { x with st := 2, tag := none }
  | .busy => upd fun x => { x with st := 0, tag := none }
  | .fail =>
    if q.chunk.isSome then
      let gone := gone.blame cRemoteFail.toNat q.addr
      if q.wr then gone.dropUnissued else gone.cutAt (q.chunk.getD 0) (if q.isMeta then 0 else q.off * 8 / r.set.sbits)
    else { gone with cause := if gone.cause = 0 then cRemoteFail.toNat else gone.cause,
                     tval := if gone.cause = 0 then q.addr else gone.tval, fin := 3 }
  | st =>
    if q.wr then
      if st = .unknown then { gone with unk := gone.unk || q.chunk.isSome }
      else if q.chunk.isSome then { gone with bytes := gone.bytes + (q.data.filter (·.en)).length } else gone
    else
      let d : List MByte := if st = .unknown then List.replicate q.len { val := 0, poi := true } else (a.data.drop q.skip).take q.len
      { gone with chunks := gone.chunks.map fun ch =>
          if q.chunk == some ch.k then
            if q.isMeta then { ch with scale := d.headD {} }
            else { ch with raw := ch.raw.take q.off ++ d ++ ch.raw.drop (q.off + d.length) }
          else ch }

/-- The answer to a request of a copy is recorded, and the bytes that it has written are counted (R251, R461). -/
def State.copyAnswer (s : State) (t : Nat) (r : CopyRun) (q : CopyReq) (a : Reply) : State :=
  (s.modRun t r.uid fun r => r.answered q a).pm t 0x000E ((r.answered q a).bytes - r.bytes)

/-! ## Progress -/

/-- The next chunk, when the transfer goes on and has none in hand (R251). -/
def State.copyChunk (s : State) (t : Nat) (cmd : Cmd) (r : CopyRun) : State :=
  let c := r.set
  if r.stopped || r.killed || r.fin != 0 || decide (c.total ≤ r.next) || decide (2 ≤ r.chunks.length) then s
  else
    let e := r.next
    let want := min c.grain (min (c.grain - e % c.cnt0 % c.grain) (c.cnt0 - e % c.cnt0))
    let k := s.copyCount t c cmd.a cmd.b e want
    let s := s.modRun t r.uid fun r => { r with next := e + k.1 }
    let s :=
      if k.1 = 0 then s
      else
        let bytes := (k.1 * c.sbits + 7) / 8
        let ch : Chunk := { k := r.chunkNo, first := e, count := k.1, raw := List.replicate bytes {} }
        let s := s.modRun t r.uid fun r => { r with chunks := r.chunks ++ [ch], chunkNo := r.chunkNo + 1 }
        let s := s.addReqs t r.uid (s.copyPieces t cmd.a (c.place cmd.a c.csstr c.sbits e) bytes false (some ch.k) false [])
        if c.smx then s.addReqs t r.uid (s.copyPieces t cmd.a (c.scalePlace cmd.a e) 1 false (some ch.k) true []) else s
    match k.2 with
    | some f => s.modRun t r.uid fun r => { r with stopped := true, cause := f.1.toNat, tval := f.2 }
    | none => s

/-- The oldest chunk whose source has been read is converted and its writes are formed (R251). -/
def State.copyConvert (s : State) (t : Nat) (cmd : Cmd) (r : CopyRun) : State :=
  match r.chunks.find? fun ch => !ch.written with
  | none => s
  | some ch =>
    if r.reqs.any (fun q => q.chunk == some ch.k && !q.wr) then s
    else
      let c := r.set
      let m := r.convert ch
      let s := s.modRun t r.uid fun _ =>
        { m.2.2 with n := m.2.2.n + ch.count, chunks := m.2.2.chunks.map fun x => if x.k == ch.k then { x with written := true, raw := [] } else x }
      let s := s.addReqs t r.uid (s.copyPieces t cmd.b (c.place cmd.b c.cdstr c.dbits ch.first) m.1.length true (some ch.k) false m.1)
      match m.2.1 with
      | some b => if ch.count = 0 then s else s.addReqs t r.uid (s.copyPieces t cmd.b (c.scalePlace cmd.b ch.first) 1 true (some ch.k) true [b])
      | none => s

/-- Issue the requests of a copy that can go now, in order; it stalls at one that waits for residency (R165). -/
def State.copyIssue (s : State) (t uid : Nat) (one : Bool) : List CopyReq → State
  | [] => s
  | q :: rest =>
    if q.st = 2 then s
    else if q.st != 0 then State.copyIssue s t uid one rest
    else
      match (s.tile t).run uid with
      | none => s
      | some r =>
        if !r.reqs.any (fun x => x.k == q.k) then State.copyIssue s t uid one rest
        else
          match s.issueCopyReq t r q one with
          | .error c =>
            State.copyIssue (s.modRun t uid fun r =>
              if q.chunk.isSome then ({ r with reqs := r.reqs.filter fun x => x.k != q.k }.blame c.toNat q.addr).dropUnissued
              else { r with reqs := r.reqs.filter (fun x => x.k != q.k), cause := if r.cause = 0 then c.toNat else r.cause,
                            tval := if r.cause = 0 then q.addr else r.tval, fin := 3 }) t uid one rest
          | .ok none => s
          | .ok (some s1) =>
            -- the context and instruction stores answer at once
            let direct : Option (List MByte) :=
              match s.copyHome t q.addr (cpOff q.addr : Int) q.len (if q.wr then .write else .read) with
              | .ok (.ctx _ o) => some (s.readStore (ctxKey t o) q.len)
              | .ok (.istore _ o) => some (s.readStore (istoreKey t o) q.len)
              | _ => none
            match direct with
            | some d => State.copyIssue (s1.copyAnswer t r q ⟨.ok, d⟩) t uid one rest
            | none => State.copyIssue s1 t uid one rest

/-- Word i of the fingerprint record (R254) or of the completion record (R253). -/
def CopyRun.recWord (r : CopyRun) (print : Bool) (i : Nat) : Nat :=
  let v := 2 ^ 63
  if print then
    if i = 0 then place r.fcnt 32 32 + place (bnat r.poi) 16 1 + r.fff.toNat
    else if i = 1 then r.famax.toNat else if i = 2 then r.fsum.toNat else v + r.fsq.toNat
  else
    if i = 0 then place (bnat r.poi) 16 1 + place r.dflag.toNat 8 5 + r.cause % 256
    else if i = 1 then r.bytes else if i = 2 then r.n else v + r.set.cseq.toNat

/-- The copy engine asks its tile's bank for the subtraction of a transfer's bytes from the arrival counter (R156, R252, R449). -/
def State.copyArrive (s : State) (t uid off n : Nat) : State :=
  let k := s.nextId
  let q : CopyReq := { k := k, chunk := none, wr := true, off := 0, len := 0, addr := BitVec.ofNat 64 off, st := 1 }
  let s := { s with nextId := k + 1 }
  (s.modRun t uid fun r => { r with reqs := r.reqs ++ [q] }).modTile t fun x =>
    { x with cpyReq := x.cpyReq ++ [{ who := .copy t k, off := off, op := .arrive n }] }

/-- The ending (R250, R251): the counter, then the records word by word, each after the one before has been answered; after a record word that fails no later
one is written. -/
def State.copyEnd (s : State) (t : Nat) (cmd : Cmd) (r : CopyRun) : State :=
  let c := r.set
  let next := fun (r : CopyRun) => if r.fin = 1 ∧ (!c.fp ∨ c.crec = 0) then { r with fin := 2, word := 0 } else r
  let next2 := fun (r : CopyRun) => if (next r).fin = 2 ∧ c.crec = 0 then { next r with fin := 3 } else next r
  if r.killed || r.fin = 3 || !r.reqs.isEmpty then s
  else if r.fin = 0 then
    if r.chunks.any (fun ch => !ch.written) || (!r.stopped && decide (r.next < c.total)) then s
    else
      let r := if r.unk && r.cause == 0 then { r with cause := cLinkUnknown.toNat, tval := 0 } else r
      let s := s.modRun t r.uid fun _ => next2 { r with fin := 1, word := 0, chunks := [] }
      if c.cen && !s.oneTile t cmd.b && r.cause == 0 then s.copyArrive t r.uid c.coff r.bytes else s
  else if r.word < 4 then
    let print := r.fin == 1
    let off : Int := (cpOff c.crec : Int) + (if print then 32 else 0) + 8 * (r.word : Nat)
    let data := (toBytes 8 (r.recWord print r.word)).map fun b => ({ val := b } : MByte)
    match (if !cmd.priv && cpSpace c.crec == 5 then .error cPerm else s.copyHome t c.crec off 8 .write) with
    | .error e => s.modRun t r.uid fun r => { r with cause := if r.cause = 0 then e.toNat else r.cause,
                                                     tval := if r.cause = 0 then cpAt c.crec off else r.tval, fin := 3 }
    | .ok _ =>
      (s.modRun t r.uid fun r => { r with word := r.word + 1 }).addReqs t r.uid (s.copyPieces t c.crec off 8 true none false data)
  else s.modRun t r.uid fun r => next2 { r with fin := r.fin + 1, word := 0 }

/-- One copy goes on as far as it can now. -/
def State.copyStep (s : State) (t uid : Nat) : State :=
  match (s.tile t).run uid, (s.tile t).copyCmd uid with
  | some r, some cmd =>
    if r.killed then s.modRun t uid fun r => { r with reqs := r.reqs.filter fun q => q.st == 1 }
    else
      let s := s.copyChunk t cmd r
      let s := match (s.tile t).run uid with | some r => s.copyConvert t cmd r | none => s
      let done := fun (s : State) => s.modRun t uid fun r =>
        { r with chunks := r.chunks.filter fun ch => !(ch.written && !r.reqs.any fun q => q.chunk == some ch.k) }
      let s := match (s.tile t).run uid with | some r => s.copyIssue t uid (s.oneTile t cmd.b) r.reqs | none => s
      let s := done s
      let s := match (s.tile t).run uid with | some r => s.copyEnd t cmd r | none => s
      match (s.tile t).run uid with | some r => s.copyIssue t uid (s.oneTile t cmd.b) r.reqs | none => s
  | _, _ => s

/-- The copies of a tile go on in start order: a later one issues nothing before the earlier ones have issued everything (R256). Requests of a killed
copy are answered first, for packets of the engine's one port arrive in issue order (R175) and the streams of two copies keep none (R368). -/
def State.copyPump (s : State) (t : Nat) : State :=
  let s := (s.tile t).copies.foldl (fun s k => if k.killed then s.copyStep t k.uid else s) s
  if (s.tile t).copies.any fun k => k.killed && k.reqs.any (fun q => q.st == 1) then s
  else
    match (s.tile t).copies.find? fun r => r.fin != 3 && !r.killed with
    | some r => s.copyStep t r.uid
    | none => s

/-- The answer to request k of tile t's copy engine: it is recorded, its tag is free again, and the copies go on. -/
def State.deliverCopy (s : State) (t k : Nat) (a : Reply) : State :=
  match (s.tile t).copies.findSome? fun r => (r.reqs.find? fun q => q.k == k).map fun q => (r, q) with
  | none => s
  | some (r, q) =>
    let s := match q.tag with
      | some tag => s.modTile t fun x => { x with ctags := x.ctags &&& ~~~(1#8 <<< tag) }
      | none => s
    (s.copyAnswer t r q a).copyPump t

/-! ## Starting and ending -/

/-- A COPY starts with the settings of its slot (R248, R251). -/
def State.copyStart (s : State) (t : Nat) (cmd : Cmd) : State :=
  let s := s.modSlot t cmd.slot fun sl => { sl with cs := { sl.cs with cseq := sl.cs.cseq + 1 } }
  let set := (s.slot t cmd.slot).cs
  let run : CopyRun := { uid := cmd.uid, set := set, entry := cmd.entry, ord := (s.tile t).copyNo % 4 }
  let run := match copyCheck set cmd.priv cmd.a cmd.b with
    | some f => { run with stopped := true, cause := f.1.toNat, tval := f.2 }
    | none => run
  (s.modTile t fun x => { x with copies := x.copies ++ [run], copyNo := x.copyNo + 1 }).copyPump t

/-- Is a copy over: its records are written, or it was killed and nothing of it is out. -/
def CopyRun.over (r : CopyRun) : Bool := if r.killed then r.reqs.all (fun q => q.st != 1) else r.fin == 3

/-- A copy that is over leaves the engine (R235, R238, R251): its command waits to retire with its cause, which posts a fault record; a killed one leaves
its queue without a retire. -/
def State.copyOver (s : State) (t : Nat) (r : CopyRun) : State :=
  match (s.tile t).copyCmd r.uid with
  | none => s.modTile t fun x => { x with copies := x.copies.filter fun y => y.uid != r.uid }
  | some cmd =>
    let s := s.modTile t fun x => { x with copies := x.copies.filter fun y => y.uid != r.uid }
    if r.killed then s.modTile t fun x => { x with cpyq := x.cpyq.filter fun c => c.uid != r.uid }
    else
      let s := s.modTile t fun x => { x with cpyq := x.cpyq.map fun c => if c.uid == r.uid then { c with st := 2, cause := r.cause } else c }
      if r.cause = 0 then s
      else s.postTileFault t { cause := r.cause, kind := 1, slot := cmd.slot, cmd := cmd.cmd, eng := 2, crt := 0, launch := cmd.entry, tval := r.tval,
                               w2 := cmd.a, w3 := r.set.cseq.setWidth 64 }

/-- The k-th copy of a tile goes on, and leaves when it is over. -/
def State.copyTurn (s : State) (t k : Nat) : State :=
  let s := s.copyPump t
  match (s.tile t).copies[k]? with
  | none => s
  | some r => if r.over then (s.copyOver t r).copyPump t else s

end Sys2Proof.Machine
end

