-- ==== Sys2Proof/Machine/Routes.lean ====
section
/-! DEFINITION. Routers: routes, the links between nodes, virtual channels and the choice of the next flit (spec/13_q_fabric.md R358 to R361, R365, R366,
R372, R376 to R378). Tile outputs are 0 north, 1 east, 2 south, 3 west, 4 up, 5 down, 6 local; base die outputs are 0 to 23 the package ports
(direction × 4 + k mod 4), 24 to 26 the bridges in ascending stack order, 27 the die's own interface, 28 to 75 the tile positions, and at s0 76 the Ngambi
link, whose own queues send as input 77. An input has its output's number, and an input buffer the number port × 16 + VC. -/

namespace Sys2Proof.Machine

/-! ## Headers -/

/-- No reserved value in a header, and no reserved bit set (R362). -/
def Hdr.ok (h : Hdr) : Bool :=
  decide (h.kind ≤ 6) && decide (h.len ≤ 8) && decide (h.unit ≤ 4) && decide (nfld h.dtile 5 3 ≤ 5) && decide (h.stream ≤ 53)
    && (h.kind != kRSP || decide (h.status ≤ 5)) && (!h.bd || decide (h.dtile % 256 = 0)) && h.rsv == 0

/-- Is the packet a request. -/
def Hdr.isReq (h : Hdr) : Bool := decide (h.kind ≤ 6) && h.kind != kRSP && h.kind != kLET

/-- Does the packet travel on a system VC, which crosses court borders (R361, R365). -/
def Hdr.isSys (h : Hdr) : Bool := h.stream == 52 || (h.kind == kRSP && h.vc == 1)

/-- A RSP to an ATM, which is never trimmed (R372): AOP 15 marks the RSP to another kind (notes/assumptions/14.md). -/
def Hdr.isAtmRsp (h : Hdr) : Bool := h.kind == kRSP && h.aop != 15

/-! ## Routes -/

/-- Are two tiles of one placed court, named by the header (R359). -/
def State.sameCourt (s : State) (crt a b : Nat) : Bool :=
  let c := s.court crt
  c.v && (c.st == 1 || c.st == 2) && c.tiles.contains a && c.tiles.contains b

/-- Does the packet take the mesh route (R359). -/
def State.meshRoute (s : State) (h : Hdr) : Bool :=
  h.spkg == s.pkg.pkgid.toNat && h.dpkg == s.pkg.pkgid.toNat && !h.bd && h.stream != 53 &&
    (h.stile == h.dtile || s.sameCourt h.crt (tileOfBits h.stile) (tileOfBits h.dtile))

/-- The direction of a package hop (R360): 0 +x, 1 -x, 2 +y, 3 -y, 4 +z, 5 -z. -/
def torusDir (here dest : Nat) : Option Nat :=
  [0, 1, 2].findSome? fun i =>
    let d := (nfld dest (4 * i + 3) (4 * i) + 16 - nfld here (4 * i + 3) (4 * i)) % 16
    if d = 0 then none else if d ≤ 8 then some (2 * i) else some (2 * i + 1)

/-- The port within a direction (R360), moved on past ports that are DOWN (R378). -/
def State.torusPort (s : State) (dir k0 : Nat) : Option Nat :=
  ((List.range 16).map fun i => (k0 + i) % 16).find? fun k =>
    (((s.die (k / 4)).ports.at (dir * 4 + k % 4) {}).st) != 3

/-- The bridge output of die d to die e (R381). -/
def bridgeOut (d e : Nat) : Nat := 24 + (if e < d then e else e - 1)

/-- The next mesh hop from tile t to tile u (R359): along the row to the column, then along the column; output and next tile. -/
def meshHop (t u : Nat) : Nat × Nat :=
  if tileCol t < tileCol u then (1, t + 1)
  else if tileCol u < tileCol t then (3, t - 1)
  else if tileRow t < tileRow u then (2, t + 8)
  else (0, t - 8)

/-- The output a packet takes at a tile's router, from the input it came by (R359); none when the packet is to be discarded (R361, R362). -/
def State.tileRoute (s : State) (t inp : Nat) (h : Hdr) : Option Nat :=
  if !h.ok then none
  else if h.dpkg = s.pkg.pkgid.toNat ∧ !h.bd ∧ tileOfBits h.dtile = t ∧ inp ≠ 4 then some 6
  else if s.meshRoute h then
    let m := meshHop t (tileOfBits h.dtile)
    if h.isSys || s.sameCourt h.crt t m.2 then some m.1 else none
  else if inp = 5 then some 4
  else some 5

/-- The output a packet takes at a base die (R359, R360, R378); none when no port of its direction is up. -/
def State.dieRoute (s : State) (d : Nat) (h : Hdr) : Option Nat :=
  if !h.ok then none
  else if h.dpkg = s.pkg.pkgid.toNat then
    let e := nfld h.dtile 9 8
    if e ≠ d then some (bridgeOut d e)
    else if h.bd then some 27
    else some (28 + h.dtile / 8 % 8 * 8 + h.dtile % 8)
  else
    match torusDir s.pkg.pkgid.toNat h.dpkg with
    | none => none
    | some dir =>
      match s.torusPort dir ((nfld h.stile 5 3 * 8 + nfld h.stile 2 0 + h.stream) % 16) with
      | none => none
      | some k => if k / 4 = d then some (dir * 4 + k % 4) else some (bridgeOut d (k / 4))

/-- The pseudo output of host packets that the Ngambi port takes into HQ and LQ. -/
def outQueue : Nat := 125

/-- Is this a package port of base die d, or the Ngambi link of s0: a link with credits (R358). -/
def creditLink (d p : Nat) : Bool := decide (p < 24) || (d == 0 && p == 76)

/-- The output of a packet at a node: what the Ngambi port sends goes to its link, and what the host asks goes to the port's queues (R379). -/
def State.routeAt (s : State) (n : Node) (inp : Nat) (h : Hdr) : Option Nat :=
  match n with
  | .tile t => s.tileRoute t inp h
  | .die d =>
    if d = 0 ∧ h.ok = true ∧ inp = 77 then some 76
    else if d = 0 ∧ h.ok = true ∧ inp = 76 ∧ h.isReq = true then some outQueue
    else s.dieRoute d h

/-- The port whose border count takes a discarded packet (R361, R362): the output whose hop would cross the border, or, for a header with a
reserved value, the input it came by; none where no package port is up (R378). -/
def discardPort (n : Node) (inp : Nat) (h : Hdr) : Option Nat :=
  if !h.ok then some inp
  else
    match n with
    | .tile t => some (meshHop t (tileOfBits h.dtile)).1
    | .die _ => none

/-- The node and input port at the other end of an output, when a router stands there. -/
def linkEnd (n : Node) (out : Nat) : Option (Node × Nat) :=
  match n with
  | .tile t =>
    if out = 0 then some (.tile (t - 8), 2)
    else if out = 1 then some (.tile (t + 1), 3)
    else if out = 2 then some (.tile (t + 8), 0)
    else if out = 3 then some (.tile (t - 1), 1)
    else if out = 4 then (if tileLyr t < 3 then some (.tile (t + 48), 5) else none)
    else if out = 5 then
      (if tileLyr t = 0 then some (.die (tileStk t), 28 + t % 48) else some (.tile (t - 48), 4))
    else none
  | .die d =>
    if 24 ≤ out ∧ out ≤ 26 then
      let e := if out - 24 < d then out - 24 else out - 23
      some (.die e, bridgeOut e d)
    else if 28 ≤ out ∧ out ≤ 75 then some (.tile (d * 192 + (out - 28)), 5)
    else none

/-- The buffer of each VC at the far end of an output, in flits (R358). -/
def linkDepth (n : Node) (out : Nat) : Nat :=
  match n with
  | .tile _ => if out ≤ 3 then 4 else 8
  | .die _ => if out ≤ 23 then 96 else if out ≤ 26 then 16 else if out = 76 then 64 else 8

/-! ## Virtual channels -/

/-- The dedicated pair that a header owns at an output (R365): the pair whose VC map entry names its package and court. -/
def OutPort.pairOf (o : OutPort) (h : Hdr) : Option Nat :=
  if !h.ded then none
  else
    let pkg := if h.kind = kRSP then h.dpkg else h.spkg
    (List.range 5).find? fun q => o.mapIn.at q 0 == 2 ^ 18 + pkg * 2 ^ 6 + h.crt

/-- The VC a packet travels on through an output (R361, R362, R365, R372): system traffic of the management core on VC0 and VC1, FAIL answers of a
router on VC1, bunt headers and let requests on VC2. -/
def OutPort.vcFor (o : OutPort) (h : Hdr) : Nat :=
  if h.trim || h.kind = kLET then 2
  else if h.stream = 52 then (if h.kind = kRSP then 1 else 0)
  else if h.isSys then 1
  else
    match o.pairOf h with
    | some q => if h.kind = kRSP then 7 + 2 * q else 6 + 2 * q
    | none => if h.kind = kRSP then 3 else 4 + h.stream % 2

/-- The VCs that may take a packet at an output: a best-effort one may also take the pairs that have no owner there, as more VCs of its class (R365). DESIGN
CHOICE (notes/assumptions/113.md): the first that is free and has room is taken, its own class's VC before the pairs in ascending order. -/
def OutPort.vcsFor (o : OutPort) (h : Hdr) : List Nat :=
  let v := o.vcFor h
  let spare := (List.range 5).filter fun q => !nbit (o.mapIn.at q 0) 18
  v :: (if v = 3 then spare.map (7 + 2 * ·) else if v = 4 ∨ v = 5 then spare.map (6 + 2 * ·) else [])

/-- May the packet be trimmed at this output (R365, R372). -/
def OutPort.trimmable (o : OutPort) (h : Hdr) : Bool :=
  decide (0 < h.len) && !h.trim && !h.isAtmRsp && decide (2 < o.vcFor h) && (o.pairOf h).isNone

/-! ## Buffers -/

/-- A node's router. -/
def State.router (s : State) (n : Node) : Router :=
  match n with
  | .tile t => (s.tile t).rt
  | .die d => (s.die d).rt

/-- A node's router changed. -/
def State.modRouter (s : State) (n : Node) (f : Router → Router) : State :=
  match n with
  | .tile t => s.modTile t fun x => { x with rt := f x.rt }
  | .die d => s.modDie d fun x => { x with rt := f x.rt }

/-- An output of a router. -/
def Router.out (r : Router) (o : Nat) : OutPort := r.outs.at o {}
/-- A router with an output changed. -/
def Router.modOut (r : Router) (o : Nat) (f : OutPort → OutPort) : Router := { r with outs := r.outs.put o (f (r.out o)) }

/-- The flits of a packet. -/
def Packet.flits (p : Packet) (now : Nat) : List Flit :=
  let rec go : Nat → List MByte → List Flit
    | 0, _ => []
    | n + 1, bs => .body (bs.take 32) (n = 0) :: go n (bs.drop 32)
  .head p.h now :: go p.h.len p.pay

/-- Add a flit at the tail of an input buffer. -/
def Router.pushFlit (r : Router) (key : Nat) (f : Flit) : Router := { r with ins := r.ins.upd key [] fun l => l ++ [f] }

/-- Is it the last flit of its packet. -/
def Flit.isLast : Flit → Bool
  | .head h _ => h.len == 0
  | .body _ last => last

/-- A header that becomes the first flit of its buffer has waited since now. -/
def freshen (now : Nat) : List Flit → List Flit
  | .head h _ :: t => .head h now :: t
  | l => l

/-- The first flit of an input buffer leaves it; at a package port the partner has a credit back for it (R358). -/
def State.popIn (s : State) (n : Node) (key : Nat) : State :=
  let s := s.modRouter n fun r => { r with ins := r.ins.upd key [] fun l => freshen s.time l.tail }
  match n with
  | .die d => if creditLink d (key / 16) then s.modDie d fun x => { x with ports := x.ports.upd (key / 16) {} fun l => { l with ret := l.ret.upd (key % 16) 0 (· + 1) } } else s
  | .tile _ => s

/-- The local input buffer that a packet enters by: dedicated traffic has one of its own for requests and one for responses, which no best-effort packet
holds up (R367). -/
def injVc (h : Hdr) : Nat :=
  let vc := ({} : OutPort).vcFor h
  if h.ded && decide (2 < vc) then (if h.kind = kRSP then 7 else 6) else vc

/-- The local input of a node. -/
def ownPort : Node → Nat
  | .tile _ => 6
  | .die _ => 27

/-- The first packet waiting for injection whose buffer is empty; packets of one buffer keep their order. -/
def State.injectAt (s : State) (n : Node) : Option Nat :=
  findPlace (fun (p : Packet) => ((s.router n).ins.at (ownPort n * 16 + injVc p.h) []).isEmpty) (s.netIf n).txq

/-- Packets waiting for injection enter the local input buffer of their class, one at a time (R367, R368, R374). -/
def State.inject (s : State) (n : Node) : State :=
  match s.injectAt n with
  | none => s
  | some i =>
    match (s.netIf n).txq[i]? with
    | none => s
    | some p =>
      (s.modNet n fun ni => { ni with txq := delNth ni.txq i }).modRouter n fun r => { r with ins := r.ins.put (ownPort n * 16 + injVc p.h) (p.flits s.time) }

/-- The pseudo output of packets that a router discards. -/
def outDrop : Nat := 127
/-- The pseudo output of the payload of trimmed packets. -/
def outSwallow : Nat := 126

/-- The output and VC through which the packet in progress at an input buffer goes. -/
def Router.lockOf (r : Router) (key : Nat) : Option (Nat × Nat) :=
  r.outs.findSome? fun o => (o.2.lock.find? fun l => l.2 == key).map fun l => (o.1, l.1)

/-- Does a packet that leaves by a direction enter that dimension's ring here: it has not yet moved in the dimension (R360). -/
def State.entersRing (s : State) (dir : Nat) (h : Hdr) : Bool :=
  let i := dir / 2
  nfld h.spkg (4 * i + 3) (4 * i) == nfld s.pkg.pkgid.toNat (4 * i + 3) (4 * i)

/-- The flits for which the far end must have room before a flit is sent (R358, R360): two packets of 9 flits for a packet that enters a dimension ring, its
own flits for one that continues along it. -/
def State.need (s : State) (n : Node) (out : Nat) (f : Flit) : Nat :=
  match n, f with
  | .die _, .head h _ => if 24 ≤ out then 1 else if s.entersRing (out / 4) h then 18 else h.len + 1
  | _, _ => 1

/-- Has the far end of an output room for `need` flits of a VC (R358): a router's buffer; a credit link's credits, while its replay buffer takes one more flit
(R376); HQ (R379); an interface, which takes no VC2 flit while its let queue is full (R373) and no request behind one that waits on its VC (R370). -/
def State.room (s : State) (n : Node) (out vc need : Nat) : Bool :=
  match linkEnd n out with
  | some (m, port) => decide (((s.router m).ins.at (port * 16 + vc) []).length + need ≤ linkDepth n out)
  | none =>
    let ni := s.netIf n
    let own := match n with | .tile _ => out == 6 | .die _ => out == 27
    if own then (vc != 2 || decide (ni.letq.length + ni.bunts.length < 64)) && !(ni.reqs.any fun p => p.h.vc == vc)
    else match n with
      | .die d =>
        if creditLink d out then (let l := (s.die d).ports.at out {}; decide (l.used.at vc 0 + need ≤ linkDepth n out) && decide (l.replay.length < 512))
        else out != outQueue || decide (s.ngambi.hq.length < 256)
      | .tile _ => true

/-- The flit that an input buffer offers to output `out`, with its VC there: the body of a packet in progress, or a header that routes there while one of its
VCs is free and has room. -/
def State.offer (s : State) (n : Node) (out key : Nat) : Option (Nat × Flit) :=
  let r := s.router n
  match (r.ins.at key []).head? with
  | none => none
  | some (.body bs l) =>
    match r.lockOf key with
    | some (o, vc) => if o = out then some (vc, .body bs l) else none
    | none => none
  | some (.head h since) =>
    let o := (s.routeAt n (key / 16) h).getD outDrop
    if o ≠ out then none
    else
      let q := r.out out
      if o = outDrop then some (q.vcFor h, .head h since)
      else ((q.vcsFor h).find? fun vc => (q.lock.look vc).isNone && s.room n out vc (s.need n out (.head h since))).map fun vc => (vc, .head h since)

/-- What can be sent through an output in this flit slot: VC, input buffer and flit. -/
def State.offers (s : State) (n : Node) (out : Nat) : List (Nat × Nat × Flit) :=
  (s.router n).ins.keys.filterMap fun key =>
    match s.offer n out key with
    | some (vc, f) => if out = outDrop || s.room n out vc (s.need n out f) then some (vc, key, f) else none
    | none => none

/-- Round-robin over VCs 0 to 15 from a pointer. -/
def rrPick (ptr : Nat) (l : List (Nat × Nat × Flit)) : Option (Nat × Nat × Flit) :=
  ((List.range 16).map fun i => (ptr + i) % 16).findSome? fun vc => l.find? fun c => c.1 == vc

/-- The pair that owns a slot-table position (R366). -/
def OutPort.slotPair (o : OutPort) : Option Nat :=
  let e := fld o.slotsIn (4 * (o.pos % 16) + 3) (4 * (o.pos % 16))
  if 8 ≤ e ∧ e % 8 ≤ 4 then some (e % 8) else none

/-- Is the VC one of pair q. -/
def inPair (q vc : Nat) : Bool := vc == 6 + 2 * q || vc == 7 + 2 * q

/-- The flit that an output sends in this slot (R366). -/
def OutPort.choose (o : OutPort) (l : List (Nat × Nat × Flit)) : Option (Nat × Nat × Flit) :=
  let sys := l.filter fun c => c.1 ≤ 1
  let bunt := l.filter fun c => c.1 = 2
  let owed := o.owed.findSome? fun q => l.find? fun c => inPair q c.1
  let own := match o.slotPair with | some q => l.find? fun c => inPair q c.1 | none => none
  let rest := rrPick o.rr (l.filter fun c => 2 < c.1)
  let s1 := if 15 ≤ o.sysGap then rrPick o.rrSys sys else none
  let s2 := if 15 ≤ o.buntGap then bunt.head? else none
  [s1, s2, owed, own, rest, rrPick o.rrSys sys, bunt.head?].findSome? id

/-- The next flit slot: the changes to the slot table and the VC map take effect at the start of a slot-table cycle (R380). -/
def OutPort.tick (o : OutPort) : OutPort :=
  let o := { o with pos := (o.pos + 1) % 16 }
  if o.pos = 0 then { o with slotsIn := o.slots, mapIn := o.vcmap } else o

/-- Has the output something to do in a flit slot with no flit: a change of its tables that waits for a slot-table cycle. -/
def OutPort.changing (o : OutPort) : Bool := o.slotsIn != o.slots || o.mapIn != o.vcmap

/-- The output after a flit slot in which it sends no flit of a packet. -/
def OutPort.idle (o : OutPort) : OutPort := { o with sysGap := min 15 (o.sysGap + 1), buntGap := min 15 (o.buntGap + 1) }.tick

/-- The output after a flit slot in which VC vc was sent (R366). -/
def OutPort.sent (o : OutPort) (l : List (Nat × Nat × Flit)) (vc key : Nat) (f : Flit) : OutPort :=
  let lost := match o.slotPair with
    | some q => if !inPair q vc && l.any (fun c => inPair q c.1) then [q] else []
    | none => []
  OutPort.tick { o with
    lock := if f.isLast then o.lock.del vc else o.lock.put vc key,
    rr := if 2 < vc then (vc + 1) % 16 else o.rr,
    rrSys := if vc ≤ 1 then (vc + 1) % 2 else o.rrSys,
    sysGap := if vc ≤ 1 then 0 else min 15 (o.sysGap + 1),
    buntGap := if vc = 2 then 0 else min 15 (o.buntGap + 1),
    owed := (o.owed.filter fun q => !inPair q vc) ++ lost.filter fun q => !o.owed.contains q }

end Sys2Proof.Machine
end

