-- ==== Sys2Proof/Machine/TableOps.lean ====
section
/-! DEFINITION. Operations on the launch dependence table that several instructions and events share: references, fields of an entry's words, the move to
READY, notices, and the release of successors (spec/15_t_launch.md R406 to R409, R413, R416, R417, R427, R428). -/

namespace Sys2Proof.Machine

/-- A word of an entry (R406). -/
def Entry.word (en : Entry) (i : Nat) : Word := en.w.at i 0
/-- KIND of a packet or entry word 0 (R408). -/
def pktKind (w0 : Word) : Nat := fld w0 7 0
/-- NPRED. -/
def pktNpred (w0 : Word) : Nat := fld w0 11 8
/-- NIMG. -/
def pktNimg (w0 : Word) : Nat := fld w0 14 12
/-- CLASS. -/
def pktClass (w0 : Word) : Nat := fld w0 17 16
/-- COURT. -/
def pktCourt (w0 : Word) : Nat := fld w0 37 32
/-- ASID. -/
def pktAsid (w0 : Word) : Nat := fld w0 50 40

/-- The court of an entry. -/
def Entry.courtNo (en : Entry) : Nat := pktCourt (en.word 0)
/-- The ASID of an entry. -/
def Entry.asid (en : Entry) : Nat := pktAsid (en.word 0)
/-- The number of images of an entry. -/
def Entry.nimg (en : Entry) : Nat := pktNimg (en.word 0)
/-- The tile mask of image i (R409). -/
def Entry.mask (en : Entry) (i : Nat) : Nat := fld (en.word (6 + 2 * i)) 47 0
/-- The virtual address of image i (R409). -/
def Entry.imgAddr (en : Entry) (i : Nat) : Nat := fld (en.word (5 + 2 * i)) 55 0

/-- The eight SUCC fields of an entry (R406). -/
def Entry.fields (en : Entry) : List Nat := takePad 0 8 (en.succ ++ en.past)

/-- The entry with NSUCC n and the SUCC fields l. -/
def Entry.withFields (en : Entry) (n : Nat) (l : List Nat) : Entry := { en with succ := takePad 0 n l, past := l.drop n }

/-- A successor is appended (R413). -/
def Entry.append (en : Entry) (ref : Nat) : Entry := { en with succ := en.succ ++ [ref], past := en.past.tail }

/-- The reference to an entry (R406). -/
def State.refOf (s : State) (e : Nat) : Nat := (s.entry e).gen * 2 ^ 12 + e

/-- Post a notice (R428): a status or cause, a reference, a court, FDROP, TAG and FSEQ. -/
def State.notice (s : State) (kind status ref court : Nat) (fdrop : Bool) (tag fseq : Nat) : State :=
  let n := s.ngambi.noticeNo
  let w0 := place kind 0 8 + place status 8 8 + place ref 16 16 + place court 32 6 + place (bnat fdrop) 38 1
  let ws : List Word := [BitVec.ofNat 64 w0, BitVec.ofNat 64 (place tag 0 32 + place fseq 32 32), BitVec.ofNat 64 s.time,
    BitVec.ofNat 64 (2 ^ 63 + n % 2 ^ 32)]
  { s with ngambi := { s.ngambi with nq := s.ngambi.nq ++ [{ w := ws }], noticeNo := n + 1 } }

/-- A notice about an entry (R428). -/
def State.entryNotice (s : State) (kind status e : Nat) : State :=
  let en := s.entry e
  s.notice kind status (s.refOf e) en.courtNo en.fdrop (fld (en.word 13) 31 0) en.fseq

/-- A WAITING entry whose counts have reached zero becomes READY (R407, R417); it is considered from the next interval boundary on (R419). -/
def State.checkReady (s : State) (e : Nat) : State :=
  let en := s.entry e
  if en.st = 1 && en.predcnt + en.extcnt = 0 then
    s.modEntry e fun en => { en with st := 2, age := 0, readyAt := s.time, imgs := [] }
  else s

/-- An ABORTED entry becomes FREE when its last successor has left WAITING and its notice has been posted (R417). -/
def State.freeAborted (s : State) (e : Nat) : State :=
  let en := s.entry e
  let waits := (en.succ.take 8).any fun r =>
    let p := s.entry (r % 2 ^ 12)
    p.st = 1 && p.gen = r / 2 ^ 12
  if en.st = 5 && en.noticed && !waits then s.modEntry e fun en => { en with st := 0 } else s

/-- Every aborted entry is looked at anew after an event that may have taken a successor out of WAITING. -/
def State.sweepAborted (s : State) : State := s.entries.keys.foldl State.freeAborted s

/-- The end of a launch releases its successors (R427): each one's PREDCNT falls by one, in SUCC order. -/
def State.releaseSuccs (s : State) (e : Nat) : State :=
  ((s.entry e).succ.take 8).foldl (fun s r =>
    let i := r % 2 ^ 12
    if (s.entry i).st = 1 && (s.entry i).gen = r / 2 ^ 12 then
      (s.modEntry i fun p => { p with predcnt := p.predcnt - 1 }).checkReady i
    else s) s

/-! ## The order of table events (R418; notes/assumptions/3.md) -/

/-- Is a host write outstanding: in the buffers of the Ngambi link, in HQ, or on its way as stream 53 of base die s0 (R379). -/
def State.hostWrites (s : State) : Bool :=
  s.ngambi.hq.any (·.wr) || ((s.die 0).ni.outst.any fun o => o.h.stream == 53 && o.h.kind == 1)
    || (s.ngambi.rx.any fun p => p.2.h.kind == 1)
    || (List.range 16).any fun vc => ((s.die 0).rt.ins.at (76 * 16 + vc) []).any fun f => match f with | .head h _ => h.kind == 1 | .body _ _ => false

/-- The port takes the head of LQ to the dispatcher once no host write is outstanding, one packet at a time (R379; that writes which arrived after it count too:
notes/assumptions/50.md). -/
def State.takeLq (s : State) : State :=
  match s.ngambi.lq with
  | q :: rest =>
    if s.hostWrites || s.dispQ.any (·.from_ == .host) then s
    else { s with ngambi := { s.ngambi with lq := rest } }.queuePacket { from_ := .host, words := q }
  | [] => s

/-- Has every command that the launch's tasks queued retired (R27). -/
def State.engineDone (s : State) (e : Nat) : Bool :=
  (s.entry e).tiles.all fun t => !((s.tile t).colq ++ (s.tile t).cpyq).any fun c => c.entry == e

/-- Has a launch ended (R27). -/
def State.launchOver (s : State) (e : Nat) : Bool :=
  let en := s.entry e
  decide (en.st = 3) && en.started && decide (en.live = 0) && !en.aborting && s.engineDone e

/-- The place of a launch's end among the table events of one cycle: base die s0's before those of the other stacks. -/
def State.endRank (s : State) (e : Nat) : Nat := if fld ((s.court (s.entry e).courtNo).w.at 0 0) 46 45 = 0 then 1 else 2

/-- Do ends of launches come before a packet that has come in this cycle: those of a lower place than its poster's. -/
def State.endsFirst (s : State) (p : PostReq) : Bool :=
  p.came == s.time && s.entries.keys.any fun e => decide (s.endRank e < p.from_.rank) && s.launchOver e

/-- Does nothing at the dispatcher stand before a message that comes to it now. -/
def State.dispFree (s : State) : Bool := s.takeLq.dispQ.isEmpty

/-- DEPDONE at the dispatcher (R416): the cause with which it is refused, or the new state. -/
def State.depdoneAt (s : State) (ref : Nat) (priv : Bool) (court : Nat) : Except (BitVec 8) State :=
  let e := ref % 2 ^ 12
  let en := s.entry e
  if en.gen ≠ ref / 2 ^ 12 ∨ en.st ≠ 1 ∨ en.extcnt = 0 then .error cRange
  else if !priv && en.courtNo != court then .error cPerm
  else .ok ((s.modEntry e fun en => { en with extcnt := en.extcnt - 1 }).checkReady e).sweepAborted

end Sys2Proof.Machine
end

