-- ==== Sys2Proof/Machine/Serve.lean ====
section
/-! DEFINITION. What an interface does with a request: the duplicate window, holding and releasing, the units that perform requests, and the answers
(spec/09_q_engines.md R246; spec/13_q_fabric.md R362, R364, R368 to R374; spec/12_q_cells.md R346; spec/14_q_stop.md R394). -/

namespace Sys2Proof.Machine

/-! ## Answers -/

/-- STATUS codes of R362. -/
def RStat.code : RStat → Nat
  | .ok => 0
  | .poison => 1
  | .notres => 2
  | .fail => 3
  | .unknown => 3
  | .busy => 4

/-- STILE of a node. -/
def nodeBits : Node → Nat
  | .tile t => tileBits t
  | .die d => d * 2 ^ 8

/-- A RSP to a request leaves a node (R364): those to the host's port and to the management core go to their base die. -/
def State.sendRsp (s : State) (n : Node) (h : Hdr) (status : Nat) (data : List MByte) : State :=
  let rsp : Hdr := {
    dpkg := h.spkg, dtile := h.stile, bd := h.stream == 53 || h.stream == 52, unit := if h.stream = 53 then 4 else if h.stream = 52 then 2 else 0,
    spkg := s.pkg.pkgid.toNat, stile := nodeBits n, kind := kRSP, stream := h.stream, seq := h.seq, rtag := h.rtag, status := status,
    len := payFlits data.length, nbm1 := data.length - 1, asid := h.asid, ded := h.ded, crt := h.crt,
    aop := if h.kind = kATM then h.aop else 15 }
  s.modNet n fun ni => { ni with txq := ni.txq ++ [{ h := rsp, pay := data }] }

/-- A - B modulo 2^32, signed (R369). -/
def sdiff (a b : Nat) : Int := sgn 32 (a + 2 ^ 32 - b)

/-- Is this the window entry of the header's source stream (R369). -/
def WinEnt.isFor (e : WinEnt) (h : Hdr) : Bool := e.pkg == h.spkg && e.tile == h.stile && e.stream == h.stream

/-- Move an entry's base up to a new lowest sequence number (R369). -/
def WinEnt.raise (e : WinEnt) (low : Nat) : WinEnt :=
  let k := sdiff low e.base
  if 0 < k then
    let m := min k.toNat 64
    { e with base := low, mask := e.mask >>> m, perf := e.perf >>> m }
  else e

/-- The window with an entry for an arriving request, raised to its LOWOFF (R369); none when no entry is free: BUSY. -/
def winTouch (win : List WinEnt) (h : Hdr) (now : Nat) : Option (List WinEnt) :=
  let low := (h.seq + 2 ^ 32 - h.lowoff) % 2 ^ 32
  let fresh : WinEnt := { pkg := h.spkg, tile := h.stile, stream := h.stream, base := low, mask := 0, perf := 0, used := now }
  match findPlace (fun e => e.isFor h) win with
  | some i => some (updNth win i fun e => { e.raise low with used := now })
  | none =>
    if win.length < 128 then some (win ++ [fresh])
    else
      match findPlace (fun e => e.used + 2 ^ 23 ≤ now) win with
      | some i => some (updNth win i fun _ => fresh)
      | none => none

/-- A request's place in its stream's window. -/
def winPlace (win : List WinEnt) (h : Hdr) (seq : Nat) : Option (WinEnt × Int) :=
  (win.find? fun e => e.isFor h).map fun e => (e, sdiff seq e.base)

/-- Has a request of a stream been seen (R369). -/
def winSeen (win : List WinEnt) (h : Hdr) (seq : Nat) : Bool :=
  match winPlace win h seq with
  | some (e, d) => decide (d < 0) || (decide (d < 64) && e.mask.getLsbD d.toNat)
  | none => false

/-- Has a request of a stream been performed (R369, R370). -/
def winDone (win : List WinEnt) (h : Hdr) (seq : Nat) : Bool :=
  match winPlace win h seq with
  | some (e, d) => decide (d < 0) || (decide (d < 64) && e.perf.getLsbD d.toNat)
  | none => true

/-- Set or clear the bits of a request in its window entry. -/
def winSet (win : List WinEnt) (h : Hdr) (seen done : Bool) : List WinEnt :=
  win.map fun e =>
    let d := sdiff h.seq e.base
    if e.isFor h && decide (0 ≤ d) && decide (d < 64) then
      let b : BitVec 64 := 1#64 <<< d.toNat
      { e with mask := if seen then e.mask ||| b else e.mask &&& ~~~b, perf := if done then e.perf ||| b else e.perf &&& ~~~b }
    else e

/-- A unit answers a request at a node: it counts as performed, and later requests of its stream that wait for it may go on; a BUSY answer leaves it
unseen, for the same packet comes again (R369, R370). -/
def State.answer (s : State) (n : Node) (h : Hdr) (r : Reply) : State :=
  let busy := r.stat == .busy
  (s.modNet n fun ni => { ni with win := winSet ni.win h (!busy) (!busy) }).sendRsp n h r.stat.code r.data

/-! ## Units -/

/-- The court that holds a tile now (R435, R436). -/
def State.tileCourt (s : State) (t : Nat) : Option Nat :=
  s.courts.keys.find? fun n => let c := s.court n; c.v && (c.st == 1 || c.st == 2) && c.tiles.contains t

/-- Does an ASID belong to a court that is stopped or saved (R394). -/
def State.asidStopped (s : State) (asid : Nat) : Bool :=
  (s.courts.any fun p => p.2.v && p.2.st == 2 && p.2.curasid == asid)
    || (s.entries.any fun p => p.2.st == 4 && p.2.asid == asid)

/-- The check of R394 at a tile: none where it may be served, else the answer. -/
def State.asidCheck (s : State) (t asid : Nat) : Option RStat :=
  if s.role t = 2 then none
  else if s.role t ≠ 1 then some .fail
  else if (s.tileCourt t).isSome && (s.tile t).reg.asid.toNat == asid then none
  else if s.asidStopped asid then some .busy
  else some .fail

/-- A MSG at its tile (R246): appended to the channel of a live task of the sender's court, or FAIL, or BUSY. -/
def State.serveMsg (s : State) (t : Nat) (p : Packet) : State × RStat :=
  let sl := s.slot t p.h.tslot
  let same := match sl.task with | some _ => courtCrt (s.tile t).reg.court == p.h.crt && (s.tileCourt t).isSome | none => false
  if !same then (s, .fail)
  else if 8 ≤ sl.chan.length then (s, .busy)
  else
    let w : PWord := { val := BitVec.ofNat 64 (payWord (p.pay.take 8)), poi := (p.pay.take 8).any (·.poi) }
    (s.modSlot t p.h.tslot fun sl => { sl with chan := sl.chan ++ [w] }.wake 0, .ok)

/-- Part of a read or a write: l bytes from offset o on, with no counter. -/
def MemOp.part (op : MemOp) (o l : Nat) : MemOp :=
  match op with
  | .read _ => .read l
  | .write d _ => .write ((d.drop o).take l) none
  | op => op

/-- A scratchpad access of the fabric waits for its bank; one whose bytes lie in several 64-byte lines waits for the bank of each (R156, R157). -/
def Tile.queueNet (x : Tile) (p : Packet) : Tile :=
  let ps := cutAt 64 8 p.h.addr 0 (p.h.nbm1 + 1)
  if p.h.kind = kATM ∨ p.h.aop = 12 ∧ p.h.kind = kRD ∨ ps.length ≤ 1 then { x with netReq := x.netReq ++ [{ who := .net p.h, off := p.h.addr, op := p.op }] }
  else
    { x with
      netReq := x.netReq ++ ((List.range ps.length).zip ps |>.map fun q => { who := .part p.h q.1, off := p.h.addr + q.2.1, op := p.op.part q.2.1 q.2.2 }),
      gather := x.gather ++ [{ h := p.h, ctr := if p.h.kind ≠ kRD ∧ p.h.cen then some p.h.coff else none,
                               bytes := ((p.pay.take (p.h.nbm1 + 1)).filter (·.en)).length, left := ps.length }] }

/-- A request goes to its unit (R362, R369): a scratchpad access to the bank's queue, a message to the channel, a base die request to the controllers; any
other unit answers FAIL. -/
def State.serve (s : State) (n : Node) (p : Packet) : State :=
  match n with
  | .tile t =>
    match s.asidCheck t p.h.asid with
    | some st => s.answer n p.h ⟨st, []⟩
    | none =>
      if p.h.unit = 1 && p.h.kind = kMSG then
        let r := s.serveMsg t p
        r.1.answer n p.h ⟨r.2, []⟩
      else if p.h.unit = 0 && p.h.kind ≠ kMSG && decide (p.h.addr + p.h.nbm1 + 1 ≤ 2 ^ 22) then
        s.modTile t fun x => x.queueNet p
      else s.answer n p.h ⟨.fail, []⟩
  | .die d =>
    if (p.h.unit = 3 ∨ p.h.unit = 4) ∧ p.h.bd then
      let home : Home :=
        if p.h.mig then .mig p.h.asid p.h.addr
        else if p.h.tgt = 0 then .hbm p.h.addr
        else if p.h.tgt = 1 then .second p.h.addr
        else .host p.h.addr
      s.modDie d fun x => { x with reqs := x.reqs ++ [{ h := p.h, pay := p.pay, home := home, arrived := s.time }] }
    else s.answer n p.h ⟨.fail, []⟩

/-- A request that names an earlier one may perform once that has performed (R370). -/
def NetIf.mayPerform (ni : NetIf) (h : Hdr) : Bool := !h.ord || winDone ni.win h ((h.seq + 2 ^ 32 - h.depoff) % 2 ^ 32)

/-- The held requests of a stream that may now perform. -/
def NetIf.releasable (ni : NetIf) (h : Hdr) : List Packet :=
  ni.reseq.filter fun p => p.h.spkg == h.spkg && p.h.stile == h.stile && p.h.stream == h.stream && ni.mayPerform p.h

/-- Queue a let request for the source of a trimmed request (R372, R373). -/
def NetIf.askLet (ni : NetIf) (h : Hdr) : NetIf :=
  { ni with letq := ni.letq ++ [{ pkg := h.spkg, tile := h.stile, stream := h.stream, seq := h.seq }] }

/-- A request that can not be handled yet (R370): held requests of its stream perform first; or it would be held, the buffer is full, and it can not be
trimmed, because its traffic is dedicated, it has no payload, or the let queue is full. -/
def NetIf.blocked (ni : NetIf) (p : Packet) (now : Nat) : Bool :=
  !(ni.releasable p.h).isEmpty ||
    (match winTouch ni.win p.h now with
     | none => false
     | some win =>
       !winSeen win p.h p.h.seq && !({ ni with win := win }.mayPerform p.h) && decide (64 ≤ ni.reseq.length)
         && (p.h.ded || p.h.kind == kRD || decide (64 ≤ ni.letq.length)))

/-- The place of the first received request that can be handled, with no earlier one on its VC. -/
def NetIf.firstFree (ni : NetIf) (now : Nat) : List Packet → List Nat → Nat → Option Nat
  | [], _, _ => none
  | p :: rest, vcs, i =>
    if vcs.contains p.h.vc || ni.blocked p now then NetIf.firstFree ni now rest (p.h.vc :: vcs) (i + 1) else some i

/-- A request received at an interface is handled (R369, R370). -/
def State.arrive (s : State) (n : Node) : State :=
  let ni := s.netIf n
  match ni.firstFree s.time ni.reqs [] 0 with
  | none => s
  | some i =>
    match ni.reqs[i]? with
    | none => s
    | some p =>
      let taken := s.modNet n fun ni => { ni with reqs := delNth ni.reqs i }
      match winTouch ni.win p.h s.time with
      | none => taken.sendRsp n p.h 4 []
      | some win =>
        let s1 := taken.modNet n fun ni => { ni with win := win }
        if winSeen win p.h p.h.seq then
          if winDone win p.h p.h.seq && p.h.kind ≠ kRD then s1.sendRsp n p.h 5 [] else s1
        else if (s1.netIf n).mayPerform p.h then
          (s1.modNet n fun ni => { ni with win := winSet ni.win p.h true false }).serve n p
        else if ni.reseq.length < 64 then
          s1.modNet n fun ni => { ni with win := winSet ni.win p.h true false, reseq := ni.reseq ++ [p], reseqN := min (ni.reseqN + 1) (2 ^ 32 - 1) }
        else s1.modNet n fun ni => ni.askLet p.h

/-- A held request performs (R370): the lowest SEQ of its stream first. -/
def State.release (s : State) (n : Node) : State :=
  let ni := s.netIf n
  let first := fun (p : Packet) => ni.mayPerform p.h && (ni.releasable p.h).all fun q => decide (sdiff p.h.seq q.h.seq ≤ 0)
  match findPlace first ni.reseq with
  | none => s
  | some i =>
    match ni.reseq[i]? with
    | none => s
    | some p => (s.modNet n fun ni => { ni with reseq := delNth ni.reseq i }).serve n p

end Sys2Proof.Machine
end

