-- ==== Sys2Proof/Machine/Control.lean ====
section
/-! DEFINITION. Branches, calls, returns and hardware loops (spec/03_reg_core.md R100 to R107). -/

namespace Sys2Proof.Machine

/-- Is a target outside the instruction store (R100, R101). -/
def outsideStore (t : Int) : Bool := decide (t < 0) || decide ((0x3FFFC : Int) < t)

/-- A transfer is taken: PC := target; no loop-end check (R106). -/
def State.goTo (s : State) (t : Nat) (f : RegFile → RegFile) : Out :=
  s.retireTo fun sl => sl.modRf fun r => { f r with pc := BitVec.ofNat 32 t }

/-- The checks of a register target (R101, R102): ALIGN, then RANGE, TVAL the target. -/
def State.checkTarget (s : State) (t : Word) (body : Out) : Out :=
  if t.toNat % 4 ≠ 0 then s.trapHere cAlign t
  else if 0x3FFFC < t.toNat then s.trapHere cRange t
  else body

/-- Push the return address on the link registers (R101). -/
def RegFile.pushLk (r : RegFile) : RegFile := { (r.setLk r.lkd.toNat (r.pc + 4)) with lkd := r.lkd + 1 }

/-- BR (R100). -/
def execBr (g : BitVec 4) (d : BitVec 22) (s : State) : Out :=
  let t := branchTarget s.cur.rf.pc d
  s.issue { g := g } (if outsideStore t then s.trapHere cRange (int64 t) else s.goTo t.toNat id)

/-- CALL (R101). -/
def execCall (g : BitVec 4) (d : BitVec 22) (s : State) : Out :=
  let t := branchTarget s.cur.rf.pc d
  s.issue { g := g } (if s.cur.rf.lkd = 4 then s.trapHere cCallDepth (s.cur.rf.lkd.setWidth 64)
    else if outsideStore t then s.trapHere cRange (int64 t)
    else s.goTo t.toNat RegFile.pushLk)

/-- JMPR (R102). -/
def execJmpr (g : BitVec 4) (a : BitVec 6) (s : State) : Out :=
  s.issue { g := g, rd := [a.toNat] } (s.consume [a.toNat]
    (s.checkTarget (s.reg a.toNat) (s.goTo (s.reg a.toNat).toNat id)))

/-- CALLR (R101). -/
def execCallr (g : BitVec 4) (a : BitVec 6) (s : State) : Out :=
  s.issue { g := g, rd := [a.toNat] } (s.consume [a.toNat]
    (if s.cur.rf.lkd = 4 then s.trapHere cCallDepth (s.cur.rf.lkd.setWidth 64)
     else s.checkTarget (s.reg a.toNat) (s.goTo (s.reg a.toNat).toNat RegFile.pushLk)))

/-- RET (R103): the link register keeps its value. -/
def execRet (g : BitVec 4) (s : State) : Out :=
  let r := s.cur.rf
  let t := (r.lk (r.lkd.toNat - 1)).toNat
  s.issue { g := g } (if r.lkd = 0 then s.trapHere cCallDepth 0
    else if 0x3FFFC < t then s.trapHere cRange (BitVec.ofNat 64 t)
    else s.goTo t fun r => { r with lkd := r.lkd - 1 })

/-- LOOP (R105). -/
def execLoop (g : BitVec 4) (n : BitVec 1) (a : BitVec 6) (i : BitVec 10) (s : State) : Out :=
  let pc := s.cur.rf.pc
  let stop := pc.toNat + 4 * i.toNat
  let c : LoopCtr := { count := s.reg a.toNat, start := pc + 4, stop := BitVec.ofNat 32 stop }
  s.issue { g := g, rd := [a.toNat] } (s.consume [a.toNat]
    (if 0x3FFFC < stop then s.trapHere cRange (BitVec.ofNat 64 stop)
     else s.retireTo fun sl => sl.modRf fun r =>
       let r := if n = 0 then { r with lc0 := c } else { r with lc1 := c }
       { r with pc := if c.count = 0 then BitVec.ofNat 32 stop + 4 else pc + 4 }))

end Sys2Proof.Machine
end

