-- ==== Sys2Proof/Machine/Ready.lean ====
section
/-! DEFINITION. When the next instruction of a task is ready (spec/01_machine.md R30; spec/03_reg_core.md R84; spec/04_reg_arith.md R121, R125;
spec/05_reg_state.md R143 to R150; spec/06_mem_spaces.md R168, R172; spec/09_q_engines.md R233, R240, R243, R246, R247): the conditions that the
meanings of the system and engine instructions share with the choice among ready tasks. -/

namespace Sys2Proof.Machine

/-! ## Conditions of single instructions -/

/-- The destination value of SEND is well formed and names a tile of the court (R245, R246). -/
def sendOk (court dst : Word) : Bool :=
  fld dst 63 16 == 0 && fld dst 9 4 == 0 && decide (fld dst 15 13 ≤ courtRowsM1 court) && decide (fld dst 12 10 ≤ courtColsM1 court)

/-- Every access of the task has performed or completed: a release may go on (R217, R240). -/
def Slot.quiet (sl : Slot) : Bool := sl.accs.isEmpty

/-- No floating instruction of the task is in flight (R121). -/
def Slot.flagsStable (sl : Slot) : Bool := !sl.infl.any (·.isFp)

/-- The task has no scan outstanding (R150). -/
def Slot.scanFree (sl : Slot) : Bool :=
  match sl.task with
  | none => true
  | some ti => ti.scan.isNone

/-- EXIT may free the slot (R88, R143): no access, scan or in-flight result is outstanding. -/
def Slot.exitReady (sl : Slot) : Bool := sl.accs.isEmpty && sl.infl.isEmpty && sl.scanFree

/-- The engine queue of a COL (e = 1) or CPY (e = 2) command has a free entry (R230, R233). -/
def Tile.cmdRoom (x : Tile) (e : Nat) : Bool :=
  if e = 1 then decide (x.colq.length < 8) else decide (x.cpyq.length < 16)

/-- Has the task an earlier SEND to the same destination that has not completed (R246). -/
def Slot.sendOpen (sl : Slot) (dst : Word) : Bool := sl.accs.any fun a => a.kind == .send && a.ea == dst

/-- Pending() of R145: the wake conditions that hold for slot k of the tile. -/
def Tile.pending (x : Tile) (k now deadline : Nat) : BitVec 5 :=
  let sl := x.slot k
  let h := nbit x.reg.handler.toNat 4 && x.reg.handler.toNat % 16 == k
  BitVec.ofNat 5 (bnat (!sl.chan.isEmpty) + 2 * bnat (!(x.fifoAt 1).isEmpty) + 4 * bnat (!(x.fifoAt 3).isEmpty)
    + 8 * bnat (decide (deadline ≤ now)) + 16 * bnat (h && x.reg.trapset != 0))

/-- The commands that the task has queued to the engines of a mask and that have not retired (R243): bit 0 COL, bit 1 CPY. -/
def Tile.taskCmds (x : Tile) (k entry mask : Nat) : List Nat :=
  let mine := fun (c : Cmd) => c.slot == k && c.entry == entry
  (if nbit mask 0 then (x.colq.filter mine).map (·.uid) else []) ++ (if nbit mask 1 then (x.cpyq.filter mine).map (·.uid) else [])

/-- Is a command still in its queue. -/
def Tile.hasCmd (x : Tile) (uid : Nat) : Bool := x.colq.any (·.uid == uid) || x.cpyq.any (·.uid == uid)

/-- Has the requested divisor of a CLKDIV taken effect (R146). -/
def Tile.divDone (x : Tile) (k : Nat) : Bool := !x.reg.newDiv.any fun p => p.1 == k

/-! ## What an instruction reads, writes and waits for -/

/-- The registers, predicates, units and class of an instruction word; none for an event. -/
def instrNeed : Instr → Option Need
  | .add g d a b | .sub g d a b | .and g d a b | .or g d a b | .xor g d a b | .andn g d a b | .shl g d a b | .shr g d a b
  | .sra g d a b | .rol g d a b | .min g d a b | .max g d a b | .minu g d a b | .maxu g d a b | .mul g d a b | .mulh g d a b
  | .mulhu g d a b | .fadd g d a b | .fsub g d a b | .fmul g d a b | .fmin g d a b | .fmax g d a b | .adds g d a b _ =>
    some { g := g, rd := [a.toNat, b.toNat], wr := [d.toNat] }
  | .madd g d a b | .fma g d a b => some { g := g, rd := [a.toNat, b.toNat, d.toNat], wr := [d.toNat] }
  | .div g d a b | .divu g d a b | .rem g d a b | .remu g d a b =>
    some { g := g, rd := [a.toNat, b.toNat], wr := [d.toNat], div := true }
  | .fdiv g d a b => some { g := g, rd := [a.toNat, b.toNat], wr := [d.toNat], fdiv := true }
  | .fsqrt g d a => some { g := g, rd := [a.toNat], wr := [d.toNat], fdiv := true }
  | .clz g d a | .ctz g d a | .popc g d a | .brev g d a | .bswap g d a | .sextb g d a | .sexth g d a | .sextw g d a
  | .zextb g d a | .zexth g d a | .zextw g d a | .addi g d a _ | .andi g d a _ | .ori g d a _ | .xori g d a _ | .shli g d a _
  | .shri g d a _ | .srai g d a _ | .fabs g d a | .fneg g d a | .fclass g d a | .fcvt g d a _ _ _ | .scnr g d a
  | .clkdiv g d a _ => some { g := g, rd := [a.toNat], wr := [d.toNat] }
  | .launch g d a => some { g := g, rd := [a.toNat], wr := [d.toNat], cls := .launch }
  | .movi g d _ => some { g := g, wr := [d.toNat] }
  | .movh g d _ => some { g := g, rd := [d.toNat], wr := [d.toNat] }
  | .cmp g p _ a b | .fcmp g p _ a b => some { g := g, rd := [a.toNat, b.toNat], wp := [p.toNat] }
  | .cmpi g p _ a _ => some { g := g, rd := [a.toNat], wp := [p.toNat] }
  | .pand g d a b | .por g d a b | .pxor g d a b | .pandn g d a b => some { g := g, rp := [a.toNat, b.toNat], wp := [d.toNat] }
  | .pnot g d a | .pmov g d a => some { g := g, rp := [a.toNat], wp := [d.toNat] }
  | .sel g d a b _ p => some { g := g, rd := [a.toNat, b.toNat], wr := [d.toNat], rp := [p.toNat] }
  | .br g _ | .call g _ | .ret g | .fence g _ | .fenceAcq g _ | .fenceRel g _ | .trap g _ | .svc g _ | .eret g | .exit g
  | .yield g | .efence g _ => some { g := g }
  | .jmpr g a | .callr g a | .loop g _ a _ | .puts g a _ => some { g := g, rd := [a.toNat] }
  | .ldb g d b _ | .ldh g d b _ | .ldw g d b _ | .ldd g d b _ | .ldbu g d b _ | .ldhu g d b _ | .ldwu g d b _ =>
    some { g := g, rd := [b.toNat], wr := [d.toNat], cls := .load }
  | .stb g d b _ | .sth g d b _ | .stw g d b _ | .std g d b _ => some { g := g, rd := [b.toNat, d.toNat], cls := .store }
  | .amo g d a b _ | .amoAcq g d a b _ | .amoRel g d a b _ | .amoAr g d a b _ =>
    some { g := g, rd := [a.toNat, b.toNat, d.toNat], wr := [d.toNat], cls := .amo }
  | .bpost g a b => some { g := g, rd := [a.toNat, b.toNat], cls := .post }
  | .bwait g a => some { g := g, rd := [a.toNat], cls := .bwait }
  | .tokw g _ => some { g := g, cls := .tokw }
  | .toks g _ => some { g := g, cls := .toks }
  | .send g a b => some { g := g, rd := [a.toNat, b.toNat], cls := .send }
  | .recv g d => some { g := g, wr := [d.toNat] }
  | .wait g d a => some { g := g, rd := [d.toNat, a.toNat], wr := [d.toNat] }
  | .gets g d _ | .eqry g d _ => some { g := g, wr := [d.toNat] }
  | .scnw g d a => some { g := g, rd := [a.toNat, d.toNat] }
  | .depdone g a => some { g := g, rd := [a.toNat], cls := .depdone }
  | .cfgld g a _ | .cstop g a _ => some { g := g, rd := [a.toNat], cls := .cmd }
  | .cfgpart g a b _ | .fire g a b _ | .bind g a b _ | .tset g a b _ | .cpys g a b _ | .cpyd g a b _ | .copy g a b _
  | .cpyf g a b _ => some { g := g, rd := [a.toNat, b.toNat], cls := .cmd }
  | _ => none

/-- Room for the access that a load, store or AMO names by register b; true where it traps (R168, R173). -/
def State.addrRoom (s : State) (b : BitVec 6) (ea : Word) (size : Nat) (isStore : Bool) (bytes : Nat) : Bool :=
  if (s.cur.rf.get b.toNat).poi || ea.toNat % size ≠ 0 then true
  else
    match s.cur.classify s.curTile.reg.court ea size with
    | .error _ => true
    | .ok pl => s.accRoom pl isStore bytes

/-- Is a SEND ready (R246): it traps, or no earlier SEND to its destination is open and there is room. -/
def State.sendReady (s : State) (a : BitVec 6) : Bool :=
  let dst := s.reg a.toNat
  (s.cur.rf.get a.toNat).poi || !sendOk s.curTile.reg.court dst
    || (!s.cur.sendOpen dst && s.cur.windowRoom && decide (s.curTile.outbox.length < 16) && s.curTile.ni.canSend s.focusS 8)

/-- Is a LAUNCH ready (R415): it traps, or its release is done. -/
def State.launchReady (s : State) (a : BitVec 6) : Bool :=
  let p := s.reg a.toNat
  (s.cur.rf.get a.toNat).poi || p.toNat % 8 != 0 || s.cur.quiet
    || (match s.cur.classify s.curTile.reg.court p 128 with | .ok (.loc _) => false | _ => true)

/-- Is a DEPDONE ready (R416): it traps, or its release is done. -/
def State.depdoneReady (s : State) (a : BitVec 6) : Bool :=
  (s.cur.rf.get a.toNat).poi || decide (2 ^ 16 ≤ (s.reg a.toNat).toNat) || s.cur.quiet

/-- The instruction's own readiness, once its operands are free (R168, R172, R233, R240, R246, R247, R150). -/
def State.ownReady (s : State) : Instr → Bool
  | .ldb _ _ b i | .ldbu _ _ b i => s.addrRoom b (effAddr (s.reg b.toNat) i 1) 1 false 0
  | .ldh _ _ b i | .ldhu _ _ b i => s.addrRoom b (effAddr (s.reg b.toNat) i 2) 2 false 0
  | .ldw _ _ b i | .ldwu _ _ b i => s.addrRoom b (effAddr (s.reg b.toNat) i 4) 4 false 0
  | .ldd _ _ b i => s.addrRoom b (effAddr (s.reg b.toNat) i 8) 8 false 0
  | .stb _ _ b i => s.addrRoom b (effAddr (s.reg b.toNat) i 1) 1 true 1
  | .sth _ _ b i => s.addrRoom b (effAddr (s.reg b.toNat) i 2) 2 true 2
  | .stw _ _ b i => s.addrRoom b (effAddr (s.reg b.toNat) i 4) 4 true 4
  | .std _ _ b i => s.addrRoom b (effAddr (s.reg b.toNat) i 8) 8 true 8
  | .amo _ _ a _ _ | .amoAcq _ _ a _ _ => s.addrRoom a (s.reg a.toNat) 8 false 16
  | .amoRel _ _ a _ _ | .amoAr _ _ a _ _ => s.cur.relReady && s.addrRoom a (s.reg a.toNat) 8 false 16
  | .bpost _ a _ => s.addrRoom a (s.reg a.toNat) 8 true 8
  | .bwait _ a => s.addrRoom a (s.reg a.toNat) 8 false 0
  | .tokw _ e => !(s.curTile.fifoAt (if e = 0 then 1 else 3)).isEmpty
  | .toks _ e => s.curTile.fifoRoom (if e = 0 then 0 else 2) && s.cur.quiet
  | .send _ a _ => s.sendReady a
  | .recv _ _ => !s.cur.chan.isEmpty
  | .gets _ _ n | .puts _ _ n => n != 4 || s.cur.flagsStable
  | .scnr _ _ _ | .scnw _ _ _ => s.cur.scanFree
  | .exit _ => s.cur.exitReady
  | .launch _ _ a => s.launchReady a
  | .depdone _ a => s.depdoneReady a
  | .cfgld _ _ _ | .cfgpart _ _ _ _ | .fire _ _ _ _ | .bind _ _ _ _ | .tset _ _ _ _ | .cstop _ _ _ => s.curTile.cmdRoom 1
  | .cpys _ _ _ _ | .cpyd _ _ _ _ | .copy _ _ _ _ | .cpyf _ _ _ _ => s.curTile.cmdRoom 2
  | _ => true

/-- May an instruction at which the task already stands complete now. -/
def State.heldReady (s : State) : Hold → Bool
  | .none => true
  | .yield since others => s.curTile.yieldOver s.time since others
  | .wait m dl _ => (m &&& s.curTile.pending s.focusS s.time dl) != 0
  | .bwait _ _ _ | .bwatch _ _ _ | .launch _ _ _ => false
  | .efence m cmds => m == m && !cmds.any s.curTile.hasCmd
  | .fence a c => !(FenceHold.stands { rel := true, accs := a, cmds := c } s.curTile s.cur)
  | .clkdiv _ _ _ => s.curTile.divDone s.focusS

/-- The instruction word at the PC of the focused task (R44, R57); none when the PC is outside the instruction store. Of a word that has been overwritten R57
lets a fetch give the old or the new value: that it gives what the store holds now is the model's choice (notes/assumptions/102.md). -/
def State.fetch (s : State) : Option IWord :=
  let pc := s.cur.rf.pc.toNat
  if 0x3FFFC < pc then none else some (BitVec.ofNat 32 (s.mem.readN (istoreKey s.focusT pc) 4))

/-- Is the focused task ready (R30). -/
def State.curReady (s : State) : Bool :=
  let sl := s.cur
  let x := s.curTile
  match sl.task with
  | none => false
  | some ti =>
    if ti.stopped || ti.halted || (ti.trap.isSome && !ti.hold.inside) || sl.stop.state != 0 || (sl.sr.fen != 0 && sl.infl.any (·.isFp)) then false
    else
      match ti.hold with
      | .none | .yield _ _ =>
        s.heldReady ti.hold && !s.stopsHere &&
          (match s.fetch with
           | none => true
           | some w =>
             match decodeWord w with
             | .error _ => true
             | .ok i =>
               match instrNeed i with
               | none => true
               | some n =>
                 !sl.busyPred (n.g.toNat % 8) &&
                   (!sl.rf.guardTrue n.g || (sl.operandsFree x n && !sl.fenced x n.cls && s.ownReady i)))
      | h => s.heldReady h

/-- Is slot k of tile t ready (R30). -/
def State.ready (s : State) (t k : Nat) : Bool := { s with focusT := t, focusS := k }.curReady

end Sys2Proof.Machine
end

