-- ==== Sys2Proof/Machine/System.lean ====
section
/-! DEFINITION. Tokens, channels, traps, ending, waiting, state registers, clock divisors and the launch instructions
(spec/05_reg_state.md R133 to R146; spec/09_q_engines.md R240, R245 to R247; spec/15_t_launch.md R415, R416). -/

namespace Sys2Proof.Machine

/-! ## Tokens and channels -/

/-- TOKW (R240, R241): the token is consumed even when its cause traps. -/
def execTokw (g : BitVec 4) (e : BitVec 1) (s : State) : Out :=
  let f := if e = 0 then 1 else 3
  s.issue { g := g, cls := .tokw }
    (match s.curTile.fifoAt f with
     | [] => .next s
     | tok :: _ =>
       let s := s.modTile s.focusT fun x => x.popTok f
       let c : BitVec 8 := tok.extractLsb' 8 8
       if c ≠ 0 then s.trapAfter c (tok.setWidth 64) else s.retire id)

/-- TOKS (R240): a release. -/
def execToks (g : BitVec 4) (e : BitVec 1) (s : State) : Out :=
  let f := if e = 0 then 0 else 2
  s.issue { g := g, cls := .toks }
    (if s.curTile.fifoRoom f && s.cur.quiet then (s.pushTok s.focusT f (token 0 0 0x3F)).retire id
     else .next s)

/-- Put a SEND word into the message port and its packet into the interface (R246, R362). -/
def State.sendMsg (s : State) (t slot : Nat) (dst : Word) (w : PWord) (k : Nat) : State :=
  let court := (s.tile t).reg.court
  let h := { s.srcHdr t slot with
    dpkg := s.pkg.pkgid.toNat, dtile := tileBits (courtTile court (fld dst 15 13) (fld dst 12 10)),
    kind := kMSG, unit := 1, tslot := fld dst 3 0, nbm1 := 7 }
  let s := s.modTile t fun x => { x with outbox := x.outbox ++ [{ slot := slot, dst := dst, w := w, k := k, sent := true }] }
  s.modNet (.tile t) fun n => n.request h (storeBytes 8 w) (.task t slot k) s.time

/-- SEND (R246): the word is a move. -/
def execSend (g : BitVec 4) (a b : BitVec 6) (s : State) : Out :=
  s.issue { g := g, rd := [a.toNat, b.toNat], cls := .send } (s.consume [a.toNat]
    (let dst := s.reg a.toNat
     if !sendOk s.curTile.reg.court dst then s.trapHere cRange dst
     else if s.cur.sendOpen dst || !s.cur.windowRoom || 16 ≤ s.curTile.outbox.length || !s.curTile.ni.canSend s.focusS 8 then .next s
     else
       let k := s.nextId
       let acc : TaskAcc := { k := k, kind := .send, window := true, ea := dst }
       (({ s with nextId := k + 1 }.modCur fun sl => { sl with accs := sl.accs ++ [acc] }).sendMsg s.focusT s.focusS dst
         (s.cur.rf.get b.toNat) k).retire id))

/-- RECV (R247). -/
def execRecv (g : BitVec 4) (d : BitVec 6) (s : State) : Out :=
  s.issue { g := g, wr := [d.toNat] }
    (match s.cur.chan with
     | [] => .next s
     | w :: rest => s.retire fun sl => ({ sl with chan := rest }).modRf fun r => r.set d.toNat w)

/-! ## Traps, return from a trap, ending -/

/-- TRAP (R139, R141): BREAK with the code, TEPC the following instruction. -/
def execTrap (g : BitVec 4) (n : BitVec 6) (s : State) : Out := s.issue { g := g } (s.trapAfter cBreak (n.setWidth 64))

/-- SVC (R139, R141). -/
def execSvc (g : BitVec 4) (n : BitVec 6) (s : State) : Out := s.issue { g := g } (s.trapAfter cSvc (n.setWidth 64))

/-- ERET (R142): the target runs on at its TEPC, or ends; the handler goes on. -/
def execEret (g : BitVec 4) (s : State) : Out :=
  let w := (encode (.eret g)).getD 0
  s.issuePriv w { g := g }
    (let r := s.curTile.reg
     let t := r.htgt.toNat % 16
     if !nbit r.trapset.toNat t then s.trapHere cIllegal (w.setWidth 64)
     else
       match s.retire id with
       | .next s => .next (s.resumeTrapped s.focusT t (nbit r.htgt.toNat 4))
       | o => o)

/-- EXIT (R143): the task waits for its outstanding writes, then its slot is free. -/
def execExit (g : BitVec 4) (s : State) : Out :=
  s.issue { g := g }
    (if s.cur.exitReady then .next ((s.modCur fun sl => { sl with issues := sl.issues + 1 }).endTask s.focusT s.focusS) else .next s)

/-- The hold of a YIELD (R144): the other tasks that are ready at its priority in the issue cycle, with their issue counts. -/
def State.yieldHold (s : State) : Hold :=
  let x := s.curTile
  .yield (x.cyc 0 s.time) ((x.slots.filter fun p =>
    p.1 != s.focusS && p.2.live && p.2.sr.prio == s.cur.sr.prio && s.ready s.focusT p.1).map fun p => (p.1, p.2.issues))

/-- YIELD (R144). -/
def execYield (g : BitVec 4) (s : State) : Out :=
  s.issue { g := g } (s.retire fun sl => sl.modTask fun ti => { ti with hold := s.yieldHold })

/-- A WAIT whose condition holds completes (R145); an expired timer is recorded as a wake event (R29). -/
def State.waitDone (s : State) (stood : Bool) (m : BitVec 5) (deadline d : Nat) : Out :=
  let p := m &&& s.curTile.pending s.focusS s.time deadline
  if p = 0 then (if stood then .next s else s.stand fun sl => sl.modTask fun ti => { ti with hold := .wait m deadline d })
  else s.endIt stood fun sl =>
    let sl := (sl.modTask fun ti => { ti with hold := .none }).modRf fun r => r.set d { val := p.setWidth 64 }
    if p.getLsbD 3 then sl.wake 3 else sl

/-- WAIT (R145): the task stands at it until a condition of its mask holds. -/
def execWait (g : BitVec 4) (d a : BitVec 6) (s : State) : Out :=
  let own := fun (h : Hold) => match h with | .wait _ _ _ => true | _ => false
  let m : BitVec 5 := (s.reg d.toNat).setWidth 5
  let timer := m.getLsbD 3
  let held := match s.cur.task with | some ti => ti.hold | none => .none
  match held with
  | .wait m0 dl d0 => s.issueOwn own { g := g } (s.waitDone true m0 dl d0)
  | _ =>
    s.issueOwn own { g := g, rd := [d.toNat, a.toNat], wr := [d.toNat] } (s.consume ((if timer then [a.toNat] else []) ++ [d.toNat])
      (if m = 0 then s.retire fun sl => sl.modTask fun ti => { ti with hold := s.yieldHold }
       else s.waitDone false m (if timer then s.time + (s.reg a.toNat).toNat else 2 ^ 65) d.toNat))

/-! ## State registers (R134, R135, R137) -/

/-- EBUSY (R135, R27). -/
def Tile.ebusy (x : Tile) : Nat :=
  place x.cpyq.length 16 5 + place x.colq.length 8 4
    + 2 * bnat (!x.cpyq.isEmpty || !x.copies.isEmpty)
    + bnat (!x.colq.isEmpty || x.col.rallyRuns)

/-- CLKCTL (R135). -/
def TileRegs.clkctl (r : TileRegs) : Nat :=
  place (bnat r.lock) 31 1 + place r.cpym1 16 4 + place r.colm1 8 4 + place r.tccm1 0 4

/-- TSTAT (R135). -/
def TaskRegs.tstat (r : TaskRegs) : Nat :=
  place r.wrec.toNat 8 5 + place (bnat r.priv) 7 1 + place r.prio.toNat 4 2 + r.slot.toNat

/-- The value of the item of a selector (R134) for slot k of the tile. -/
def Tile.item (x : Tile) (k now sel : Nat) : Nat :=
  let sl := x.slot k
  let r := sl.rf
  match sel with
  | 0x000 => sl.sr.tstat
  | 0x001 => sl.sr.tcause.toNat
  | 0x002 => sl.sr.tval.toNat
  | 0x003 => sl.sr.tepc.toNat
  | 0x004 => sl.sr.fen.toNat * 32 + sl.sr.flg.toNat
  | 0x008 => r.lk0.toNat
  | 0x009 => r.lk1.toNat
  | 0x00A => r.lk2.toNat
  | 0x00B => r.lk3.toNat
  | 0x00C => r.lkd.toNat
  | 0x010 => r.lc0.count.toNat
  | 0x011 => r.lc0.start.toNat
  | 0x012 => r.lc0.stop.toNat
  | 0x014 => r.lc1.count.toNat
  | 0x015 => r.lc1.start.toNat
  | 0x016 => r.lc1.stop.toNat
  | 0x018 => r.pc.toNat
  | 0x020 => place sl.sr.spSize.toNat 16 16 + sl.sr.spBase.toNat
  | 0x030 => x.reg.handler.toNat
  | 0x031 => x.reg.htgt.toNat
  | 0x032 => x.reg.trapset.toNat
  | 0x038 => x.ebusy
  | 0x040 => x.reg.clkctl
  | 0x048 => x.reg.court.toNat
  | 0x049 => x.reg.asid.toNat
  | 0x04A => x.reg.grant.toNat
  | 0x050 => now % 2 ^ 64
  | n => if 0x060 ≤ n ∧ n ≤ 0x067 then (x.reg.pmsel.at (n - 0x060) 0).toNat else 0

/-- A link or loop address: its two low bits stay zero (R77). -/
def wordAddr (v : Word) : BitVec 32 := (v.setWidth 32) &&& 0xFFFFFFFC#32

/-- The write of a PUTS to the item of a selector (R134, R135, R137): its RW fields are set, its W1C fields cleared, its RO fields kept. -/
def Tile.putItem (x : Tile) (k sel : Nat) (v : Word) : Tile :=
  let rf := fun (f : RegFile → RegFile) => x.modSlot k fun sl => sl.modRf f
  let reg := fun (f : TileRegs → TileRegs) => { x with reg := f x.reg }
  match sel with
  | 0x000 => x.modSlot k fun sl => { sl with sr := { sl.sr with wrec := sl.sr.wrec &&& ~~~ ((v >>> 8).setWidth 5) } }
  | 0x004 => x.modSlot k fun sl => { sl with sr := { sl.sr with fen := (v >>> 5).setWidth 5, flg := v.setWidth 5 } }
  | 0x008 => rf fun r => { r with lk0 := wordAddr v }
  | 0x009 => rf fun r => { r with lk1 := wordAddr v }
  | 0x00A => rf fun r => { r with lk2 := wordAddr v }
  | 0x00B => rf fun r => { r with lk3 := wordAddr v }
  | 0x00C => if fld v 2 0 ≤ 4 then rf fun r => { r with lkd := v.setWidth 3 } else x
  | 0x030 => reg fun r => { r with handler := v.setWidth 5 }
  | 0x031 => reg fun r => { r with htgt := v.setWidth 5 }
  | n => if 0x060 ≤ n ∧ n ≤ 0x067 then reg fun r => { r with pmsel := r.pmsel.put (n - 0x060) (v.setWidth 18) } else x

/-- The selectors whose GETS is privileged (R134). -/
def getsPriv (n : Nat) : Bool := n == 0x031 || n == 0x032
/-- The selectors whose PUTS is privileged (R134). -/
def putsPriv (n : Nat) : Bool := (decide (0x008 ≤ n) && decide (n ≤ 0x00C)) || n == 0x030 || n == 0x031

/-- Issue a GETS or PUTS, privileged or open (R54, R133). -/
def State.issueSel (s : State) (priv : Bool) (i : Instr) (n : Need) (body : Out) : Out :=
  if priv then s.issuePriv ((encode i).getD 0) n body else s.issue n body

/-- GETS (R137); TFLAGS waits for the floating instructions in flight (R121). -/
def execGets (g : BitVec 4) (d : BitVec 6) (n : BitVec 10) (s : State) : Out :=
  s.issueSel (getsPriv n.toNat) (.gets g d n) { g := g, wr := [d.toNat] }
    (if n.toNat = 4 && !s.cur.flagsStable then .next s
     else s.retire fun sl => sl.modRf fun r => r.set d.toNat { val := BitVec.ofNat 64 (s.curTile.item s.focusS s.time n.toNat) })

/-- PUTS (R137). -/
def execPuts (g : BitVec 4) (a : BitVec 6) (n : BitVec 10) (s : State) : Out :=
  s.issueSel (putsPriv n.toNat) (.puts g a n) { g := g, rd := [a.toNat] } (s.consume [a.toNat]
    (if n.toNat = 4 && !s.cur.flagsStable then .next s
     else (s.modTile s.focusT fun x => x.putItem s.focusS n.toNat (s.reg a.toNat)).retire id))

/-- CLKDIV (R146): the task stands at it until the divisor has taken effect, and then receives the old one. -/
def execClkdiv (g : BitVec 4) (d a : BitVec 6) (e : BitVec 2) (s : State) : Out :=
  let own := fun (h : Hold) => match h with | .clkdiv _ _ _ => true | _ => false
  let held := match s.cur.task with | some ti => ti.hold | none => .none
  match held with
  | .clkdiv _ dst old =>
    s.issueOwn own { g := g }
      (if s.curTile.divDone s.focusS then
        s.pastIt fun sl => (sl.modTask fun ti => { ti with hold := .none }).modRf fun r => r.set dst { val := BitVec.ofNat 64 old }
       else .next s)
  | _ =>
    s.issueOwn own { g := g, rd := [a.toNat], wr := [d.toNat] } (s.consume [a.toNat]
      (let n := s.reg a.toNat
       let r := s.curTile.reg
       if r.lock then s.trapHere cClockLocked (e.setWidth 64)
       else if n.toNat < (if e = 0 then 1 else 2) ∨ 16 < n.toNat then s.trapHere cRange n
       else
         let low := (if e = 0 then fld (r.grant.setWidth 64) 23 20 else fld (r.grant.setWidth 64) 19 16) + 1
         let req := (s.focusS, e.toNat, max n.toNat low, s.time + 64)
         (s.modTile s.focusT fun x => { x with reg := { x.reg with newDiv := x.reg.newDiv ++ [req] } }).stand fun sl =>
           sl.modTask fun ti => { ti with hold := .clkdiv e.toNat d.toNat (r.div e.toNat) }))

/-! ## Launches -/

/-- LAUNCH (R415): after the release, the sixteen words are read in order and the packet goes to the dispatcher; the answer ends it. -/
def execLaunch (g : BitVec 4) (d a : BitVec 6) (s : State) : Out :=
  s.issue { g := g, rd := [a.toNat], wr := [d.toNat], cls := .launch } (s.consume [a.toNat]
    (let p := s.reg a.toNat
     if p.toNat % 8 ≠ 0 then s.trapHere cAlign p
     else
       match s.cur.classify s.curTile.reg.court p 128 with
       | .ok (.loc off) =>
         if !s.cur.quiet then .next s
         else
           let k := s.nextId
           let acc : TaskAcc := { k := k, kind := .packet, window := false, ea := p }
           let s1 := { s with nextId := k + 1 }.modCur fun sl =>
             { (sl.modTask fun ti => { ti with hold := .launch d.toNat p [] }) with accs := sl.accs ++ [acc] }
           (s1.modTile s.focusT fun x =>
             { x with tccReq := x.tccReq ++ [{ who := .task s.focusT s.focusS k, off := off, op := .read 8 }] }).stand id
       | .ok _ => s.trapHere cRange p
       | .error c => s.trapHere c p))

/-- DEPDONE (R416): after the release, its message takes effect at the dispatcher once nothing there stands before it, and the answer ends it or traps. -/
def execDepdone (g : BitVec 4) (a : BitVec 6) (s : State) : Out :=
  s.issue { g := g, rd := [a.toNat], cls := .depdone } (s.consume [a.toNat]
    (let r := s.reg a.toNat
     if 2 ^ 16 ≤ r.toNat then s.trapHere cRange r
     else if !s.cur.quiet || !s.dispFree then .next s
     else
       match s.depdoneAt r.toNat s.curPriv (courtCrt s.curTile.reg.court) with
       | .error c => s.trapHere c r
       | .ok s => s.retire id))

end Sys2Proof.Machine
end

