-- ==== Sys2Proof/Machine/TaskEvents.lean ====
section
/-! DEFINITION. Events of the task slots: completions, trap entry, timers, stops for pre-emption, and words that are no instruction
(spec/02_encoding.md R54; spec/04_reg_arith.md R121, R122; spec/05_reg_state.md R140, R145, R146; spec/06_mem_spaces.md R170;
spec/14_q_stop.md R391, R392; spec/17_counters.md R455). -/

namespace Sys2Proof.Machine

/-- Is this a task slot of the package (R14, R22). -/
def isSlot (t k : Nat) : Bool := decide (t < numTiles) && decide (k < 16)

/-- An event of a task slot: a fault where the part has no such slot, else the effect. -/
def slotEvent (t k : Nat) (body : Out) : Out := if isSlot t k then body else .fault .noSuchUnit

/-- An event of a tile. -/
def tileEvent (t : Nat) (body : Out) : Out := if t < numTiles then body else .fault .noSuchUnit

/-- An in-flight result completes (R85, R121): it is written with its flags; a task that stands at its instruction then goes on, or traps FPE
without the write when a raised flag is enabled (R122). A late failure that was about to be taken then posts its own record beside that trap (R170). -/
def State.complete (s : State) (t k i : Nat) : State :=
  let sl := s.slot t k
  match sl.infl[i]? with
  | none => s
  | some w =>
    let s := s.modSlot t k fun sl => { sl with infl := delNth sl.infl i }
    if sl.fpeTraps w then
      let pc := sl.rf.pc
      let s := match sl.task with
        | some ti => (match ti.trap with
          | some j => s.postTileFault t { cause := j.cause.toNat, kind := 0, slot := k, eng := 0, crt := 0, launch := ti.entry, tval := j.tval,
                                          w2 := pc.setWidth 64, w3 := pc.setWidth 64 }
          | none => s)
        | none => s
      (s.modSlot t k fun sl => { sl with sr := { sl.sr with flg := sl.sr.flg ||| w.flags } }).takeTrap t k
        { cause := cFpe, tval := w.flags.setWidth 64, tepc := pc, ipc := pc }
    else
      let s := s.modSlot t k fun sl => sl.commit w
      if w.late then (s.modSlot t k Slot.past).atFocus t k State.runOff else s

/-- INSTRUCTION_COMPLETION (R85, R121, R122). -/
def execInstructionCompletion (t k i : Nat) (s : State) : Out := slotEvent t k (.next (s.complete t k i))

/-- The trap that a task takes now: one is pending, nothing of the task is outstanding, the instruction it stood inside has ended, and no abort has
stopped it (R140, R170). -/
def Slot.trapDue (sl : Slot) : Option TrapInfo :=
  match sl.task with
  | none => none
  | some ti => if sl.outstanding || sl.inside || ti.halted || ti.stopped then none else ti.trap.map (·.atPc sl.rf.pc)

/-- TRAP_ENTRY (R140). -/
def execTrapEntry (t k : Nat) (s : State) : Out :=
  slotEvent t k (match (s.slot t k).trapDue with | some i => .next (s.enterTrap t k i) | none => .next s)

/-- Has the timer of the task's WAIT expired and not yet been recorded (R29, R145). -/
def Slot.timerDue (sl : Slot) (now : Nat) : Bool :=
  match sl.task with
  | some ti => (match ti.hold with | .wait m dl _ => m.getLsbD 3 && decide (dl ≤ now) && !sl.sr.wrec.getLsbD 3 | _ => false)
  | none => false

/-- WAIT_TIMER_EXPIRY (R29, R145). -/
def execWaitTimerExpiry (t k : Nat) (s : State) : Out :=
  slotEvent t k (.next (if (s.slot t k).timerDue s.time then s.modSlot t k fun sl => sl.wake 3 else s))

/-! ## Stopping for pre-emption -/

/-- Is the task running on while its court stops (R391): live, not yet stopped, no trap pending. -/
def State.runsOn (s : State) (t k : Nat) : Bool :=
  let sl := s.slot t k
  (s.tile t).stopAt.isSome && sl.stop.state == 0 &&
    (match sl.task with | some ti => !ti.stopped && !ti.halted && ti.trap.isNone | none => false)

/-- The task does not stand inside an instruction that has issued. -/
def Slot.between (sl : Slot) : Bool :=
  (match sl.task with | some ti => (match ti.hold with | .none | .yield _ _ => true | _ => false) | none => false) && !sl.infl.any (·.late)

/-- The live masks of the side-table entry of the task's next instruction (R393). -/
def State.sideMasks (s : State) (t k : Nat) : Option (Word × BitVec 8) :=
  let sl := s.slot t k
  (List.range sl.stop.stcnt.toNat).findSome? fun i =>
    let a := istoreKey t (sl.stop.stbase.toNat + 16 * i)
    if s.mem.readN a 4 = sl.rf.pc.toNat then some (BitVec.ofNat 64 (s.mem.readN (a + 8) 8), BitVec.ofNat 8 (s.mem.readN (a + 4) 1)) else none

/-- The watch that a stopped task leaves is lost (R455); the task issues its instruction again after the resume. -/
def Slot.stopWith (sl : Slot) (state : BitVec 2) (ovr : Bool) (sm : Word) (pm : BitVec 8) : Slot :=
  { (sl.modTask fun ti => { ti with hold := match ti.hold with | .bwatch _ _ _ => .none | h => h }) with
    stop := { sl.stop with state := state, ovr := ovr, smask := sm, pmask := pm } }

/-- A task is stopped by its court's stop at the place where it stands; its watch is lost (R455). -/
def State.stopTask (s : State) (t k : Nat) (state : BitVec 2) (ovr : Bool) (sm : Word) (pm : BitVec 8) : State :=
  (s.dropWatch t k).modSlot t k fun sl => sl.stopWith state ovr sm pm

/-- TASK_STATE_1_STOP (R391, R393). -/
def execTaskState1Stop (t k : Nat) (s : State) : Out :=
  slotEvent t k
    (if s.runsOn t k && (s.slot t k).between then
      match s.sideMasks t k with
      | some (sm, pm) => .next (s.stopTask t k 1 false sm pm)
      | none => .next s
     else .next s)

/-- May the task be stopped where it stands in STATE 2: no CLKDIV or LAUNCH of its own has issued and not completed. -/
def Slot.stoppable (sl : Slot) : Bool :=
  (match sl.task with | some ti => (match ti.hold with | .clkdiv _ _ _ | .launch _ _ _ => false | _ => true) | none => false)
    && !sl.infl.any (·.late)

/-- TASK_STATE_2_STOP (R391): not ready in each of 256 consecutive TCC cycles. -/
def execTaskState2Stop (t k : Nat) (s : State) : Out :=
  slotEvent t k
    (.next (if s.runsOn t k && (s.slot t k).stoppable && decide (256 ≤ (s.slot t k).stop.notReady) then
      s.stopTask t k 2 false 0xFFFFFFFFFFFFFFFF#64 0xFF#8 else s))

/-- PREEMPT_OVERRUN (R392): 4,096 instructions after the stop. The record is of KIND 5; no handler is woken. -/
def execPreemptOverrun (t k : Nat) (s : State) : Out :=
  slotEvent t k
    (.next (if s.runsOn t k && (s.slot t k).between && decide ((s.slot t k).stop.issued + 4096 ≤ (s.slot t k).issues) then
      let sl := s.slot t k
      let s := s.stopTask t k 2 true 0xFFFFFFFFFFFFFFFF#64 0xFF#8
      s.postTileFault t { cause := cPreemptOverrun.toNat, kind := 5, slot := k, eng := 0, crt := 0,
                          launch := (sl.task.map (·.entry)).getD 0, tval := sl.rf.pc.setWidth 64,
                          w2 := sl.sr.tepc.setWidth 64, w3 := sl.rf.pc.setWidth 64 }
     else s))

/-! ## Answers and repeated reads -/

/-- The oldest answer that has come back for a slot. -/
def Tile.answerFor (x : Tile) (k : Nat) : Option (Nat × Reply) := (x.wdone.find? fun a => a.1 = k).map (·.2)

/-- Remove the first entry that satisfies p. -/
def dropFirst {α : Type} (p : α → Bool) (l : List α) : List α := match findPlace p l with | some i => delNth l i | none => l

/-- COURT_WINDOW_COMPLETION (R167, R170, R246): an answered SEND leaves the message port. -/
def execCourtWindowCompletion (t k : Nat) (s : State) : Out :=
  slotEvent t k
    (match (s.tile t).answerFor k with
     | none => .next s
     | some (i, r) =>
       let s := s.modTile t fun x => { x with wdone := dropFirst (fun a => a.1 == k) x.wdone, outbox := x.outbox.filter fun m => m.k != i }
       .next (s.deliverTask t k i r))

/-- Is the court of the tile stopping, so that a task stands still once it has stopped. -/
def State.halted (s : State) (t k : Nat) : Bool :=
  match (s.slot t k).task with
  | some ti => ti.halted || ti.stopped || (s.slot t k).stop.state != 0
  | none => true

/-- The task reads the counter word of its BWAIT again, once there is room for the access; while its read is on its way it notes the notice (R454, R455). -/
def State.rereadCounter (s : State) (t k : Nat) : State :=
  match (s.slot t k).task with
  | some ti =>
    match ti.hold with
    | .bwatch ea _ _ =>
      s.atFocus t k fun s =>
        match s.cur.classify s.curTile.reg.court ea 8 with
        | .ok pl => if s.accRoom pl false 0 then s.bwaitRead pl ea else s.modCur fun sl => sl.modTask fun ti => { ti with hold := .bwatch ea 0 false }
        | .error _ => s
    | .bwait ea i _ => s.modSlot t k fun sl => sl.modTask fun ti => { ti with hold := .bwait ea i true }
    | _ => s
  | none => s

/-- Is a BWAIT without a watch due to read its word again (R455). -/
def State.repollDue (s : State) (t k : Nat) : Bool :=
  match (s.slot t k).task with
  | some ti => (match ti.hold with | .bwatch _ since w => !w && decide (since + 256 ≤ s.time) && !s.halted t k | _ => false)
  | none => false

/-- BWAIT_REPOLL (R455). -/
def execBwaitRepoll (t k : Nat) (s : State) : Out :=
  slotEvent t k (.next (if s.repollDue t k then s.rereadCounter t k else s))

/-- CHANGE_NOTICE (R455): every watcher of the word reads it again, and the entries are freed. -/
def execChangeNotice (t w : Nat) (s : State) : Out :=
  tileEvent t
    (let x := s.tile t
     if x.notice.contains w then
       let who := (x.watch.at (w / 64 % 32) []).filterMap fun e => if e.1 = w then some e.2 else none
       let s := s.putTile t { x with notice := setDel x.notice w, watch := x.watch.upd (w / 64 % 32) [] fun l => l.filter fun e => e.1 != w }
       .next (who.foldl (fun s e => match e with | .task a b _ => if s.halted a b then s else s.rereadCounter a b | _ => s) s)
     else .next s)

/-! ## Clocks -/

/-- A requested divisor takes effect (R146): on a pair half, COL in both halves. -/
def State.clkEffect (s : State) (t : Nat) : State :=
  let x := s.tile t
  match x.reg.newDiv.find? fun q => q.2.2.2 ≤ s.time with
  | none => s
  | some q =>
    let s := s.modTile t fun x =>
      { x.setDiv q.2.1 q.2.2.1 s.time with reg := { (x.setDiv q.2.1 q.2.2.1 s.time).reg with newDiv := dropFirst (· == q) x.reg.newDiv } }
    if q.2.1 = 1 && courtPairH x.reg.court then s.modTile (pairPartner x.reg.court t) fun y => y.setDiv 1 q.2.2.1 s.time else s

/-- CLKDIV_EFFECT (R146). -/
def execClkdivEffect (t : Nat) (s : State) : Out := tileEvent t (.next (s.clkEffect t))

/-! ## Words that are no instruction -/

/-- ILLEGAL (R54, R139): the guard is not looked at; a PC outside the instruction store traps RANGE instead (R104; the record names that PC, the model's
choice, notes/assumptions/97.md), and a word with an uncorrectable error POISON_USE (R152). -/
def execIllegal (w : BitVec 32) (s : State) : Out :=
  if !s.cur.mayIssue s.curTile s.time (fun _ => false) || s.stopsHere then .next s
  else
    let pc := s.cur.rf.pc
    if 0x3FFFC < pc.toNat then s.trapHere cRange (pc.setWidth 64)
    else if s.hard.contains (istoreKey s.focusT (pc.toNat / 8 * 8)) then s.trapHere cPoisonUse 64
    else s.trapHere cIllegal (w.setWidth 64)

end Sys2Proof.Machine
end

