-- ==== Sys2Proof/Machine/Bank.lean ====
section
/-! DEFINITION. The scratchpad banks (spec/06_mem_spaces.md R156, R157; spec/12_q_cells.md R344 to R346): which request a bank grants, and what the
grant does. -/

namespace Sys2Proof.Machine

/-- The bank of a scratchpad offset (R156). -/
def bankOf (off : Nat) : Nat := off / 64 % 32

/-- The bank cycle of a tile (R157). -/
def Tile.bankCyc (x : Tile) (now : Nat) : Nat := x.cyc 1 now

/-- The first request of a list for a bank. -/
def firstFor (b : Nat) (l : List BankReq) : Option (Nat × BankReq) :=
  match findPlace (fun r => bankOf r.off == b) l with
  | some i => (l[i]?).map fun r => (i, r)
  | none => none

/-- Where the granted request stands: the copy engine's, the TCC's, a memory cell's own, or one that the bank's cell serves for the fabric. -/
inductive Granted where
  | copy (i : Nat)
  | tcc
  | cell (m i : Nat)
  | net (i : Nat)
deriving DecidableEq, Repr

/-- The copy engine's request for the bank. -/
def Tile.copyFor (x : Tile) (b : Nat) : Option (Granted × BankReq) := (firstFor b x.cpyReq).map fun p => (.copy p.1, p.2)
/-- The TCC's request, when its oldest one is for the bank: the TCC presents one in each bank cycle. -/
def Tile.tccFor (x : Tile) (b now : Nat) : Option (Granted × BankReq) :=
  match x.tccReq with
  | r :: _ => if bankOf r.off = b ∧ x.tccAt ≠ x.bankCyc now + 1 then some (.tcc, r) else none
  | [] => none
/-- A memory cell's request for the bank; the bank's own cell also serves the fabric (R346). -/
def Tile.cellFor (x : Tile) (b m : Nat) : Option (Granted × BankReq) :=
  let net := if m = b then (firstFor b x.netReq).map fun p => (Granted.net p.1, p.2) else none
  match net with
  | some g => some g
  | none => (firstFor b (x.cellReq.at m [])).map fun p => (.cell m p.1, p.2)
/-- The memory cell that wins, from the bank's pointer on. -/
def Tile.cellsFor (x : Tile) (b : Nat) : Option (Nat × Granted × BankReq) :=
  ((List.range 32).map fun i => (x.bankPtr.at b 0 + i) % 32).findSome? fun m => (x.cellFor b m).map fun g => (m, g.1, g.2)

/-- The request that the bank grants in this bank cycle (R157), and the cell that won, if one did. -/
def Tile.grant (x : Tile) (b now : Nat) : Option (Option Nat × Granted × BankReq) :=
  let pos := x.bankCyc now % 8
  let copy := (x.copyFor b).map fun g => ((none : Option Nat), g.1, g.2)
  let tcc := (x.tccFor b now).map fun g => ((none : Option Nat), g.1, g.2)
  let cell := (x.cellsFor b).map fun g => (some g.1, g.2.1, g.2.2)
  let order := if pos = 7 then [copy, cell, tcc] else if pos = 3 then [tcc, cell, copy] else [cell, tcc, copy]
  order.findSome? id

/-- The granted request leaves its queue. -/
def Tile.ungrant (x : Tile) (g : Granted) : Tile :=
  match g with
  | .copy i => { x with cpyReq := delNth x.cpyReq i }
  | .tcc => { x with tccReq := x.tccReq.tail }
  | .cell m i => { x with cellReq := x.cellReq.upd m [] fun l => delNth l i }
  | .net i => { x with netReq := delNth x.netReq i }

/-- Part k of a fabric request has performed: with the last one the counter it names takes the bytes, in one step with the write, and the request is answered. -/
def State.deliverPart (s : State) (t : Nat) (h : Hdr) (k : Nat) (r : Reply) : State :=
  match findPlace (fun (g : Gather) => g.h == h) (s.tile t).gather with
  | none => s
  | some i =>
    match (s.tile t).gather[i]? with
    | none => s
    | some g =>
      let g := { g with left := g.left - 1, got := g.got.put k r.data }
      if g.left = 0 then
        let s := s.modTile t fun x => { x with gather := delNth x.gather i }
        let s := match g.ctr with | some c => if g.bytes = 0 then s else s.counter t c false g.bytes | none => s
        s.answer (.tile t) h ⟨.ok, g.got.vals.flatten⟩
      else s.modTile t fun x => { x with gather := updNth x.gather i fun _ => g }

/-- An access has performed at a scratchpad of tile t: its answer goes to the unit that asked. -/
def State.deliverBank (s : State) (t : Nat) (who : Who) (r : Reply) : State :=
  match who with
  | .task a b k => s.deliverTask a b k r
  | .cell a m k => s.modTile a fun x => { x with cdone := x.cdone ++ [(m, k, r)] }
  | .copy a k => s.deliverCopy a k r
  | .net h => s.answer (.tile t) h r
  | .part h k => s.deliverPart t h k r
  | .status a => s.modCol a fun c => { c with rally := c.rally.map fun r => { r with recStep := r.recStep + 1 } }
  | .nobody => s

/-- The task that a BWAIT's read comes from: at once, or by the header of its packet. -/
def Who.watcher (w : Who) : Who :=
  match w with
  | .task t k _ => .task t k 0
  | .net h | .part h _ => .task (tileOfBits h.stile) h.stream 0
  | w => w

/-- Does a counter word end a BWAIT: poisoned, overrun, or posted with COUNT 0 (R454). -/
def counterOver (r : Reply) : Bool :=
  let w := BitVec.ofNat 64 (ofBytes (r.data.map (·.val)))
  r.data.any (·.poi) || bitOf w 62 || (bitOf w 63 && w.toNat % 2 ^ 48 == 0)

/-- The read of a BWAIT that finds its counter incomplete takes a free watch entry of the word's memory cell, in the step of the read (R455). -/
def State.takeWatch (s : State) (t off : Nat) (who : Who) (op : MemOp) (r : Reply) : State :=
  let m := off / 64 % 32
  let ws := (s.tile t).watch.at m []
  if op == .watch && !counterOver r && decide (ws.length < 8) then s.modTile t fun x => { x with watch := x.watch.put m (ws ++ [(off, who.watcher)]) } else s

/-- One grant of bank b of tile t (R157): at most one in each bank cycle. -/
def State.bankGrant (s : State) (t b : Nat) : State :=
  let x := s.tile t
  let cyc := x.bankCyc s.time
  if x.bankAt.at b 0 = cyc + 1 then s
  else
    match x.grant b s.time with
    | none => s
    | some (m, g, r) =>
      let x := { x.ungrant g with tccAt := if g = .tcc then cyc + 1 else x.tccAt, bankAt := x.bankAt.put b (cyc + 1), bankPtr := match m with | some m => x.bankPtr.put b ((m + 1) % 32) | none => x.bankPtr }
      let s := s.putTile t x
      let s := match g, r.who with | .cell _ _, _ => s.pm t 0x000A 1 | .net _, .net h | .net _, .part h _ => s.pmFor t 0x000A 1 h.crt | .net _, _ => s.pm t 0x000A 1 | _, _ => s
      let p := s.performScratch t r.off r.op
      (p.1.takeWatch t r.off r.who r.op p.2).deliverBank t r.who p.2

/-- BANK_GRANT (R157, R207). -/
def execBankGrant (t b : Nat) (s : State) : Out := if t < numTiles ∧ b < 32 then .next (s.bankGrant t b) else .fault .noSuchUnit

end Sys2Proof.Machine
end

