-- ==== Sys2Proof/Machine/FabricEvents.lean ====
section
/-! DEFINITION. The events of the fabric: flits, trims, arrivals, let requests, timeouts, links and the host's requests
(spec/13_q_fabric.md R358 to R379). -/

namespace Sys2Proof.Machine

/-- Is this a place of the fabric. -/
def isNode : Node → Bool
  | .tile t => decide (t < numTiles)
  | .die d => decide (d < 4)

/-- An event of a place of the fabric. -/
def nodeEvent (n : Node) (body : Out) : Out := if isNode n then body else .fault .noSuchUnit

/-- Is this an output of the place, or one of the two ways in which a router discards. -/
def isOut (n : Node) (out : Nat) : Bool :=
  (match n with | .tile _ => decide (out < 7) | .die d => decide (out < 77) || (d == 0 && out == outQueue)) || out == outDrop || out == outSwallow

/-! ## Receiving -/

/-- A packet has arrived whole at an interface: bunt headers, let requests, responses and requests wait apart. -/
def NetIf.receive (ni : NetIf) (p : Packet) : NetIf :=
  if p.h.trim then { ni with bunts := ni.bunts ++ [p.h] }
  else if p.h.kind = kLET then { ni with lets := ni.lets ++ [p.h] }
  else if p.h.kind = kRSP then { ni with rsps := ni.rsps ++ [p] }
  else { ni with reqs := ni.reqs ++ [p] }

/-- A flit enters an interface on a VC. -/
def NetIf.takeFlit (ni : NetIf) (vc : Nat) (f : Flit) : NetIf :=
  match f with
  | .head h _ => if h.len = 0 then ni.receive { h := h } else { ni with rx := ni.rx.put vc { h := h } }
  | .body bs last =>
    match ni.rx.look vc with
    | none => ni
    | some p =>
      let p := { p with pay := p.pay ++ bs }
      if last then { ni with rx := ni.rx.del vc }.receive p else { ni with rx := ni.rx.put vc p }

/-! ## Requests of the host (R379) -/

/-- The header of a host request: stream 53 of base die s0. -/
def State.hostHdr (s : State) (asid : Nat) : Hdr :=
  { spkg := s.pkg.pkgid.toNat, stile := nodeBits (.die 0), stream := 53, asid := asid }

/-- Send one piece of a host request to its home. -/
def State.sendHost (s : State) (asid : Nat) (h : Home) (op : MemOp) : State :=
  let hd := s.hostHdr asid
  let out := fun (hd : Hdr) (op : MemOp) =>
    let hp := opHdr hd op
    s.modNet (.die 0) fun n => n.request hp.1 hp.2 .nobody s.time
  match h with
  | .far pkg tile o => out { hd with dpkg := pkg, dtile := tileBits tile, unit := 0, addr := o } op
  | h =>
    match dieHome h with
    | none => s
    | some (mig, tgt, a, addr) =>
      out { hd with dpkg := s.pkg.pkgid.toNat, dtile := s.homeDie h * 2 ^ 8, bd := true, unit := if tgt = 2 && !mig then 4 else 3, mig := mig, tgt := tgt,
                    addr := addr, asid := if mig then a else asid } op

/-- The host's requests that still have bytes to send: the oldest ones that are all sent leave HQ. -/
def Ngambi.pending (g : Ngambi) : List HostReq := g.hq.dropWhile fun q => q.n == 0

/-- The host's oldest request goes on by one piece of at most 64 bytes (R163, R379); an address its ASID does not map is answered FAIL, and the next
request goes on. -/
def State.hostPumpFrom : Nat → State → State
  | 0, s => s
  | fuel + 1, s =>
    let s := { s with ngambi := { s.ngambi with hq := s.ngambi.pending } }
    match s.ngambi.hq with
    | [] => s
    | q :: rest =>
      if !(s.die 0).ni.canSend 53 64 then s
      else
        let n := min q.n (64 - q.addr % 64)
        match s.translate none q.asid q.addr n (if q.wr then .write else .read) with
        | .error _ => State.hostPumpFrom fuel { s with ngambi := { s.ngambi with hq := rest, answers := s.ngambi.answers ++ [⟨.fail, []⟩] } }
        | .ok h =>
          let m := min n (64 - h.pos % 64)
          let op : MemOp := if q.wr then .write (q.data.take m) none else .read m
          if (s.die 0).ni.homeWaits 53 m h then s
          else
          let s := s.sendHost q.asid h op
          { s with ngambi := { s.ngambi with hq := { q with addr := q.addr + m, n := q.n - m, data := q.data.drop m } :: rest } }

/-- The host's requests go on. -/
def State.hostPump (s : State) : State := State.hostPumpFrom (s.ngambi.hq.length + 1) s

/-- A host request comes to the port: HQ takes it once phase 4 has ended, when there is room (R379, R478, R481). -/
def State.hostArrives (s : State) (q : HostReq) : State :=
  if s.pkg.phase < 5 ∨ s.pkg.fatal = true then s
  else
    let s := if s.ngambi.hq.length < 256 then { s with ngambi := { s.ngambi with hq := s.ngambi.hq ++ [q] } } else s
    s.hostPump

/-- A launch packet comes to the port: it enters LQ, or is answered BUSY when LQ is full and in phases 1 to 5 (R379, R478, R481). A package in reset answers
nothing. -/
def State.launchArrives (s : State) (words : List Word) : State :=
  if s.pkg.phase = 6 ∧ s.pkg.fatal = false ∧ s.ngambi.lq.length < 64 then
    { s with ngambi := { s.ngambi with lq := s.ngambi.lq ++ [takePad 0 16 words] } }
  else if s.pkg.phase = 0 ∨ s.pkg.thermtrip = true then s
  else { s with ngambi := { s.ngambi with answers := s.ngambi.answers ++ [⟨.busy, []⟩] } }

/-! ## The Ngambi link (R358, R363, R365, R379; notes/assumptions/118.md) -/

/-- A packet of the host is in whole: a launch packet, or a read or write. -/
def State.cardPacket (s : State) (p : Packet) : State :=
  if p.h.kind = kMSG then s.launchArrives p.postReq.words
  else s.hostArrives { asid := p.h.asid, addr := p.h.addr, wr := p.h.kind != kRD, data := p.pay.take (if p.h.kind = kRD then 0 else p.h.nbm1 + 1), n := p.h.nbm1 + 1 }

/-- A flit leaves the link's VC buffer for the port's queues. -/
def State.cardFlit (s : State) (vc : Nat) (f : Flit) : State :=
  let rx := fun (r : AMap Packet) => { s with ngambi := { s.ngambi with rx := r } }
  match f with
  | .head h _ => if h.len = 0 then s.cardPacket { h := h } else rx (s.ngambi.rx.put vc { h := h })
  | .body bs last =>
    match s.ngambi.rx.look vc with
    | none => s
    | some p =>
      let p := { p with pay := p.pay ++ bs }
      if last then (rx (s.ngambi.rx.del vc)).cardPacket p else rx (s.ngambi.rx.put vc p)

/-- The packet that carries an answer to the host; the answers are numbered in the order in which they are given. -/
def State.hostRsp (s : State) (r : Reply) : Packet :=
  { h := { s.hostHdr 0 with kind := kRSP, dpkg := s.pkg.pkgid.toNat, bd := true, unit := 4, stream := 53, seq := s.ngambi.told % 2 ^ 32, status := r.stat.code,
                            len := payFlits r.data.length, nbm1 := r.data.length - 1, aop := 15 },
    pay := r.data }

/-- The packet that writes a notice to the host ring. -/
def State.noticePacket (s : State) (n : Notice) (base len : Nat) : Packet :=
  { h := { s.hostHdr 0 with kind := kWR, dpkg := s.pkg.pkgid.toNat, bd := true, unit := 4, stream := 52, tgt := 2,
                            addr := base + 32 * (s.ngambi.ringAt % len), len := 1, nbm1 := 31 },
    pay := (n.w.flatMap fun w => toBytes 8 w.toNat).map fun b => { val := b } }

/-- What the port has to send enters the link's own buffers, one packet of each kind at a time: an answer, a request of DQ, a notice once firmware has set
the ring. -/
def State.cardLoad (s : State) : State :=
  let put := fun (s : State) (p : Packet) => s.modRouter (.die 0) fun r => { r with ins := r.ins.put (77 * 16 + injVc p.h) (p.flits s.time) }
  let idle := fun (s : State) (vcs : List Nat) => vcs.all fun vc => ((s.die 0).rt.ins.at (77 * 16 + vc) []).isEmpty
  let s := match s.ngambi.answers[s.ngambi.told]? with
    | some r => if idle s [3] then { put s (s.hostRsp r) with ngambi := { s.ngambi with told := s.ngambi.told + 1 } } else s
    | none => s
  let s := match s.ngambi.dq[s.ngambi.loaded]? with
    | some p => if idle s [4, 5, 6] then { put s p with ngambi := { s.ngambi with loaded := s.ngambi.loaded + 1 } } else s
    | none => s
  match s.ngambi.ring, s.ngambi.nq with
  | some (base, len), n :: _ => if idle s [0] then put s (s.noticePacket n base len) else s
  | _, _ => s

/-- The card has taken every flit sent so far: it acknowledges them and gives their credits back. -/
def PortLink.taken (l : PortLink) : PortLink :=
  { l with used := l.replay.foldl (fun u q => u.upd q.1 0 (· - 1)) l.used, replay := [], resend := 0 }

/-- The last flit of a packet of the port's own has left on the link, from its buffer of a VC: a request of DQ now waits for the card's report, and the card takes
an answer, or a notice, which it writes to the ring. -/
def State.cardSent (s : State) (vc : Nat) : State :=
  let took := fun (s : State) => s.modDie 0 fun x => { x with ports := x.ports.upd 76 {} PortLink.taken }
  if vc = 3 then took s
  else if vc = 0 then
    match s.ngambi.ring, s.ngambi.nq with
    | some (base, len), n :: rest =>
      let p := s.noticePacket n base len
      took { s.writeUnits 32 (hostBase + p.h.addr) p.pay 3 with ngambi := { s.ngambi with nq := rest, ringAt := (s.ngambi.ringAt + 1) % len } }
    | _, _ => s
  else { s with ngambi := { s.ngambi with sent := s.ngambi.sent + 1 } }

/-! ## Sending flits -/

/-- Has the part that a flit comes to power: a layer die has none before phase 5, and of a layer that is off only the vertical links have (R15, R359, R478). -/
def State.takesFlit (s : State) (m : Node) (port : Nat) : Bool :=
  match m with
  | .tile t => decide (5 ≤ s.pkg.phase) && (port == 4 || port == 5 || s.pkg.lyen.getLsbD (t / 48))
  | .die _ => true

/-- A flit comes to a node's own interface. A launch packet that is in whole goes to the dispatcher, and the dispatcher's answer to its task (R415). -/
def State.localFlit (s : State) (n : Node) (vc : Nat) (f : Flit) : State :=
  match n, f, (s.netIf n).rx.look vc with
  | .die 0, .body bs true, some p =>
    if p.h.isPost then (s.modNet n fun ni => { ni with rx := ni.rx.del vc }).queuePacket { p with pay := p.pay ++ bs }.postReq
    else s.modNet n fun ni => ni.takeFlit vc f
  | .tile t, .body bs true, some p =>
    if p.h.isPostRsp then
      let w := fun (i : Nat) => payWord (((p.pay ++ bs).drop i).take 8)
      (s.modNet n fun ni => { ni with rx := ni.rx.del vc }).answerLaunch t p.h.tslot (w 0) (w 8)
    else s.modNet n fun ni => ni.takeFlit vc f
  | _, _, _ => s.modNet n fun ni => ni.takeFlit vc f

/-- A flit leaves an output for the far end: the next router, the node's own interface, the Ngambi port's queues, or a credit link, where it takes a credit and
a place in the replay buffer (R358, R376). A flit that comes to a part without power is lost. -/
def State.flitTo (s : State) (n : Node) (out vc : Nat) (f : Flit) : State :=
  let f := match f with | .head h _ => Flit.head { h with vc := vc } s.time | f => f
  match linkEnd n out with
  | some (m, port) => if s.takesFlit m port then s.modRouter m fun r => r.pushFlit (port * 16 + vc) f else s
  | none =>
    if out = ownPort n then (if s.takesFlit n out then s.localFlit n vc f else s)
    else
      match n with
      | .tile _ => s
      | .die d =>
        if creditLink d out then s.modDie d fun x => { x with ports := x.ports.upd out {} fun p =>
          { p with replay := p.replay ++ [(vc, f)], txSeq := p.txSeq + 1, used := p.used.upd vc 0 (· + 1) } }
        else if out = outQueue then s.cardFlit vc f
        else s

/-- Is the output able to send: a credit link only while it is up (R377). -/
def State.outUp (s : State) (n : Node) (out : Nat) : Bool :=
  match n with
  | .die d => !creditLink d out || ((s.die d).ports.at out {}).st == 0
  | .tile _ => true

/-- Count a discard at a port (R361, R375). -/
def State.countBorder (s : State) (n : Node) (port : Option Nat) : State :=
  match port with
  | some p => s.modRouter n fun r => r.modOut p fun o => { o with border := min (o.border + 1) (2 ^ 32 - 1) }
  | none => s

/-- A router discards the packet whose header stands first in an input buffer (R361, R362, R378): a request is answered FAIL on VC1. -/
def State.discard (s : State) (n : Node) (key : Nat) (h : Hdr) : State :=
  let s := s.countBorder n (discardPort n (key / 16) h)
  let s := (s.popIn n key).modRouter n fun r => if h.len = 0 then r else r.modOut outSwallow fun o => { o with lock := o.lock.put key key }
  if h.isReq then
    let before := (s.netIf n).txq.length
    (s.sendRsp n h 3 []).modNet n fun ni => { ni with txq := ni.txq.take before ++ (ni.txq.drop before).map fun p => { p with h := { p.h with vc := 1 } } }
  else s

/-- One flit of a discarded or trimmed packet's payload goes. -/
def State.swallow (s : State) (n : Node) (key : Nat) (f : Flit) : State :=
  (s.popIn n key).modRouter n fun r =>
    match f with
    | .body _ true => r.modOut outSwallow fun o => { o with lock := o.lock.del key }
    | _ => r

/-- Has a credit link flits to send again (R376). -/
def State.resending (s : State) (n : Node) (out : Nat) : Bool :=
  match n with
  | .die d => creditLink d out && decide (0 < ((s.die d).ports.at out {}).resend)
  | .tile _ => false

/-- One flit slot of a credit link that sends again from its replay buffer (R376). -/
def State.resendFlit (s : State) (n : Node) (out : Nat) : Option State :=
  match n with
  | .die d =>
    if s.resending n out then
      some ((s.modDie d fun x => { x with ports := x.ports.upd out {} fun l => { l with resend := l.resend - 1 } }).modRouter n fun r => r.modOut out OutPort.idle)
    else none
  | .tile _ => none

/-- Is it the output of the Ngambi link. -/
def cardOut (n : Node) (out : Nat) : Bool := n == .die 0 && out == 76

/-- Packets that wait enter the buffers from which an output may send. -/
def State.feed (s : State) (n : Node) (out : Nat) : State := if cardOut n out then (s.inject n).cardLoad else s.inject n

/-- A flit has gone on its way; the last one of a packet that the Ngambi port sends is noted. -/
def State.noteSent (s : State) (n : Node) (out key : Nat) (f : Flit) : State :=
  if cardOut n out && key / 16 == 77 && f.isLast then s.cardSent (key % 16) else s

/-- One flit slot of an output (R366). -/
def State.flitSend (s : State) (n : Node) (out : Nat) : State :=
  let s := s.feed n out
  let l := s.offers n out
  if out = outDrop then
    match l.head? with
    | some (_, key, .head h _) => s.discard n key h
    | _ => s
  else if out = outSwallow then
    match l.head? with
    | some (_, key, f) => s.swallow n key f
    | none => s
  else if !s.outUp n out then s
  else
    match s.resendFlit n out with
    | some s => s
    | none =>
      match ((s.router n).out out).choose l with
      | none => s.modRouter n fun r => r.modOut out OutPort.idle
      | some (vc, key, f) => (((s.popIn n key).modRouter n fun r => r.modOut out fun o => o.sent l vc key f).flitTo n out vc f).noteSent n out key f

/-- FLIT_SEND (R358, R361, R362, R366). -/
def execFlitSend (n : Node) (out : Nat) (s : State) : Out :=
  if isNode n && isOut n out then .next (s.flitSend n out) else .fault .noSuchUnit

/-! ## Trims (R372) -/

/-- The input buffer whose first flit is a header that has waited at the output for more than TRIMTH; what waits in the Ngambi port's own queues is not trimmed. -/
def State.trimAt (s : State) (n : Node) (out : Nat) : Option (Nat × Hdr) :=
  let r := s.router n
  let o := r.out out
  r.ins.keys.findSome? fun key =>
    match (r.ins.at key []).head? with
    | some (.head h since) =>
      if key / 16 ≠ 77 && s.routeAt n (key / 16) h = some out && o.trimmable h && decide (since + o.trimth < s.time) then some (key, h) else none
    | _ => none

/-- A waiting best-effort packet loses its payload; its header goes on as a bunt header on VC2. -/
def State.trimOne (s : State) (n : Node) (out : Nat) : State :=
  match s.trimAt n out with
  | none => s
  | some (key, h) =>
    let s := (s.popIn n key).modRouter n fun r =>
      let r := r.modOut outSwallow fun o => { o with lock := o.lock.put key key }
      let r := r.pushFlit (key / 16 * 16 + 2) (.head { h with trim := true, len := 0 } s.time)
      r.modOut out fun o => { o with trims := min (o.trims + 1) (2 ^ 32 - 1) }
    match n with
    | .tile t => s.pmFor t 0x0012 1 h.crt
    | .die _ => s

/-- TRIM (R372). -/
def execTrim (n : Node) (out : Nat) (s : State) : Out := if isNode n && isOut n out then .next (s.trimOne n out) else .fault .noSuchUnit

/-! ## Arrivals -/

/-- REQUEST_ARRIVAL (R369, R370). -/
def execRequestArrival (n : Node) (s : State) : Out := nodeEvent n (.next (s.arrive n))

/-- RESEQ_RELEASE (R370). -/
def execReseqRelease (n : Node) (s : State) : Out := nodeEvent n (.next (s.release n))

/-- A request of an interface is over: its answer goes to the unit that asked, and a base die port's tag is free again (R175, R364). A host request
to a granule that is not resident goes back to HQ; the dispatcher's reads over the fabric are kept for it (R163, R422). -/
def State.finishReq (s : State) (n : Node) (o : Outst) (r : Reply) : State :=
  match o.who with
  | .task t k i => s.modTile t fun x => { x with wdone := x.wdone ++ [(k, i, r)] }
  | .cell t m i =>
    let s := if o.h.bd then s.modCol t fun c => { c with mc := c.mc.upd m {} fun q => { q with tags := q.tags &&& ~~~(1#8 <<< o.h.rtag) } } else s
    s.modTile t fun x => { x with cdone := x.cdone ++ [(m, i, r)] }
  | .copy t k => s.deliverCopy t k r
  | .nobody =>
    if o.h.stream = 53 ∧ n = .die 0 then
      if r.stat = .notres then
        let q : HostReq := { asid := o.h.asid, addr := o.h.addr, wr := o.h.kind == kWR, data := o.pay, n := o.h.nbm1 + 1 }
        { s with ngambi := { s.ngambi with hq := q :: s.ngambi.hq } }
      else { s with ngambi := { s.ngambi with answers := s.ngambi.answers ++ [r] } }
    else if o.h.stream = 52 ∧ o.h.bd = false ∧ n = .die 0 then
      { s with farReads := s.farReads.map fun q =>
          if q.asid == o.h.asid && q.pkg == o.h.dpkg && tileBits q.tile == o.h.dtile && q.off == o.h.addr && q.n == o.h.nbm1 + 1 then { q with ans := some r } else q }
    else s
  | .net _ | .part _ _ => s
  | .status _ => s

/-- The reply that a status code and data mean for a request (R364, R369): DUP completes a write or message OK, and an atomic UNKNOWN. -/
def rspReply (h : Hdr) (status : Nat) (data : List MByte) : Reply :=
  if status = 1 then ⟨.poison, data⟩
  else if status = 2 then ⟨.notres, data⟩
  else if status = 3 then ⟨.fail, data⟩
  else if status = 4 then ⟨.busy, data⟩
  else if status = 5 then ⟨if h.kind = kATM then .unknown else .ok, data⟩
  else ⟨.ok, data⟩

/-- A response completes the request it answers, and is discarded when none matches (R364); after BUSY the same packet goes out again later (R369). -/
def State.response (s : State) (n : Node) (p : Packet) : State :=
  let ni := s.netIf n
  match findPlace (fun o => o.h.stream == p.h.stream && o.h.seq == p.h.seq && o.h.rtag == p.h.rtag) ni.outst with
  | none => s
  | some i =>
    match ni.outst[i]? with
    | none => s
    | some o =>
      if p.h.status = 4 then s.modNet n fun ni => { ni with outst := updNth ni.outst i fun o => { o with busy := some s.time } }
      else
        let s := s.modNet n fun ni => { ni with outst := delNth ni.outst i }
        s.finishReq n o (rspReply o.h p.h.status (p.pay.take (p.h.nbm1 + 1)))

/-- Does a response answer a base die request of this interface. -/
def NetIf.isDieRsp (ni : NetIf) (p : Packet) : Bool :=
  ni.outst.any fun o => o.h.stream == p.h.stream && o.h.seq == p.h.seq && o.h.rtag == p.h.rtag && o.h.bd

/-- Take the first received response of a class: answers of base dies, or the others. -/
def State.takeRsp (s : State) (n : Node) (die : Bool) : State :=
  let ni := s.netIf n
  match findPlace (fun p => ni.isDieRsp p == die) ni.rsps with
  | none => s
  | some i =>
    match ni.rsps[i]? with
    | none => s
    | some p =>
      let s := (s.modNet n fun ni => { ni with rsps := delNth ni.rsps i }).response n p
      match n with
      | .die 0 => s.hostPump
      | _ => s

/-- RESPONSE_ARRIVAL (R364): at a tile, every answer but those of base dies; at a base die, every answer. -/
def execResponseArrival (n : Node) (s : State) : Out :=
  nodeEvent n (.next (match n with
    | .tile _ => s.takeRsp n false
    | .die _ => if (s.netIf n).rsps.any ((s.netIf n).isDieRsp ·) then s.takeRsp n true else s.takeRsp n false))

/-- BASE_DIE_REPLY (R175, R176). -/
def execBaseDieReply (t : Nat) (s : State) : Out := tileEvent t (.next (s.takeRsp (.tile t) true))

/-- A bunt header at its destination (R372): a let request is queued for the source of a request; a trimmed answer makes the requester ask again with a
new sequence number. -/
def State.bunt (s : State) (n : Node) : State :=
  let ni := s.netIf n
  match ni.bunts with
  | [] => s
  | h :: rest =>
    let taken := s.modNet n fun ni => { ni with bunts := rest }
    if h.kind = kRSP then
      match findPlace (fun o => o.h.stream == h.stream && o.h.seq == h.seq && o.h.rtag == h.rtag) ni.outst with
      | none => taken
      | some i =>
        match ni.outst[i]? with
        | none => taken
        | some o =>
          if { ni with outst := delNth ni.outst i }.canSend o.h.stream o.pay.length then
            taken.modNet n fun ni => { ni with outst := delNth ni.outst i }.request o.h o.pay o.who s.time
          else s
    else if 64 ≤ ni.letq.length then s
    else taken.modNet n fun ni => ni.askLet h

/-- BUNT_HEADER_ARRIVAL (R372). -/
def execBuntHeaderArrival (n : Node) (s : State) : Out := nodeEvent n (.next (s.bunt n))

/-! ## Let requests (R373, R374, R380) -/

/-- LETB. -/
def NetIf.letb (ni : NetIf) : Nat := nfld ni.nictl.toNat 10 5 + 1
/-- LETINT, which is at least 16 (R380). -/
def NetIf.letint (ni : NetIf) : Nat := max 16 (nfld ni.nictl.toNat 22 11 + 1)
/-- ACKTO, limited to 16 to 24 (R380). -/
def NetIf.ackto (ni : NetIf) : Nat := min 24 (max 16 (nfld ni.nictl.toNat 4 0))

/-- LET_SEND (R373). -/
def execLetSend (n : Node) (s : State) : Out :=
  nodeEvent n (.next
    (let ni := s.netIf n
     match ni.letq with
     | [] => s
     | q :: rest =>
       if ni.bucket = 0 then s
       else
         let h : Hdr := { dpkg := q.pkg, dtile := q.tile, bd := q.stream == 53 || q.stream == 52, spkg := s.pkg.pkgid.toNat, stile := nodeBits n, vc := 2, kind := kLET,
                          stream := q.stream, seq := q.seq, crt := match n with | .tile t => courtCrt (s.tile t).reg.court | .die _ => 0 }
         let s := s.modNet n fun ni => { ni with letq := rest, bucket := ni.bucket - 1, lettx := min (ni.lettx + 1) (2 ^ 32 - 1), txq := ni.txq ++ [{ h := h }] }
         match n with
         | .tile t => s.pmFor t 0x0013 1 h.crt
         | .die _ => s))

/-- LET_BUCKET_REFILL (R373): one token every LETINT reference cycles, up to LETB. -/
def execLetBucketRefill (n : Node) (s : State) : Out :=
  nodeEvent n (.next (s.modNet n fun ni =>
    if ni.bucketAt + ni.letint ≤ s.time then { ni with bucket := min (ni.bucket + 1) ni.letb, bucketAt := ni.bucketAt + ni.letint } else ni))

/-- LET_RECEIVE (R374): the payload is sent again while it is held; otherwise the request is ignored. -/
def execLetReceive (n : Node) (s : State) : Out :=
  nodeEvent n (.next
    (let ni := s.netIf n
     match ni.lets with
     | [] => s
     | h :: rest =>
       let s := s.modNet n fun ni => { ni with lets := rest, letrx := min (ni.letrx + 1) (2 ^ 32 - 1) }
       match findPlace (fun o => o.h.stream == h.stream && o.h.seq == h.seq && o.h.kind != kRD) ni.outst with
       | none => s
       | some i =>
         s.modNet n fun ni =>
           match ni.outst[i]? with
           | none => ni
           | some o => { ni with retx := min (ni.retx + 1) (2 ^ 32 - 1), txq := ni.txq ++ [{ h := o.h, pay := o.pay }],
                                 outst := updNth ni.outst i fun o => { o with sent := s.time } }))

/-! ## Timeouts and repeats -/

/-- ACK_TIMEOUT (R371): no answer 2^ACKTO cycles after the latest transmission; the request completes UNKNOWN. -/
def execAckTimeout (n : Node) (k : Nat) (s : State) : Out :=
  nodeEvent n (.next
    (let ni := s.netIf n
     match ni.outst[k]? with
     | none => s
     | some o =>
       if o.busy.isNone && decide (o.sent + 2 ^ ni.ackto ≤ s.time) then
         (s.modNet n fun ni => { ni with outst := delNth ni.outst k }).finishReq n o ⟨.unknown, []⟩
       else s))

/-- Is a stopped court's SEND held back for its pending-message list (R391). -/
def State.sendWithdrawn (s : State) (n : Node) (o : Outst) : Bool :=
  match n with
  | .tile t => (s.tile t).stopAt.isSome && o.h.kind == kMSG
  | .die _ => false

/-- BUSY_RESEND (R246, R369): the same packet again, 256 reference cycles after the BUSY answer. -/
def execBusyResend (n : Node) (k : Nat) (s : State) : Out :=
  nodeEvent n (.next
    (match (s.netIf n).outst[k]? with
     | none => s
     | some o =>
       match o.busy with
       | none => s
       | some b =>
         if b + 256 ≤ s.time && !s.sendWithdrawn n o then
           s.modNet n fun ni => { ni with txq := ni.txq ++ [{ h := o.h, pay := o.pay }],
                                          outst := updNth ni.outst k fun o => { o with busy := none, sent := s.time } }
         else s))

/-! ## Package ports (R376 to R378) -/

/-- Is this a package port of a base die: direction × 4 + k mod 4. -/
def isPort (d p : Nat) : Bool := decide (d < 4) && decide (p < 24)

/-- An event of a package port. -/
def portEvent (d p : Nat) (body : Out) : Out := if isPort d p then body else .fault .noSuchUnit

/-- The bit of a port in PORTUP: direction × 16 + k (R376, R479). -/
def portBit (d p : Nat) : Nat := p / 4 * 16 + d * 4 + p % 4

/-- PORTUP with a port's bit set or cleared. -/
def Pkg.setUp (p : Pkg) (d q : Nat) (b : Bool) : Pkg := { p with portup := BitVec.ofNat 96 (nsetBit p.portup.toNat (portBit d q) b) }

/-- A flit whose link CRC fails and every later one are to be sent again from the replay buffer (R376); n counts from its oldest flit. Those that were to be sent
again already are counted once (R462). -/
def PortLink.again (l : PortLink) (n : Nat) : PortLink :=
  let r := max l.resend (l.replay.length - n)
  { l with resend := r, crc := min (l.crc + (r - l.resend)) (2 ^ 32 - 1) }

/-- LINK_REPLAY (R363, R376, R462): the flits go again one in a flit slot, at a package port or on the Ngambi link. -/
def execLinkReplay (d p n : Nat) (s : State) : Out :=
  if d < 4 ∧ creditLink d p then
    .next (s.modDie d fun x =>
      let l := x.ports.at p {}
      if l.st = 0 ∧ n < l.replay.length then { x with ports := x.ports.put p (l.again n) } else x)
  else .fault .noSuchUnit

/-- LANE_SHED (R377): at a packet boundary the port stops sending, to train again at another width. -/
def execLaneShed (d p lanes : Nat) (s : State) : Out :=
  portEvent d p (.next
    (let l := (s.die d).ports.at p {}
     if l.st = 0 ∧ ((s.router (.die d)).out p).lock = [] ∧ (lanes = 1 ∨ lanes = 2) ∧ lanes ≠ l.lanes then
       s.modDie d fun x => { x with ports := x.ports.put p { l with st := 1, lanes := lanes, want := 0, shed := min (l.shed + 1) (2 ^ 32 - 1) } }
     else s))

/-- A failure that does not stop bring-up (R482): recorded when none is. -/
def Pkg.mildFail (p : Pkg) (cause detail : Nat) : Pkg := if p.fail = 0 then { p with fail := cause, detail := detail } else p

/-- A link with no flit under way (R378, R479). -/
def PortLink.fresh (l : PortLink) (st : Nat) : PortLink := { l with st := st, fails := [], replay := [], resend := 0, used := [], rxSeq := none, opens := [] }

/-- LINK_RETRAIN (R376 to R378): training ends; the port sends every unacknowledged flit again and goes on, its receiver afresh, or is DOWN after three failures
within 125,000 reference cycles. A port that trains at power-up comes up by its training word alone (R479). -/
def execLinkRetrain (d p : Nat) (ok : Bool) (s : State) : Out :=
  portEvent d p (.next
    (let l := (s.die d).ports.at p {}
     if l.st = 1 ∨ (l.st = 2 ∧ ok = false) then
       if ok then
         { s.modDie d fun x => { x with ports := x.ports.put p { l with st := 0, resend := l.replay.length, rxSeq := none } } with
           pkg := s.pkg.setUp d p true }
       else
         let l := { l with fails := (l.fails.filter fun t => decide (s.time < t + 125000)) ++ [s.time] }
         if 3 ≤ l.fails.length then
           { s.modDie d fun x => { x with ports := x.ports.put p (l.fresh 3) } with
             pkg := (s.pkg.setUp d p false).mildFail 5 (portBit d p) }
         else s.modDie d fun x => { x with ports := x.ports.put p l }
     else s))

/-! ## The host (R379) -/

/-- HOST_REQUEST (R163, R379): a read of n bytes, or a write of the bytes given, under an ASID comes to HQ. -/
def execHostRequest (asid addr n : Nat) (data : List (BitVec 8)) (s : State) : Out :=
  let wr := !data.isEmpty
  .next (s.hostArrives { asid := asid % 2048, addr := addr, wr := wr, data := data.map fun b => { val := b }, n := if wr then data.length else n })

/-- LAUNCH_PACKET_ARRIVAL (R379, R481): a launch packet comes to LQ. -/
def execLaunchPacketArrival (words : List (BitVec 64)) (s : State) : Out := .next (s.launchArrives words)

/-! ## What comes in from outside (R206, R358, R363, R376) -/

/-- A flit that a credit link receives in order: the flit that enters the VC buffer, if any, and the packet in progress after it. After a retrain, flits of a packet
in progress that have come before are left out, and so is the rest of a packet that was whole (R376). -/
def PortLink.takes (l : PortLink) (vc seq : Nat) (f : Flit) : Option Flit × PortLink :=
  match f, l.opens.look vc with
  | .head h since, none => (some (.head h since), if h.len = 0 then l else { l with opens := l.opens.put vc ([seq], h.len) })
  | .body bs _, some (seen, left) =>
    if seen.contains seq then (none, l)
    else (some (.body bs (left == 1)), { l with opens := if left ≤ 1 then l.opens.del vc else l.opens.put vc (seen ++ [seq], left - 1) })
  | _, _ => (none, l)

/-- A flit comes in at a credit link: one whose link CRC fails, or that is not the next of its sequence, is left to the partner's replay; the others enter the
link's VC buffer. -/
def State.portFlit (s : State) (d p vc seq : Nat) (f : Flit) (crcOk : Bool) : State :=
  let l := (s.die d).ports.at p {}
  let key := p * 16 + vc
  let wanted := match l.rxSeq with | some q => q == seq | none => true
  if l.st = 0 ∧ crcOk = true ∧ wanted = true ∧ ((s.router (.die d)).ins.at key []).length < linkDepth (.die d) p then
    let q := l.takes vc seq (match f with | .head h _ => .head { h with vc := vc } s.time | f => f)
    let s := match q.1 with | some f => s.modRouter (.die d) fun r => r.pushFlit key f | none => s
    s.modDie d fun x => { x with ports := x.ports.put p { q.2 with rxSeq := some (seq + 1) } }
  else s

/-- The lowest free tag of the management core's port (R175). -/
def NetIf.coreTag (n : NetIf) : Option Nat := (List.range 8).find? fun i => !(n.open_ 52).any fun o => o.h.bd && o.h.rtag == i

/-- The management core of base die s0 reads or writes at a base die on stream 52, port unit 33, when a tag is free and the stream may take one more (R174,
R175, R206, R364): the bytes lie in one aligned packet of 32 to 256 bytes, and an access that no packet holds is none. -/
def State.coreRequest (s : State) (home : Home) (op : MemOp) : State :=
  let n := match op with | .read n => n | .write d _ => d.length | _ => 0
  let b := dieBlock home.pos n
  let op : MemOp := match op with | .write d _ => .write (maskedBlock (home.pos - b.1) d b.2) none | _ => .read b.2
  match dieHome (home.move b.1), (s.die 0).ni.coreTag with
  | none, _ | _, none => s
  | some (mig, tgt, a, addr), some tag =>
    if n = 0 ∨ 256 < home.pos % 256 + n then s
    else
    let h : Hdr := { s.hostHdr 0 with
      stream := 52, rtag := tag, dpkg := s.pkg.pkgid.toNat, dtile := s.homeDie home * 2 ^ 8, bd := true, unit := if tgt = 2 && !mig then 4 else 3,
      mig := mig, tgt := tgt, addr := addr, asid := if mig then a else 0 }
    let hp := opHdr h op
    if (s.die 0).ni.canSend 52 hp.2.length then s.modNet (.die 0) fun n => n.request hp.1 hp.2 .nobody s.time else s

/-- What comes in from outside takes effect; flits, credits and acknowledgements at a credit link alone (R358, R376). -/
def State.inbound (s : State) (i : Inbound) : State :=
  let port := fun (d p : Nat) (f : PortLink → PortLink) => if d < 4 ∧ creditLink d p then s.modDie d fun x => { x with ports := x.ports.upd p {} f } else s
  match i with
  | .flit d p vc seq f crcOk => if d < 4 ∧ creditLink d p = true ∧ vc < 16 then s.portFlit d p vc seq f crcOk else s
  | .credit d p vc n => port d p fun l => { l with used := l.used.upd vc 0 (· - n) }
  | .ack d p n => port d p fun l => { l with replay := l.replay.drop n, resend := min l.resend (l.replay.drop n).length }
  | .core home op => if s.held then s else s.coreRequest home op
  | .ring base n => if s.held ∨ n = 0 then s else { s with ngambi := { s.ngambi with ring := some (base, n), ringAt := 0 } }

end Sys2Proof.Machine
end

