-- ==== Sys2Proof/Machine/BaseDie.lean ====
section
/-! DEFINITION. The base die controllers (spec/06_mem_spaces.md R160, R164, R165, R174 to R178): admission, the HBM wheels, read-modify-writes, and the
migration of granules. -/

namespace Sys2Proof.Machine

/-! ## Residency map (R164) -/

/-- V of a residency map entry. -/
def rmV (w : Word) : Bool := bitOf w 63
/-- DIRTY. -/
def rmDirty (w : Word) : Bool := bitOf w 62
/-- BUSY. -/
def rmBusy (w : Word) : Bool := bitOf w 61
/-- ASID. -/
def rmAsid (w : Word) : Nat := fld w 45 35
/-- VGN. -/
def rmVgn (w : Word) : Nat := fld w 34 0
/-- An entry. -/
def rmWord (v dirty busy : Bool) (asid vgn : Nat) : Word :=
  BitVec.ofNat 64 (bnat v * 2 ^ 63 + bnat dirty * 2 ^ 62 + bnat busy * 2 ^ 61 + place asid 35 11 + place vgn 0 35)

/-- A granule as one number: ASID and virtual granule number. -/
def granKey (asid v : Nat) : Nat := asid * 2 ^ 35 + v / 2 ^ 21

/-- The pool frame in which a granule is resident (R165 step 1). -/
def Die.frameOf (x : Die) (asid v : Nat) : Option Nat :=
  x.resmap.findSome? fun p =>
    if rmV p.2 && !rmBusy p.2 && rmAsid p.2 == asid && rmVgn p.2 == v / 2 ^ 21 && decide (p.1 < x.mpframes.toNat) then some p.1 else none

/-- The HBM address of a pool frame (R164). -/
def Die.frameAddr (x : Die) (f : Nat) : Nat := (x.mpbase.toNat + f) * 2 ^ 21

/-- The frame that the replacement pointer finds, skipping busy ones (R165). -/
def Die.victim (x : Die) : Option Nat :=
  let n := x.mpframes.toNat
  let busy := fun (f : Nat) => rmBusy (x.resmap.at f 0)
  let rec go : Nat → Nat → Option Nat
    | 0, _ => none
    | k + 1, f => if busy f then go k ((f + 1) % n) else some f
  if n = 0 then none else go (x.resmap.length + 1) (x.ptr % n)

/-- The home of a granule outside the pool (R164): the place that its range entry names. -/
def State.granHome (s : State) (asid vgn : Nat) : Option Nat :=
  match s.rangeOf asid (vgn * 2 ^ 21) with
  | none => none
  | some e =>
    let p := rgToff e + (vgn * 2 ^ 21 - rgBase e)
    if rgTgt e = 1 then some (secondBase + p) else if rgTgt e = 2 then some (hostBase + p) else none

/-- Copy n bytes and their poison marks from one place to another. -/
def State.moveBytes (s : State) (src dst n : Nat) : State :=
  let inS := fun (a : Nat) => decide (src ≤ a) && decide (a < src + n)
  let moved := (s.mem.filter fun c => inS c.1).map fun c => (c.1 - src + dst, c.2)
  let movedM := (s.marks.filter inS).map fun a => a - src + dst
  { s with mem := (s.mem.filter fun c => decide (c.1 < dst)) ++ moved ++ s.mem.filter (fun c => decide (dst + n ≤ c.1)),
           marks := (s.marks.filter fun a => decide (a < dst)) ++ movedM ++ s.marks.filter (fun a => decide (dst + n ≤ a)) }

/-- Start the migration of a granule (R165 step 3): the chosen frame becomes busy, and what it held is evicted first. -/
def Die.startMigr (x : Die) (asid vgn : Nat) : Die :=
  if x.migr.any (fun m => m.incoming && m.asid == asid && m.vgn == vgn) then x
  else
    match x.victim with
    | none => x
    | some f =>
      let old := x.resmap.at f 0
      { x with ptr := (f + 1) % x.mpframes.toNat,
               resmap := x.resmap.put f (rmWord false (rmDirty old) true (rmAsid old) (rmVgn old)),
               migr := x.migr ++ [{ frame := f, asid := asid, vgn := vgn, incoming := true, phase := if rmV old then 0 else 1 }] }

/-- Granules that ports wait for and that are neither resident nor migrating start to migrate when a frame is free. -/
def Die.startWaiting (x : Die) : Die := x.notices.foldl (fun x p => if p.2.isEmpty then x else x.startMigr (p.1 / 2 ^ 35) (p.1 % 2 ^ 35)) x

/-! ## Requests -/

/-- The port number of a stream (R174): the copy engine's streams are one port. -/
def portOf (stream : Nat) : Nat := if 16 ≤ stream ∧ stream ≤ 47 then stream - 16 else if 48 ≤ stream ∧ stream ≤ 51 then 32 else if stream = 52 then 33 else 63

/-- Do two packets come from one port. -/
def samePort (a b : Hdr) : Bool := a.spkg == b.spkg && a.stile == b.stile && portOf a.stream == portOf b.stream

/-- The bytes a request covers. -/
def DieReq.len (r : DieReq) : Nat := r.h.nbm1 + 1
/-- Is the request a write. -/
def DieReq.isWr (r : DieReq) : Bool := r.h.kind != kRD

/-- Must request j wait for an earlier one of its port (R176): they overlap and one of them writes. -/
def Die.waits (x : Die) (j : Nat) (r : DieReq) : Bool :=
  (x.reqs.take j).any fun q => samePort q.h r.h && (q.isWr || r.isWr) &&
    (match q.home, r.home with
     | .hbm a, .hbm b => decide (a < b + r.len) && decide (b < a + q.len)
     | _, _ => false)

/-- Request k of a base die is over: it leaves, and is answered. -/
def State.dieAnswer (s : State) (d k : Nat) (r : Reply) : State :=
  match (s.die d).reqs[k]? with
  | none => s
  | some q => (s.modDie d fun x => { x with reqs := delNth x.reqs k }).answer (.die d) q.h r

/-- Does a write cover the whole 32-byte granule of its byte i (R177). -/
def wholeGranule (key : Nat) (bs : List MByte) (i : Nat) : Bool :=
  let g := (key + i) / 32 * 32
  decide (key ≤ g) && (List.range 32).all fun j => match bs[g - key + j]? with | some b => b.en | none => false

/-- An access performs whole at a memory of 32-byte granules (R177): a partly written granule keeps its mark, and one that was marked answers POISON. -/
def State.performPlain (s : State) (key : Nat) (op : MemOp) : State × Reply :=
  match op with
  | .read n => let d := s.readM key n; (s, ⟨if d.any (·.poi) then .poison else .ok, d⟩)
  | .write bs _ =>
    let s1 := s.writeUnits 32 key bs (bs.length + 1)
    let part := (List.range bs.length).any fun i => s.marks.has (key + i) && (bs.getD i {}).en && !wholeGranule key bs i
    (s1, ⟨if part then .poison else .ok, []⟩)
  | _ => (s, ⟨.fail, []⟩)

/-- A request of a base die changed. -/
def State.modReq (s : State) (d k : Nat) (f : DieReq → DieReq) : State := s.modDie d fun x => { x with reqs := updNth x.reqs k f }

/-- The packets that wait for injection at a base die beyond the first n come in on the Ngambi link instead, when its buffers have room for their flits. -/
def State.cardSends (s : State) (n : Nat) : Option State :=
  let ps := (s.netIf (.die 0)).txq.drop n
  let fit := ps.all fun p => decide (((s.die 0).rt.ins.at (76 * 16 + injVc p.h) []).length + p.h.len + 1 ≤ linkDepth (.die 0) 76)
  if fit then
    some (ps.foldl (fun s p => (s.modRouter (.die 0) fun r => { r with ins := r.ins.upd (76 * 16 + injVc p.h) [] fun l => l ++ p.flits s.time }).modDie 0 fun x =>
      { x with ports := x.ports.upd 76 {} fun l => { l with rxSeq := l.rxSeq.map (· + p.h.len + 1) } })
      (s.modNet (.die 0) fun ni => { ni with txq := ni.txq.take n }))
  else none

/-- The card has taken the packet at the head of DQ, whose flits have all left on the link, and reports the write accepted or returns the data: the access
performs, and the answer comes in on the link (R207, R379; notes/assumptions/118.md). -/
def State.cardAccepts (s : State) (d k : Nat) (r : DieReq) (p : Packet) : State :=
  match r.home with
  | .host a =>
    let g := s.ngambi
    let q := ({ s with ngambi := { g with dq := g.dq.tail, loaded := g.loaded - 1, sent := g.sent - 1 } }.modDie 0 fun x =>
      { x with ports := x.ports.upd 76 {} PortLink.taken }).performPlain (hostBase + a) p.op
    ((q.1.dieAnswer d k q.2).cardSends (s.netIf (.die 0)).txq.length).getD s
  | _ => s

/-- The controller takes request k in (R160, R165): a migratable one finds its frame or is answered NOTRES; a second-tier access performs; a host access enters DQ,
when there is room, and performs at a later such step, the card's report (R207, R379; notes/assumptions/113.md). -/
def State.dieRequest (s : State) (d k : Nat) : State :=
  let x := s.die d
  match x.reqs[k]? with
  | none => s
  | some r =>
    let p : Packet := { h := r.h, pay := r.pay }
    if r.adm && decide (0 < s.ngambi.sent) && s.ngambi.dq.head? == some p then s.cardAccepts d k r p
    else if r.adm || (x.reqs.take k).any (fun q => !q.adm && samePort q.h r.h) then s
    else if r.h.kind != kRD && r.h.kind != kWR && r.h.kind != kPUT then s.dieAnswer d k ⟨.fail, []⟩
    else
      match r.home with
      | .mig a v =>
        match x.frameOf a v with
        | some f =>
          s.modDie d fun x =>
            let old := x.resmap.at f 0
            { x with resmap := if r.isWr then x.resmap.put f (rmWord true true false (rmAsid old) (rmVgn old)) else x.resmap,
                     reqs := updNth x.reqs k fun q => { q with home := .hbm (x.frameAddr f + v % 2 ^ 21), frame := some f, adm := true } }
        | none =>
          let g := granKey a v
          let port := tileOfBits r.h.stile * 64 + portOf r.h.stream
          let s := s.modDie d fun x =>
            let x := if r.h.stream = 53 then x else { x with notices := x.notices.upd g [] fun l => setAdd l port }
            x.startMigr a (v / 2 ^ 21)
          s.dieAnswer d k ⟨.notres, []⟩
      | .hbm a =>
        if 2 ^ 39 < a + r.len then s.dieAnswer d k ⟨.fail, []⟩ else s.modDie d fun x => { x with reqs := updNth x.reqs k fun q => { q with adm := true } }
      | .second a =>
        if (s.cxlPort a).isNone then s.dieAnswer d k ⟨.fail, []⟩
        else let q := s.performPlain (secondBase + a) p.op; q.1.dieAnswer d k q.2
      | .host _ =>
        if 256 ≤ s.ngambi.dq.length then s
        else { s.modReq d k fun q => { q with adm := true } with ngambi := { s.ngambi with dq := s.ngambi.dq ++ [p] } }
      | _ => s.dieAnswer d k ⟨.fail, []⟩

/-- BASE_DIE_REQUEST (R165, R174 to R176). -/
def execBaseDieRequest (d k : Nat) (s : State) : Out := if d < 4 then .next (s.dieRequest d k) else .fault .noSuchUnit

/-! ## The wheels (R178) -/

/-- The place of a request's next burst in HBM; of a read-modify-write, of either phase (R178). -/
def DieReq.burstAt (r : DieReq) : Option Nat :=
  match r.home with
  | .hbm p => if r.adm && decide (r.done < r.len) then some (p + r.done) else none
  | _ => none

/-- The requests whose next burst is on a pseudo-channel and may go, by their places. -/
def Die.readyOn (x : Die) (hbm pch : Nat) : List Nat :=
  (List.range x.reqs.length).filter fun j =>
    match x.reqs[j]? with
    | none => false
    | some r =>
      match r.burstAt with
      | some a => nfld a 10 8 == hbm && nfld a 16 11 == pch && !x.waits j r
      | none => false

/-- The wheel entry of a slot: 128 + court when owned. -/
def Die.slotOf (x : Die) (hbm pch slot : Nat) : Nat := x.wheel.at (hbm % 2 * 4096 + pch * 64 + slot) 0

/-- Answer request k when its last byte is done. -/
def State.dieFinish (s : State) (d k : Nat) : State :=
  match (s.die d).reqs[k]? with
  | none => s
  | some r => if r.len ≤ r.done then s.dieAnswer d k ⟨if r.poi then .poison else .ok, r.out⟩ else s

/-- One burst of a request (R177, R178): up to the end of its 32-byte granule. -/
def State.burst (s : State) (d k : Nat) : State :=
  match (s.die d).reqs[k]? with
  | none => s
  | some r =>
    match r.burstAt with
    | none => s
    | some a =>
      let n := min (32 - a % 32) (r.len - r.done)
      if !r.isWr then
        let b := s.readM (hbmBase + a) n
        (s.modReq d k fun r => { r with out := r.out ++ b, poi := r.poi || b.any (·.poi), done := r.done + n }).dieFinish d k
      else
        let part := (r.pay.drop r.done).take n
        if part.length = 32 && part.all (·.en) then
          ((s.writeUnits 32 (hbmBase + a) part 33).modReq d k fun r => { r with done := r.done + n }).dieFinish d k
        else if part.all fun b => !b.en then (s.modReq d k fun r => { r with done := r.done + n }).dieFinish d k
        else s.modReq d k fun r => { r with rmw := some (part, s.marks.has (hbmBase + a)) }

/-- The requests that wait for a burst on a pseudo-channel, by base die and place: those of the base die that carries the HBM stack, and those of the other
base dies, which hold requests to the frames of their migration pools wherever these lie (R160, R164). -/
def State.wantBurst (s : State) (hbm pch : Nat) : List (Nat × Nat) :=
  let own := hbm / 2
  (own :: [0, 1, 2, 3].filter (· != own)).flatMap fun d => ((s.die d).readyOn hbm pch).map fun j => (d, j)

/-- The oldest of some requests, by arrival. -/
def State.oldestReq (s : State) (l : List (Nat × Nat)) : Option (Nat × Nat) :=
  let at_ := fun (q : Nat × Nat) => match (s.die q.1).reqs[q.2]? with | some r => r.arrived | none => 0
  l.find? fun q => l.all fun p => decide (at_ q ≤ at_ p)

/-- The request that the present slot of a wheel serves: its owner's oldest ready one, or the oldest ready one; none once the slot has served one (R178). -/
def State.slotPick (s : State) (hbm pch : Nat) : Option (Nat × Nat) :=
  let x := s.die (hbm / 2)
  let l := s.wantBurst hbm pch
  let own := x.slotOf hbm pch (s.time / 2 % 64)
  if x.slotUsed.at (hbm % 2 * 64 + pch) 0 = s.time / 2 + 1 then none
  else
    (s.oldestReq (if 128 ≤ own then l.filter fun q => (match (s.die q.1).reqs[q.2]? with | some r => r.h.crt == own % 64 | none => false) else [])).orElse
      fun _ => s.oldestReq l

/-- The present slot of a wheel has served a burst. -/
def State.useSlot (s : State) (hbm pch : Nat) : State :=
  s.modDie (hbm / 2) fun x => { x with slotUsed := x.slotUsed.put (hbm % 2 * 64 + pch) (s.time / 2 + 1) }

/-- One slot of a wheel: one burst of the request that it serves; a write phase of a read-modify-write is RMW_WRITE_PHASE's. -/
def State.wheelSlot (s : State) (hbm pch : Nat) : State :=
  match s.slotPick hbm pch with
  | some q =>
    (match (s.die q.1).reqs[q.2]? with
     | some r => if r.rmw.isSome then s else (s.burst q.1 q.2).useSlot hbm pch
     | none => s)
  | none => s

/-- HBM_WHEEL_SLOT (R178). -/
def execHbmWheelSlot (hbm pch : Nat) (s : State) : Out := if hbm < 8 ∧ pch < 64 then .next (s.wheelSlot hbm pch) else .fault .noSuchUnit

/-- The write phase of a read-modify-write (R177), in a slot that serves its request (R178): the enabled bytes are merged; a granule that the read phase found marked is marked, whatever another port has written since, and is answered POISON. -/
def State.rmwWrite (s : State) (d k : Nat) : State :=
  match (s.die d).reqs[k]? with
  | none => s
  | some r =>
    match r.rmw, r.home with
    | some (part, bad), .hbm p =>
      let hbm := nfld (p + r.done) 10 8
      let pch := nfld (p + r.done) 16 11
      if s.slotPick hbm pch ≠ some (d, k) then s
      else
      let s := (s.useSlot hbm pch).writeUnits 32 (hbmBase + p + r.done) part 33
      let s := if bad then { s with marks := s.marks.setTo (hbmBase + p + r.done) true } else s
      (s.modReq d k fun r =>
        { r with rmw := none, poi := r.poi || bad, done := r.done + part.length }).dieFinish d k
    | _, _ => s

/-- RMW_WRITE_PHASE (R177). -/
def execRmwWritePhase (d k : Nat) (s : State) : Out := if d < 4 then .next (s.rmwWrite d k) else .fault .noSuchUnit

/-! ## Migration (R165) -/

/-- The eviction step of a frame: once no request to the frame is in progress, a dirty frame is written back to its home. -/
def State.evict (s : State) (d f : Nat) : State :=
  let x := s.die d
  match x.migr.find? fun m => m.frame == f && m.phase == 0 with
  | none => s
  | some m =>
    if x.reqs.any (fun r => r.frame == some f) then s
    else
      let old := x.resmap.at f 0
      let s := if rmDirty old then
          match s.granHome (rmAsid old) (rmVgn old) with
          | some h => s.moveBytes (hbmBase + x.frameAddr f) h (2 ^ 21)
          | none => s
        else s
      s.modDie d fun x =>
        if m.incoming then { x with migr := x.migr.map fun q => if q == m then { q with phase := 1 } else q }
        else { x with migr := x.migr.filter (· != m), resmap := x.resmap.del f }.startWaiting

/-- GRANULE_EVICTION (R165). -/
def execGranuleEviction (d f : Nat) (s : State) : Out := if d < 4 ∧ f < 262144 then .next (s.evict d f) else .fault .noSuchUnit

/-- Is a granule still in a frame from which it is being evicted: its home does not yet have what was written there. -/
def Die.leaving (x : Die) (asid vgn : Nat) : Bool :=
  x.migr.any fun q => q.phase == 0 && (let e := x.resmap.at q.frame 0; rmAsid e == asid && rmVgn e == vgn)

/-- The migration step of a frame: the granule is copied in from its home, once no frame holds it any more, and is resident; its notice list is told. -/
def State.migrate (s : State) (d f : Nat) : State :=
  let x := s.die d
  match x.migr.find? fun m => m.frame == f && m.phase == 1 with
  | none => s
  | some m =>
    if x.leaving m.asid m.vgn then s
    else
    let home := s.granHome m.asid m.vgn
    let s := match home with | some h => s.moveBytes h (hbmBase + x.frameAddr f) (2 ^ 21) | none => s
    let g := m.asid * 2 ^ 35 + m.vgn
    s.modDie d fun x =>
      { x with migr := x.migr.filter (· != m),
               resmap := if home.isSome then x.resmap.put f (rmWord true false false m.asid m.vgn) else x.resmap.del f,
               due := x.due ++ (x.notices.at g []).map fun p => (g, p),
               notices := x.notices.del g }.startWaiting

/-- GRANULE_MIGRATION (R165). -/
def execGranuleMigration (d f : Nat) (s : State) : Out := if d < 4 ∧ f < 262144 then .next (s.migrate d f) else .fault .noSuchUnit

end Sys2Proof.Machine
end

