-- ==== Sys2Proof/Config.lean ====
section
/-! DEFINITION. What the part fixes and the spec gives no value for: constants without a body, so that no proof can
lean on a value. Each is named in notes/assumptions/11.md. -/

namespace Sys2Proof.Config

/-- Byte i of the DIK public key (R443): provisioned at manufacture. Free value. -/
opaque dikPublicKey : Nat → BitVec 8

/-- The device secret (R443): provisioned at manufacture, readable by no means. Free value. -/
opaque deviceSecret : List (BitVec 8)

/-- Byte i of the ML-DSA-87 public key that is generated from a seed (R443). Free value. -/
opaque akPublicKey : List (BitVec 8) → Nat → BitVec 8

/-- Byte i of the DIK signature over a message (R443). Free value. -/
opaque dikSignature : List (BitVec 8) → Nat → BitVec 8

/-- Byte i of the signature over a message with the key of a seed; the counter separates two signings of one message (R444). Free value. -/
opaque akSignature : List (BitVec 8) → Nat → List (BitVec 8) → Nat → BitVec 8

/-- The 16-bit identity of a fabric output in an attestation report (R444), by its scan address: the spec names it and does not lay it out. Free value. -/
opaque outputIdentity : Nat → BitVec 16

/-- How scan shows what the spec names and does not lay out, by the kind of item and its fields: the key of a duplicate window entry (0), a let queue
entry (1), the sideband of a flit (2), of R380 and R381. Free value. -/
opaque scanPack : Nat → List Nat → BitVec 64

end Sys2Proof.Config
end

