-- ==== Sys2Proof/Machine/MCells.lean ====
section
/-! DEFINITION. Memory cells (spec/12_q_cells.md R326 to R346, R351 to R357; spec/17_counters.md R446, R456): runs and firings, the accesses of a firing, spill
queues, answers, and the giving of tokens. DCMP's decoder is in Dcmp.lean. -/

namespace Sys2Proof.Machine

/-! ## Homes and pieces (R337) -/

/-- The range entry of a memory cell's element or metadata stream: the one latched at the FIRE swap or resume (R337); a remote operator's requests use the
entry of the moment (R438). -/
def State.cellEntry (s : State) (t m : Nat) (isMeta : Bool) : BitVec 256 :=
  let c := (s.tile t).col
  let q := c.active.mcell m
  if 9 ≤ q.mop ∧ q.mop ≤ 11 then s.range (s.tile t).reg.asid.toNat (if isMeta then q.mrange else q.range)
  else if isMeta then (c.mcell m).mlatch else (c.mcell m).latch

/-- The home of n bytes at an address of a memory cell's element or metadata stream. -/
def State.cellHome (s : State) (t m : Nat) (isMeta : Bool) (a n : Nat) (k : AKind) : Except (BitVec 8) Home :=
  let c := (s.tile t).col
  let q := c.active.mcell m
  let b := c.baseReg (if isMeta then q.mlink else q.alink)
  let court := (s.tile t).reg.court
  match baseSpace b with
  | 0 => if 2 ^ 22 < a + n then .error cRange else .ok (.scratch t a)
  | 1 =>
    if 2 ^ 28 ≤ a ∨ courtRowsM1 court < nfld a 27 25 ∨ courtColsM1 court < nfld a 24 22 ∨ 2 ^ 22 < a % 2 ^ 22 + n then .error cRange
    else .ok (.far s.pkg.pkgid.toNat (courtTile court (nfld a 27 25) (nfld a 24 22)) (a % 2 ^ 22))
  | 2 =>
    if !c.active.rangeBit (if isMeta then q.mrange else q.range) then .error cRange
    else s.translateBy (s.cellEntry t m isMeta) (some (s.courtOf t)) (s.tile t).reg.asid.toNat a n k
  | 3 => s.shareHome (s.courtOf t) (fld b 57 56) a n
  | _ => .error cConfig

/-- The granule of an address of a stream, when its entry is migratable (R164). -/
def State.granule (s : State) (t m : Nat) (isMeta : Bool) (a : Nat) : Option Nat :=
  let c := (s.tile t).col
  let q := c.active.mcell m
  let b := c.baseReg (if isMeta then q.mlink else q.alink)
  if baseSpace b = 2 ∧ rgMig (s.cellEntry t m isMeta) then some (a / 2 ^ 21) else none

/-- The accesses for n consecutive bytes at an address: split at 256-byte boundaries to a base die, and at 64-byte lines elsewhere (R337, R345). -/
def State.cellPieces (s : State) (t m : Nat) (isMeta : Bool) (a n : Nat) (k : AKind) : Except (BitVec 8) (List (Nat × Nat)) :=
  match s.cellHome t m isMeta a n k with
  | .error e => .error e
  | .ok h => .ok (cutAt (if h.isDie then 256 else 64) n h.pos 0 n)

/-- The 64-byte line of an address: its home, moved to the number of its line. -/
def State.cellLine (s : State) (t m a : Nat) (k : AKind) : Option Home :=
  match s.cellHome t m false a 1 k with
  | .ok h => some (h.move (h.pos / 64))
  | .error _ => none

/-! ## Spill queue (R351) -/

/-- Has every access of the entry been answered. -/
def RetEnt.complete (e : RetEnt) : Bool := e.fault.isNone && e.accs.all fun x => x.st == 3
/-- Is a firing's token ungiven (R353); a firing that gives none counts until its accesses have been answered. -/
def RetEnt.ungiven (e : RetEnt) : Bool := !e.given && (e.data || !e.complete)
/-- The number of issued tokens that remain ungiven. -/
def MCell.ungiven (k : MCell) : Nat := (k.ret.filter RetEnt.ungiven).length

/-- Has the access been diverted and not yet answered. -/
def CellAcc.diverted (x : CellAcc) : Bool := x.st == 2 || x.st == 4 || x.st == 5

/-- The bits of a that are not in b. -/
def ndiff (a b : Nat) : Nat := a - (a &&& b)

/-- The name of an element: that of its first access. -/
def RetEnt.eid (e : RetEnt) : Nat := (e.accs.head?.map (·.k)).getD 0

/-- The packets or lanes that the accesses of an element serve, of those that satisfy p. -/
def RetEnt.serving (e : RetEnt) (p : CellAcc → Bool) : Nat := e.accs.foldl (fun a y => if p y then a ||| y.serve else a) 0

/-- The spill entry of an element that has a diverted access: its stream position, the mask of its packets or lanes still unanswered, and its address, which
for lanes is that of the first diverted access (notes/assumptions/99.md). -/
def RetEnt.spillEnt (e : RetEnt) : Option SpillEnt :=
  (e.accs.find? CellAcc.diverted).map fun x => { pos := e.pos, mask := e.serving (·.st != 3), addr := x.ea, id := e.eid }

/-- The mask of an element's entry, once it was m: what has been answered goes, what has been diverted since comes; bits that no access serves stay as written. -/
def RetEnt.spillMask (e : RetEnt) (m : Nat) : Nat :=
  ((m ||| e.serving fun y => y.diverted && y.serve &&& m == 0) &&& e.serving (·.st != 3)) ||| ndiff m (e.serving fun _ => true)

/-- The place for one more entry of a spill queue: behind the last, or the lowest free one. -/
def nextSlot (l : List SpillEnt) : Nat :=
  let n := l.foldl (fun a x => max a (x.slot + 1)) 0
  if n < 16 then n else ((List.range 16).find? fun i => !l.any fun x => x.slot == i).getD 15

/-- The words written into an empty entry go when the entry is filled. -/
def MCell.dropRaw (k : MCell) (item : Nat) : MCell := { k with raw := k.raw.filter fun e => e.1 / 64 != item }

/-- The spill queue brought in step with the elements: answered entries go and those behind them move up, masks are renewed, new entries stand at its end. -/
def MCell.respill (k : MCell) : MCell :=
  let ents := k.ret ++ k.out.toList
  let kept := k.spill.filterMap fun x =>
    (ents.find? fun e => e.eid == x.id && e.accs.any CellAcc.diverted).map fun e => { x with mask := e.spillMask x.mask }
  let gone := k.spill.filter fun x => !kept.any fun y => y.id == x.id
  let up := kept.map fun x => { x with slot := x.slot - (gone.filter fun y => decide (y.slot < x.slot)).length }
  let fresh := (ents.filterMap RetEnt.spillEnt).filter fun x => !k.spill.any fun y => y.id == x.id
  let k := fresh.foldl (fun (k : MCell) x => { k.dropRaw (nextSlot k.spill) with spill := k.spill ++ [{ x with slot := nextSlot k.spill }] }) { k with spill := up }
  { k with pgev := BitVec.ofNat 32 (min (k.pgev.toNat + fresh.length) (2 ^ 32 - 1)) }

/-- A write to be issued again without the bytes of the lanes that its entry's mask leaves out: n bytes a lane. -/
def CellAcc.without (y : CellAcc) (lanes : List (Nat × Nat)) (n drop : Nat) : CellAcc :=
  match y.op with
  | .write d c =>
    let of_ := fun (a : Nat) => lanes.filter fun l => nbit y.serve l.1 && decide (l.2 ≤ a) && decide (a < l.2 + n)
    let off := fun (a : Nat) => !(of_ a).isEmpty && (of_ a).all fun l => nbit drop l.1
    { y with op := .write ((List.range d.length).zip d |>.map fun p => if off (y.addr + p.1) then { p.2 with en := false } else p.2) c }
  | _ => y

/-- An element whose spill entry old is written as x (R329): a packet or lane that the mask takes in is diverted again, one that it leaves out is given up, and
the diverted accesses move with the entry's address. -/
def MCfg.asSpill (q : MCfg) (e : RetEnt) (old x : SpillEnt) : RetEnt :=
  let add := ndiff x.mask old.mask
  let drop := ndiff old.mask x.mask
  let move := fun (a : Nat) => a + x.addr - old.addr
  let moved := fun (y : CellAcc) => { y with addr := move y.addr, ea := move y.ea }
  let lanes := (q.mop == 4 || q.mop == 10) && drop != 0
  { e with
    accs := e.accs.map fun y =>
      if y.st = 3 then (if y.serve &&& add = 0 then y else moved { y with st := 2 })
      else if !y.diverted then y
      else if y.serve &&& drop != 0 && y.serve &&& x.mask == 0 then { y with st := 3 }
      else moved (if lanes then y.without e.lanes (q.bytes q.perLane) drop else y),
    lanes := if old.addr = x.addr then e.lanes else e.lanes.map fun l => if nbit x.mask l.1 then (l.1, move l.2) else l }

/-- The access of an element of which nothing but its spill entry is known: a load reads one token's bytes at the entry's address, any other operation
writes nothing (notes/assumptions/99.md). -/
def MCfg.blankAcc (q : MCfg) (x : SpillEnt) : CellAcc :=
  let len := q.bytes q.perTok
  { k := x.id, addr := x.addr, len := len, op := if q.mop = 1 ∨ q.mop = 3 ∨ q.mop = 7 ∨ q.mop = 9 then .read len else .write (List.replicate len { val := 0, en := false }) none,
    ea := x.addr, st := 2 }

/-- Is an entry one of the tokens of the return buffer: DCMP keeps its lines there until they are consumed. -/
def RetEnt.shown (e : RetEnt) (lines : Bool) : Bool := e.ungiven || (lines && !e.given)

/-- The lowest place of the return buffer that holds no token. -/
def MCell.retSlot (k : MCell) (lines : Bool) : Nat := ((List.range 16).find? fun i => !k.ret.any fun e => e.shown lines && e.slot == i).getD 15

/-- One more entry of the return buffer, at its lowest free place. -/
def MCell.pushRet (k : MCell) (lines : Bool) (e : RetEnt) : MCell :=
  let i := k.retSlot lines
  { k.dropRaw (16 + i) with ret := k.ret ++ [{ e with slot := i }] }

/-- Accesses changed by their name. -/
def MCell.modAcc (k : MCell) (n : Nat) (f : CellAcc → CellAcc) : MCell :=
  let g := fun (e : RetEnt) => { e with accs := e.accs.map fun x => if x.k == n then f x else x }
  { k with ret := k.ret.map g, out := k.out.map g }

/-- An entry of the return buffer, or DCMP's waiting token, changed by an access it holds. -/
def MCell.modEntOf (k : MCell) (n : Nat) (f : RetEnt → RetEnt) : MCell :=
  let g := fun (e : RetEnt) => if e.accs.any (fun x => x.k == n) then f e else e
  { k with ret := k.ret.map g, out := k.out.map g }

/-- Every entry that may hold accesses. -/
def MCell.ents (k : MCell) : List RetEnt := k.ret ++ k.out.toList

/-- The entry and the access of a name. -/
def MCell.accOf (k : MCell) (n : Nat) : Option (RetEnt × CellAcc) :=
  k.ents.findSome? fun e => (e.accs.find? fun x => x.k == n).map fun x => (e, x)

/-- Accesses that are to be issued: reissues first, then new ones, each in stream order (R352). -/
def MCell.toIssue (k : MCell) : List (RetEnt × CellAcc) :=
  let all := k.ents.flatMap fun e => e.accs.map fun x => (e, x)
  all.filter (fun p => p.2.st == 4) ++ all.filter fun p => p.2.st == 0

/-- Is every access of the entry issued or diverted. -/
def RetEnt.issued (e : RetEnt) : Bool := e.accs.all fun x => x.st != 0 && x.st != 4

/-! ## Issuing -/

/-- What the access wants to do. -/
def MemOp.kind : MemOp → AKind
  | .read _ | .watch => .read
  | .write _ _ => .write
  | .atomic _ _ _ _ _ => .atomic
  | .post _ | .arrive _ => .atomic

/-- Payload bytes of a request. -/
def MemOp.payBytes : MemOp → Nat
  | .read _ | .watch => 0
  | .write d _ => d.length
  | _ => 16

/-- An access has been issued: it is out, and one more request is outstanding (R447). -/
def State.accOut (s : State) (t m : Nat) (x : CellAcc) (skip : Nat) : State :=
  let cyc := s.colCyc t
  s.modCol t fun c =>
    Collar.touch { (c.modMc m fun k => k.modAcc x.k fun y => { y with st := if y.st = 4 then 5 else 1, skip := skip }) with
      reqout := c.reqout.upd (nodeM m) 0 fun n => (n + 1) % 256 } cyc

/-- Issue one access (R156, R174, R337); none while its path has no room. -/
def State.issueCellAcc (s : State) (t m : Nat) (x : CellAcc) : Except (BitVec 8) (Option State) :=
  match s.cellHome t m x.isMeta x.addr x.len x.op.kind with
  | .error e => .error e
  | .ok h =>
    let who : Who := .cell t m x.k
    match h with
    | .scratch _ o =>
      .ok (some ((s.accOut t m x 0).modTile t fun y => { y with cellReq := y.cellReq.upd m [] (· ++ [{ who := who, off := o, op := x.op }]) }))
    | .far pkg tile o =>
      if (s.tile t).ni.canSend (16 + m) x.op.payBytes then .ok (some ((s.accOut t m x 0).sendScratch t (16 + m) pkg tile o x.op who)) else .ok none
    | h =>
      match freeTag ((s.tile t).col.mcell m).tags with
      | none => .ok none
      | some tag =>
        let b := dieBlock h.pos x.len
        let op : MemOp := match x.op with
          | .write d c => .write (maskedBlock (h.pos - b.1) d b.2) c
          | .read _ => .read b.2
          | op => op
        if (s.tile t).ni.homeWaits (16 + m) b.2 (h.move b.1) then .ok none
        else if (s.tile t).ni.canSend (16 + m) op.payBytes then
          let s := (s.accOut t m x (h.pos - b.1)).modMc t m fun k => { k with tags := k.tags ||| (1#8 <<< tag) }
          .ok (some (((s.pm t 0x0010 1)).sendDie t (16 + m) tag (h.move b.1) op who))
        else .ok none

/-- Bring the spill queue in step, and count new page events (R351, R461). -/
def State.respill (s : State) (t m : Nat) : State :=
  let c := (s.tile t).col
  let k := (c.mcell m).respill
  let fresh := (k.spill.filter fun x => !(c.mcell m).spill.any fun y => y.id == x.id).length
  (s.modMc t m fun _ => k).pm t 0x000C fresh

/-- Issue what can be issued now, in order; the fault of an entry follows its last access. A new access to a granule that has an entry in the spill queue joins
it: it waits for the notice with the others, or, where the notice has come and the entry is being reissued, it is due with them (R351, R352). It waits too
while a NOTRES reply to the cell has arrived and is not yet taken (R209). -/
def State.cellPump (s : State) (t m : Nat) : Nat → State
  | 0 => s
  | fuel + 1 =>
    let c := (s.tile t).col
    let k := c.mcell m
    if !c.mayAct (s.colCyc t) (nodeM m) then s
    else
      match k.ents.find? fun e => e.fault.isSome && e.issued with
      | some e => (match e.fault with | some f => s.mcellFault t m f.1 (BitVec.ofNat 64 f.2) e.pos | none => s)
      | none =>
        match k.toIssue with
        | [] => s
        | (e, x) :: _ =>
          let same : List CellAcc := match s.granule t m x.isMeta x.addr with
            | some g => (k.ents.flatMap RetEnt.accs).filter fun (y : CellAcc) => y.diverted && s.granule t m y.isMeta y.addr == some g
            | none => []
          let st := if same.any fun (y : CellAcc) => y.st == 2 then 2 else 4
          if 16 ≤ k.spill.length ∧ x.st = 0 then s
          else if x.st == 0 && (s.granule t m x.isMeta x.addr).isSome && (s.tile t).cdone.any (fun (a : Nat × Nat × Reply) => a.1 == m && a.2.2.stat == .notres) then s
          else if x.st == 0 && !same.isEmpty then State.cellPump ((s.modMc t m fun k => k.modAcc x.k fun y => { y with st := st }).respill t m) t m fuel
          else
            match s.issueCellAcc t m x with
            | .error f => s.mcellFault t m f.toNat (BitVec.ofNat 64 x.ea) e.pos
            | .ok none => s
            | .ok (some s1) => State.cellPump (if x.st = 4 then s1.pm t 0x000D 1 else s1) t m fuel

/-! ## Giving tokens (R336, R340, R353) -/

/-- The token that the answers to a firing make up, its scale token, and the flags of decoding. -/
def MCfg.madeToken (q : MCfg) (e : RetEnt) : Token × Token × Flags :=
  let laneAddr := fun (i : Nat) => (e.lanes.find? fun l => l.1 == i).map (·.2)
  let r : Token × Token × Flags :=
    if q.mop = 5 ∨ q.mop = 6 ∨ q.mop = 11 then
      ({ d := Lanes.of fun i => (match laneAddr i with
           | some _ => let b := bytesAt e.got (i * 8) 4; (BitVec.ofNat 36 b.1, b.2)
           | none => (0#36, false)), mask := e.mask, tag := e.tag }, {}, fNone)
    else if q.mop = 3 ∨ q.mop = 9 then
      q.makeToken e.tag (fun i => (laneAddr i).map fun a => (List.range q.perLane).map fun j => q.codeAt e.got a j) [] 0 0
    else if q.mop = 7 then
      q.makeToken e.tag (fun i => if i * q.perLane < e.syms.length then some (((e.syms.drop (i * q.perLane)).take q.perLane).map fun x => (x.code, x.poi)) else none)
        e.mgot e.maddr e.i0
    else
      let a := (e.lanes.headD (0, 0)).2
      q.makeToken e.tag (fun i => some ((List.range q.perLane).map fun j => q.codeAt e.got a (i * q.perLane + j))) e.mgot e.maddr (e.i0 * q.perTok)
  ({ r.1 with d := { r.1.d with poi := r.1.d.poi ||| (e.lanePoi &&& r.1.mask) } }, r.2)

/-- The token that a completed firing gives. One whose token a scan or a save area's editor has written has the lanes that were answered before in tok, and the
others in the answers that come since (R329, R403). -/
def MCfg.outToken (q : MCfg) (e : RetEnt) : Token × Token × Flags :=
  match e.tok, e.late with
  | none, _ => q.madeToken e
  | some k, none => (k, {}, fNone)
  | some k, some late =>
    let r := q.madeToken e
    ({ k with d := Lanes.of fun i => if late.contains i then (r.1.d.lane i, r.1.d.bad i) else (k.d.lane i, k.d.bad i) }, r.2)

/-- Has the cell room on its stream output, and its partner for a scale token. -/
def Collar.roomMem (c : Collar) (m : Nat) (q : MCfg) : Bool := c.roomX (96 + m) 0 1 && (!q.scales || c.roomX (96 + (m + 1) % 32) 0 1)

/-- Give the token of an entry. -/
def Collar.giveEnt (c : Collar) (m cyc : Nat) (q : MCfg) (e : RetEnt) : Collar :=
  let r := q.outToken e
  let c := (c.giveMem m [r.1]).cstatFlags r.2.2
  let c := if q.scales then (c.putX (96 + (m + 1) % 32) 0 [r.2.1]).gave (nodeM m) (c.active.takers 0 (96 + (m + 1) % 32) 0).length else c
  c.touch cyc

/-- An entry leaves the return buffer: the delivery position, the wrap token of a load, the completion token of its run. -/
def Collar.popEnt (c : Collar) (m : Nat) (q : MCfg) (e : RetEnt) : Collar :=
  let wrapc := (c.active.acell q.alink).wrapc && (q.mop == 0 || q.mop == 1 || q.mop == 3 || q.mop == 9)
  c.modMc m fun k =>
    let unk := k.runUnk || e.unk
    { k with
      ret := k.ret.tail, dpos := k.dpos + 1,
      owe := k.owe ++ (if e.rowEnd && wrapc then [false] else []) ++ (if e.runEnd && q.cpl then [unk] else []),
      runUnk := if e.runEnd then false else unk }

/-- Give what can be given, and let completed entries leave. -/
def Collar.cellGive (c : Collar) (m cyc : Nat) (q : MCfg) : Nat → Collar
  | 0 => c
  | fuel + 1 =>
    let k := c.mcell m
    if !c.mayAct cyc (nodeM m) then c
    else
      match k.owe with
      | b :: rest =>
        if c.roomXc (96 + m) 0 1 then Collar.cellGive (((c.modMc m fun k => { k with owe := rest }).giveMemCtl m [b]).touch cyc) m cyc q fuel else c
      | [] =>
        match k.ret with
        | [] => c
        | e :: _ =>
          if e.complete && (!e.data || e.given) then Collar.cellGive ((c.popEnt m q e).touch cyc) m cyc q fuel
          else
            let pick := if q.comm then findPlace (fun (e : RetEnt) => e.complete && e.data && !e.given) k.ret
              else if e.complete then some 0 else none
            match pick with
            | none => c
            | some i =>
              match k.ret[i]? with
              | none => c
              | some e =>
                if c.roomMem m q then
                  Collar.cellGive ((c.giveEnt m cyc q e).modMc m fun k => { k with ret := updNth k.ret i fun e => { e with given := true } }) m cyc q fuel
                else c

/-- A memory cell issues and gives what it can. -/
def State.cellGo (s : State) (t m : Nat) : State :=
  let s := s.cellPump t m 160
  let q := (s.tile t).col.active.mcell m
  let cyc := s.colCyc t
  if q.mop = 7 then s else s.modCol t fun c => c.cellGive m cyc q 64

/-! ## Meters (R356, R456) -/

/-- The effective level of the tile's memory-cell meters. -/
def State.meterLevel (s : State) (t : Nat) : Nat := if s.overQuota t then 1 else (s.tile t).reg.mlevel
/-- The credits of a memory cell now. -/
def State.mcredNow (s : State) (t m : Nat) : Nat :=
  let k := (s.tile t).col.mcell m
  min 64 (k.mcred + s.meterLevel t * (s.colCyc t - k.mcredAt))
/-- The credits of a tile's meters are counted up to now, before a level changes. -/
def State.settleMeters (s : State) (t : Nat) : State :=
  let cc := s.copyCredits t
  let cyc := s.colCyc t
  let f := fun (m : Nat) (k : MCell) => { k with mcred := s.mcredNow t m, mcredAt := cyc }
  s.modTile t fun x =>
    { x with reg := { x.reg with ccred := cc, ccredAt := x.cyc 2 s.time }, col := { x.col with mc := x.col.mc.map fun p => (p.1, f p.1 p.2) } }

/-- Is the operation metered. -/
def MCfg.metered (q : MCfg) : Bool := q.mop == 0 || q.mop == 1 || q.mop == 3 || q.mop == 7 || q.mop == 9
/-- Spend the credits of one token or line. -/
def State.spendCred (s : State) (t m : Nat) : State :=
  let n := s.mcredNow t m
  let cyc := s.colCyc t
  s.modMc t m fun k => { k with mcred := n - 64, mcredAt := cyc }

/-! ## Firings -/

/-- What a firing does at memory: its accesses, the fault that follows them, the mask and lane addresses of its token, flags, and whether a poisoned lane
was stored or read as zero. -/
structure CellJob where
  accs : List CellAcc := []
  fault : Option CellFault := none
  mask : BitVec 32 := allLanes
  lanes : List (Nat × Nat) := []
  tok : Option Token := none
  fl : Flags := fNone
  pois : Bool := false
deriving DecidableEq, Repr

/-- What a firing starts from: the tokens, the addresses, the number of its token in its row, and the row's metadata address. -/
structure CellIn where
  toks : List Token
  addrs : List (Nat × Nat)
  i0 : Nat
  maddr : Nat
deriving DecidableEq, Repr

/-- Reads of n consecutive bytes of a stream. -/
def State.readAccs (s : State) (t m : Nat) (isMeta : Bool) (a n bit0 : Nat) : Except CellFault (List CellAcc) :=
  match s.cellPieces t m isMeta a n .read with
  | .error e => .error (e.toNat, a)
  | .ok ps => .ok ((List.range ps.length).zip ps |>.map fun p =>
      { addr := a + p.2.1, len := p.2.2, op := .read p.2.2, serve := 2 ^ (bit0 + p.1), ea := a, isMeta := isMeta })

/-- Writes of consecutive bytes; a piece in which no byte is enabled makes no access. -/
def State.writeAccs (s : State) (t m : Nat) (isMeta : Bool) (a bit0 : Nat) (bs : List MByte) : Except CellFault (List CellAcc) :=
  match s.cellPieces t m isMeta a bs.length .write with
  | .error e => .error (e.toNat, a)
  | .ok ps => .ok (((List.range ps.length).zip ps |>.map fun p =>
      ({ addr := a + p.2.1, len := p.2.2, op := .write ((bs.drop p.2.1).take p.2.2) none, serve := 2 ^ (bit0 + p.1), ea := a, isMeta := isMeta } : CellAcc)).filter
        fun x => match x.op with | .write d _ => d.any (·.en) | _ => true)

/-- LDS (R340): the token's bytes, and the records of its groups. -/
def State.jobLds (s : State) (t m : Nat) (q : MCfg) (i : CellIn) : Except CellFault CellJob :=
  let a := (i.addrs.headD (0, 0)).2
  if a % q.align != 0 then .error (cAlign.toNat, a)
  else match s.readAccs t m false a (q.bytes q.perTok) 0 with
    | .error e => .error e
    | .ok l =>
      if !q.mv then .ok { accs := l, lanes := i.addrs }
      else
        let sp := q.recSpan i.maddr (i.i0 * q.perTok) q.perTok
        match s.readAccs t m true sp.1 sp.2 l.length with
        | .error e => .error e
        | .ok l2 => .ok { accs := l ++ l2, lanes := i.addrs }

/-- The poison of a token's active lanes. -/
def Token.anyBad (k : Token) : Bool := (k.d.firstBad k.mask).isSome

/-- STS (R341). -/
def State.jobSts (s : State) (t m : Nat) (q : MCfg) (i : CellIn) : Except CellFault CellJob :=
  let a := (i.addrs.headD (0, 0)).2
  let k := i.toks.headD {}
  let bs := q.tokenBytes k
  if a % q.align != 0 then .error (cAlign.toNat, a)
  else match s.writeAccs t m false a 0 bs.1 with
    | .error e => .error e
    | .ok l => .ok { accs := l, lanes := i.addrs, fl := bs.2, pois := k.anyBad, tok := some k }

/-- QNT (R341): the block's codes, and its scale at the row's metadata address plus the block's index in the row. -/
def State.jobQnt (s : State) (t m : Nat) (q : MCfg) (i : CellIn) : Except CellFault CellJob :=
  let a := (i.addrs.headD (0, 0)).2
  let k := i.toks.headD {}
  let on := fun (j : Nat) => k.mask.getLsbD j
  let r := encodeMX q.fmt ((List.range 32).map fun j => if on j then k.d.lane j else 0#36)
  let bs := (List.range 32).map fun j => ({ val := BitVec.ofNat 8 (r.2.1.getD j 0), en := on j, poi := k.d.bad j } : MByte)
  match s.writeAccs t m false a 0 bs with
  | .error e => .error e
  | .ok l =>
    match s.writeAccs t m true (i.maddr + i.i0) l.length [{ val := BitVec.ofNat 8 r.1, poi := k.anyBad }] with
    | .error e => .error e
    | .ok l2 => .ok { accs := l ++ l2, lanes := i.addrs, fl := r.2.2, pois := k.anyBad, tok := some k }

/-- The accesses of lanes one after another: the first lane that fails ends them with its fault. -/
def laneAccs (one : Nat × Nat → Except CellFault (List CellAcc)) : List (Nat × Nat) → List CellAcc × Option CellFault
  | [] => ([], none)
  | l :: rest =>
    match one l with
    | .error e => ([], some e)
    | .ok xs => let r := laneAccs one rest; (xs ++ r.1, r.2)

/-- Accesses grouped by a key, groups in order of their first member. -/
def groupAccs (key : CellAcc → Option Home) (l : List CellAcc) : List (List CellAcc) :=
  l.foldl (fun gs x => match findPlace (fun (g : List CellAcc) => g.any fun y => (key y).isSome && key y == key x) gs with
    | some i => updNth gs i (· ++ [x])
    | none => gs ++ [[x]]) []

/-- Reads of one line combined: from the lowest to the highest byte that is needed (R345). -/
def joinReads (g : List CellAcc) : List CellAcc :=
  match g with
  | [] => []
  | x :: _ =>
    let lo := g.foldl (fun a y => min a y.addr) x.addr
    let hi := g.foldl (fun a y => max a (y.addr + y.len)) 0
    [{ x with addr := lo, len := hi - lo, op := .read (hi - lo), serve := g.foldl (fun a y => a ||| y.serve) 0 }]

/-- The byte that an access writes at an address. -/
def CellAcc.byteAt (x : CellAcc) (a : Nat) : Option MByte :=
  match x.op with
  | .write d _ => if x.addr ≤ a ∧ a < x.addr + x.len then (d[a - x.addr]?) else none
  | _ => none

/-- Writes to one line combined when no two of them write the same byte (R345). -/
def joinWrites (g : List CellAcc) : List CellAcc :=
  match g with
  | [] => []
  | x :: _ =>
    let lo := g.foldl (fun a y => min a y.addr) x.addr
    let hi := g.foldl (fun a y => max a (y.addr + y.len)) 0
    let who := fun (a : Nat) => g.filterMap fun y => y.byteAt a
    if (List.range (hi - lo)).any fun i => decide (1 < (who (lo + i)).length) then g
    else
      [{ x with addr := lo, len := hi - lo, op := .write ((List.range (hi - lo)).map fun i => (who (lo + i)).headD { val := 0, en := false }) none,
                serve := g.foldl (fun a y => a ||| y.serve) 0 }]

/-- GATH and RLD (R340). -/
def State.jobGath (s : State) (t m : Nat) (q : MCfg) (i : CellIn) : Except CellFault CellJob :=
  let n := q.bytes q.perLane
  let one := fun (l : Nat × Nat) =>
    if l.2 % q.align != 0 then Except.error (cAlign.toNat, l.2)
    else match s.cellHome t m false l.2 n .read with
      | .error e => .error (e.toNat, l.2)
      | .ok h => .ok ((cutAt 64 n h.pos 0 n).map fun p =>
          ({ addr := l.2 + p.1, len := p.2, op := .read p.2, serve := 2 ^ l.1, ea := l.2 } : CellAcc))
  let r := laneAccs one i.addrs
  match r.2 with
  | some e => .error e
  | none => .ok { accs := (groupAccs (fun x => s.cellLine t m x.addr .read) r.1).flatMap joinReads, lanes := i.addrs, mask := (i.toks.headD {}).mask }

/-- SCAT and RST (R341): the lanes active in both tokens, in lane order; the accesses of earlier lanes go out before the fault of a later one. -/
def State.jobScat (s : State) (t m : Nat) (q : MCfg) (i : CellIn) : Except CellFault CellJob :=
  let k := i.toks.getD 1 {}
  let ls := i.addrs.filter fun l => k.mask.getLsbD l.1
  let enc := fun (l : Nat × Nat) => q.laneBytes (k.d.lane l.1) (k.d.bad l.1)
  let one := fun (l : Nat × Nat) =>
    let bs := (enc l).1
    match s.cellHome t m false l.2 bs.length .write with
    | .error e => Except.error (e.toNat, l.2)
    | .ok h => .ok ((cutAt 64 bs.length h.pos 0 bs.length).map fun p =>
        ({ addr := l.2 + p.1, len := p.2, op := .write ((bs.drop p.1).take p.2) none, serve := 2 ^ l.1, ea := l.2 } : CellAcc))
  let r := laneAccs one ls
  .ok { accs := (groupAccs (fun x => s.cellLine t m x.addr .write) r.1).flatMap joinWrites, fault := r.2, lanes := ls,
        fl := ls.foldl (fun f l => f ||| (enc l).2) fNone, pois := ls.any fun l => k.d.bad l.1, tok := some k }

/-- ATOM and RAMO (R342): one access for each active lane, in lane order. -/
def State.jobAtom (s : State) (t m : Nat) (q : MCfg) (i : CellIn) : Except CellFault CellJob :=
  let k := i.toks.headD {}
  let x := i.toks.getD 1 {}
  let c := i.toks.getD 2 {}
  match consumeAll q.poisRule (if q.aop = 9 then [x.d, c.d] else [x.d]) k.mask with
  | .error e => .error (cPoisonUse.toNat, e)
  | .ok (ls, pz) =>
    let v := ls.getD 0 {}
    let w := ls.getD 1 {}
    let one := fun (l : Nat × Nat) =>
      if l.2 % 4 != 0 then Except.error (cAlign.toNat, l.2)
      else match s.cellHome t m false l.2 4 .atomic with
        | .error e => .error (e.toNat, l.2)
        | .ok _ => .ok [({ addr := l.2, len := 4, serve := 2 ^ l.1, ea := l.2,
                           op := .atomic 4 q.aop (BitVec.ofNat 64 ((v.lane l.1).toNat % 2 ^ 32)) (v.bad l.1)
                             (BitVec.ofNat 64 ((w.lane l.1).toNat % 2 ^ 32)) } : CellAcc)]
    let r := laneAccs one i.addrs
    .ok { accs := r.1, fault := r.2, lanes := i.addrs, mask := k.mask, pois := pz }

/-- TAS (R342): the bit is named by the low six bits of the index. -/
def State.jobTas (s : State) (t m : Nat) (q : MCfg) (i : CellIn) : Except CellFault CellJob :=
  let k := i.toks.headD {}
  match consumeLanes q.poisRule k.d k.mask with
  | .error e => .error (cPoisonUse.toNat, e)
  | .ok (v, pz) =>
    let one := fun (l : Nat × Nat) =>
      if l.2 % 8 != 0 then Except.error (cAlign.toNat, l.2)
      else match s.cellHome t m false l.2 8 .atomic with
        | .error e => .error (e.toNat, l.2)
        | .ok _ => .ok [({ addr := l.2, len := 8, serve := 2 ^ l.1, ea := l.2,
                           op := .atomic 8 10 (BitVec.ofNat 64 ((v.lane l.1).toNat % 64)) false 0 } : CellAcc)]
    let r := laneAccs one i.addrs
    .ok { accs := r.1, fault := r.2, lanes := i.addrs, mask := k.mask, pois := pz }

/-- A counter port's token (R332). -/
def jobCounter (i : CellIn) : CellJob :=
  let v := (i.addrs.headD (0, 0)).2
  { tok := some { d := Lanes.of fun j => (BitVec.ofNat 36 ((v + j) % 2 ^ 32), false), mask := allLanes, tag := 0 } }

/-- The tag counts of a firing (R271, R327). -/
def Collar.memTags (c : Collar) (m : Nat) (q : MCfg) (toks : List Token) : Except CellFault Collar :=
  if 8 ≤ q.region ∨ toks = [] then .ok c
  else
    let n := if q.rateo = 1 then max 1 (c.active.takers 0 (96 + m) 0).length else 0
    c.tagFlow q.region (List.replicate n (toks.headD {}).tag) (toks.map (·.tag))

/-- May the cell fire: it acts, has not fired in this collar cycle, has an address, room for one more ungiven token and in its spill queue, has issued every
access before, and has the credits it needs (R327, R345, R351, R353, R356). -/
def State.cellMayFire (s : State) (t m : Nat) (q : MCfg) : Bool :=
  let c := (s.tile t).col
  let cyc := s.colCyc t
  let k := c.mcell m
  c.mayAct cyc (nodeM m) && c.lastFire.at (nodeM m) 0 != cyc + 1 && k.addr.isSome && decide (k.ungiven < 16) && decide (k.spill.length < 16)
    && k.ents.all RetEnt.issued && ((s.tile t).cellReq.at m []).isEmpty
    && !(q.isSource && c.draining) && (!q.metered || decide (64 ≤ s.mcredNow t m))

/-- What a run's first firing takes from the ordering input (R334): the collar without the token, when one is needed; or the fault of a marked one. -/
def Collar.takeOrder (c : Collar) (m : Nat) (q : MCfg) : Except CellFault (Option Collar) :=
  if (c.mcell m).running then .ok (some c)
  else if !q.ord then .ok none
  else
    match c.mord.at m [] with
    | [] => .ok none
    | k :: rest => if k then .error (cLinkUnknown.toNat, 0) else .ok (some (Collar.took { c with mord := c.mord.put m rest } (nodeM m) 1))

/-- The collar after a firing: the tokens are taken, the address cell steps, and the entry stands in the return buffer. -/
def Collar.fired (c : Collar) (m cyc : Nat) (q : MCfg) (i : CellIn) (j : CellJob) : Collar :=
  let remote := q.mop == 9 || q.mop == 10 || q.mop == 11
  let idx := (c.active.acell q.alink).aop == 2
  let st := c.stepDims q.alink
  let runEnd := remote || st.2.1
  let wrapc := (c.active.acell q.alink).wrapc && st.1
  let gives := q.mop == 0 || q.rateo == 1
  let c := Collar.took { st.2.2 with minp := if q.ratei = 0 then st.2.2.minp else st.2.2.minp.upd m [] (·.drop q.ratei) } (nodeM m) q.ratei
  let c := if j.pois then c.cstatBit 16 else c
  let c := (c.cstatFlags j.fl).modMc m fun k =>
    let named := (List.range j.accs.length).zip j.accs |>.map fun p => { p.2 with k := k.nextK + p.1 }
    let e : RetEnt := { pos := k.spos.toNat, mask := j.mask, tag := if q.mop = 0 then 0 else (i.toks.headD {}).tag, lanes := j.lanes, i0 := i.i0,
                        maddr := i.maddr, accs := named, rowEnd := st.1, runEnd := runEnd, data := gives, tok := j.tok, fault := j.fault }
    { k.pushRet false e with
      nextK := k.nextK + j.accs.length, spos := k.spos + 1, addr := none,
      maddr := if st.1 then none else k.maddr,
      running := if runEnd then !q.ord && idx else true,
      runDone := runEnd && !q.ord && !idx,
      owe := if wrapc && !(q.mop == 0 || q.mop == 1 || q.mop == 3 || q.mop == 9) then k.owe ++ [false] else k.owe }
  ({ c with lastFire := c.lastFire.put (nodeM m) (cyc + 1) } : Collar).touch cyc

/-- One firing of a memory cell. -/
def State.cellFire (s : State) (t m : Nat) (q : MCfg) (job : CellIn → Except CellFault CellJob) : State :=
  let c := (s.tile t).col
  let k := c.mcell m
  let cyc := s.colCyc t
  let fail := fun (e : CellFault) => s.mcellFault t m e.1 (BitVec.ofNat 64 e.2) k.spos.toNat
  let toks := (c.minp.at m []).take q.ratei
  if toks.length < q.ratei then s
  else match c.takeOrder m q with
    | .error e => fail e
    | .ok none => s
    | .ok (some c1) =>
      if !s.cellMayFire t m q then s
      else if q.mv && k.maddr.isNone then (if k.mdone then fail (cConfig.toNat, 0) else s)
      else
        let i : CellIn := { toks := toks, addrs := k.addr.getD [], i0 := (c.dim q.alink 0).1, maddr := k.maddr.getD 0 }
        match job i with
        | .error e => fail e
        | .ok j =>
          match c1.memTags m q toks with
          | .error e => fail e
          | .ok c2 =>
            let s := if q.metered then s.spendCred t m else s
            let k1 := (s.tile t).col.mcell m
            s.modCol t fun _ => (c2.modMc m fun k => { k with mcred := k1.mcred, mcredAt := k1.mcredAt }).fired m cyc q i j

/-- One event of a memory cell whose operation is mop: it goes on with what it has, fires if it can, and issues the accesses of the firing. -/
def State.cellTurn (s : State) (t m : Nat) (job : State → MCfg → CellIn → Except CellFault CellJob) : State :=
  let s := s.cellGo t m
  let q := (s.tile t).col.active.mcell m
  if (s.tile t).col.mayAct (s.colCyc t) (nodeM m) then (s.cellFire t m q (job s q)).cellGo t m else s

/-- An event of a memory cell: nothing happens there when it holds another operation. -/
def mcellEvent (t m mop : Nat) (f : State → State) (s : State) : Out :=
  if t < numTiles ∧ m < 32 then
    let q := (s.tile t).col.active.mcell m
    if q.av && q.mop == mop then .next (f s) else .next s
  else .fault .noSuchUnit

/-- LDS (R340). -/
def execLds (t m : Nat) (s : State) : Out := mcellEvent t m 1 (fun s => s.cellTurn t m fun s q i => s.jobLds t m q i) s
/-- STS (R341). -/
def execSts (t m : Nat) (s : State) : Out := mcellEvent t m 2 (fun s => s.cellTurn t m fun s q i => s.jobSts t m q i) s
/-- GATH (R340). -/
def execGath (t m : Nat) (s : State) : Out := mcellEvent t m 3 (fun s => s.cellTurn t m fun s q i => s.jobGath t m q i) s
/-- SCAT (R341). -/
def execScat (t m : Nat) (s : State) : Out := mcellEvent t m 4 (fun s => s.cellTurn t m fun s q i => s.jobScat t m q i) s
/-- ATOM (R342). -/
def execAtom (t m : Nat) (s : State) : Out := mcellEvent t m 5 (fun s => s.cellTurn t m fun s q i => s.jobAtom t m q i) s
/-- TAS (R342). -/
def execTas (t m : Nat) (s : State) : Out := mcellEvent t m 6 (fun s => s.cellTurn t m fun s q i => s.jobTas t m q i) s
/-- QNT (R341). -/
def execQnt (t m : Nat) (s : State) : Out := mcellEvent t m 8 (fun s => s.cellTurn t m fun s q i => s.jobQnt t m q i) s
/-- RLD (R340, R222). -/
def execRld (t m : Nat) (s : State) : Out := mcellEvent t m 9 (fun s => s.cellTurn t m fun s q i => s.jobGath t m q i) s
/-- RST (R341, R222). -/
def execRst (t m : Nat) (s : State) : Out := mcellEvent t m 10 (fun s => s.cellTurn t m fun s q i => s.jobScat t m q i) s
/-- RAMO (R342, R222). -/
def execRamo (t m : Nat) (s : State) : Out := mcellEvent t m 11 (fun s => s.cellTurn t m fun s q i => s.jobAtom t m q i) s
/-- The counter port (R332). -/
def execCounterPort (t m : Nat) (s : State) : Out := mcellEvent t m 0 (fun s => s.cellTurn t m fun _ _ i => .ok (jobCounter i)) s

/-! ## Answers (R340, R341, R351 to R353, R355) -/

/-- The dirty range takes in the bytes of a write that has performed. -/
def MCell.dirty (k : MCell) (isMeta : Bool) (lo hi : Nat) : MCell :=
  if isMeta then { k with mlo := if k.mv then min k.mlo lo else lo, mhi := if k.mv then max k.mhi hi else hi, mv := true }
  else { k with dlo := if k.dv then min k.dlo lo else lo, dhi := if k.dv then max k.dhi hi else hi, dv := true }

/-- The bytes that an access has written, as lowest and highest address; old are the bytes that its answer carries. An atomic that the poison of its word or
a failed comparison kept from writing has written none (R342). -/
def CellAcc.wrote (x : CellAcc) (old : List MByte) : Option (Nat × Nat) :=
  match x.op with
  | .write d _ =>
    let on := ((List.range d.length).zip d).filter fun p => p.2.en
    match on.head?, on.getLast? with
    | some p, some r => some (x.addr + p.1, x.addr + r.1)
    | _, _ => none
  | .atomic n op _ _ c =>
    let o := old.take n
    if (o.any (·.poi) && op != 8) || (op == 9 && ofBytes (o.map (·.val)) != c.toNat % 256 ^ n) then none else some (x.addr, x.addr + x.len - 1)
  | _ => none

/-- The bytes that an access has read go to its entry. -/
def RetEnt.take (e : RetEnt) (x : CellAcc) (d : List MByte) : RetEnt :=
  let from_ := match x.op with | .atomic _ _ _ _ _ => (ctzFrom 32 x.serve) * 8 | _ => x.addr
  let put := fun (g : AMap MByte) => ((List.range d.length).zip d).foldl (fun g p => g.put (from_ + p.1) p.2) g
  if x.isMeta then { e with mgot := put e.mgot } else { e with got := put e.got }

/-- An answer for access n of memory cell m. -/
def State.cellAnswer (s : State) (t m n : Nat) (r : Reply) : State :=
  let c := (s.tile t).col
  let cyc := s.colCyc t
  let q := c.active.mcell m
  let s := s.modCol t fun c => Collar.touch { c with reqout := c.reqout.upd (nodeM m) 0 fun n => (n + 255) % 256 } cyc
  match (c.mcell m).accOf n with
  | none => s
  | some (e, x) =>
    let done := fun (s : State) => s.modMc t m fun k => k.modAcc n fun y => { y with st := 3 }
    let isRead : Bool := match x.op with | .read _ => true | _ => false
    let remote := q.mop == 9 || q.mop == 11
    let allBad := fun (s : State) (u : Bool) => s.modMc t m fun k => k.modEntOf n fun e => { e with lanePoi := allLanes, unk := e.unk || u }
    let zeros : List MByte := List.replicate x.len { val := 0, poi := true }
    let s := match r.stat with
      | .notres => s.modMc t m fun k => k.modAcc n fun y => { y with st := 2 }
      | .busy => s.modMc t m fun k => k.modAcc n fun y => { y with st := if y.st = 5 then 4 else 0 }
      | .fail =>
        if remote then allBad (done s) false
        else (done s).mcellFault t m cRemoteFail.toNat (BitVec.ofNat 64 (if isRead then x.ea else x.addr)) e.pos
      | .unknown =>
        if remote then allBad (done s) true
        else if isRead then (done s).modMc t m fun k => k.modEntOf n fun e => e.take x zeros
        else
          let s := (done s).modMc t m fun k => k.modEntOf n fun e => { e.take x zeros with unk := true }
          if q.cpl then s else s.mcellFault t m cLinkUnknown.toNat 0 e.pos
      | _ =>
        let s := (done s).modMc t m fun k => k.modEntOf n fun e => e.take x ((r.data.drop x.skip).take (match x.op with | .write _ _ => 0 | _ => x.len))
        match x.wrote (r.data.drop x.skip) with
        | some (lo, hi) => if baseSpace (c.baseReg (if x.isMeta then q.mlink else q.alink)) = 2 then s.modMc t m fun k => k.dirty x.isMeta lo hi else s
        | none => s
    s.respill t m

/-- The oldest answer for memory cell m. -/
def State.mcellReply (s : State) (t m : Nat) : State :=
  match findPlace (fun (a : Nat × Nat × Reply) => a.1 == m) (s.tile t).cdone with
  | none => s
  | some i =>
    match (s.tile t).cdone[i]? with
    | none => s
    | some (_, n, r) => ((s.modTile t fun x => { x with cdone := delNth x.cdone i }).cellAnswer t m n r).cellGo t m

/-- MCELL_REPLY (R351, R353). -/
def execMcellReply (t m : Nat) (s : State) : Out := if t < numTiles ∧ m < 32 then .next (s.mcellReply t m) else .fault .noSuchUnit

end Sys2Proof.Machine
end

