-- ==== Sys2Proof/Machine/Dcmp.lean ====
section
/-! DEFINITION. EC4 decompression (spec/07_mem_formats.md R201 to R204; spec/12_q_cells.md R335, R347 to R350): lines, headers, symbols, decode tables and
tokens of a DCMP cell. -/

namespace Sys2Proof.Machine

/-! ## Lines -/

/-- The number of lines of the run: the limit in force of dimension 0. -/
def Collar.runLines (c : Collar) (q : MCfg) : Nat := (c.dim q.alink 0).2

/-- The byte at a position of the run, once its line has arrived. -/
def MCell.lineByte (k : MCell) (p : Nat) : Option MByte :=
  if p / 64 < k.dec.line0 then none
  else
    match k.ret[p / 64 - k.dec.line0]? with
    | some e => if e.complete then some (e.got.at ((e.lanes.headD (0, 0)).2 + p % 64) {}) else none
    | none => none

/-- n bytes from a position on, once all of them have arrived. -/
def MCell.lineBytes (k : MCell) (p : Nat) : Nat → Option (List MByte)
  | 0 => some []
  | n + 1 =>
    match k.lineByte p, MCell.lineBytes k (p + 1) n with
    | some b, some l => some (b :: l)
    | _, _ => none

/-- Is the poison mark of an arrived byte set. -/
def MCell.lineBad (k : MCell) (p : Nat) : Bool := match k.lineByte p with | some b => b.poi | none => false

/-- The lines before the one that holds position p have been consumed: they leave the return buffer (R353, R446). -/
def MCell.consumeTo (k : MCell) (p : Nat) : Nat → MCell
  | 0 => k
  | fuel + 1 =>
    match k.ret with
    | e :: rest =>
      if e.complete && decide ((k.dec.line0 + 1) * 64 ≤ p) then
        MCell.consumeTo { k with ret := rest, dpos := k.dpos + 1, dec := { k.dec with line0 := k.dec.line0 + 1 } } p fuel
      else k
    | [] => k

/-- The lines that an ended run does not read leave as they are answered. -/
def MCell.dropLines (k : MCell) : Nat → MCell
  | 0 => k
  | fuel + 1 =>
    match k.ret with
    | e :: rest => if e.complete then MCell.dropLines { k with ret := rest, dpos := k.dpos + 1 } fuel else k
    | [] => k

/-! ## Banks (R348) -/

/-- The decode-table bank of a number. -/
def MCell.bank (k : MCell) (b : Bool) : EcBank := if b then k.bank1 else k.bank0
/-- A bank replaced. -/
def MCell.setBank (k : MCell) (b : Bool) (e : EcBank) : MCell := if b then { k with bank1 := e } else { k with bank0 := e }

/-- A symbol of bank b is still in the decoder, or in the token that waits for its records. -/
def MCell.holds (k : MCell) (b : Bool) : Bool := (k.dec.syms ++ (k.out.map (·.syms)).getD []).any fun x => x.bank == b

/-! ## Headers (R201, R203, R347) -/

/-- What the decoder did, with the cell as it left it: it stands and waits, it went on, or it faulted. -/
inductive DecOut where
  | wait (k : MCell)
  | on (k : MCell)
  | bad (k : MCell) (cause : Nat)
deriving DecidableEq, Repr

/-- The address of the byte at a position of the run. -/
def Decomp.addrOf (d : Decomp) (p : Nat) : Nat := d.base + p
/-- The position in the run of the first 16-byte aligned address at or after the byte at position p (R201). -/
def Decomp.align16 (d : Decomp) (p : Nat) : Nat := (d.addrOf p + 15) / 16 * 16 - d.base
/-- The stream position of the line that holds the header at dec.pos (R382, R446). -/
def Decomp.linePos (d : Decomp) : Nat := (d.pos0 + d.pos / 64) % 2 ^ 32

/-- The table record at the position: it loads the bank not in use, once no symbol decoded from that bank remains. -/
def MCell.tableRecord (k : MCell) (bs : List MByte) (cyc : Nat) : DecOut :=
  let w := ofBytes (bs.map (·.val))
  if bs.any (·.poi) || nfld w 63 8 != 0 then .bad k cDecodeTable.toNat
  else if k.holds (!k.u) || k.dec.table.isSome then .wait k
  else
    let b := k.bank (!k.u)
    let rec_ : TableLoad := { image := BitVec.ofNat 64 (w / 2 ^ 64), addr := k.dec.addrOf k.dec.pos, pos := k.dec.linePos, since := cyc }
    .on { k.setBank (!k.u) { b with ld := true } with dec := { k.dec with table := some rec_, pos := k.dec.pos + 16 } }

/-- The block header at the position: its ranges, then U := BANK, then the bank's check (R203 steps 1 and 2, R348). DESIGN CHOICE (notes/assumptions/122.md): a
payload that passes the end of the run (R347) faults here, among the ranges of step 1, before any symbol of the block is delivered. -/
def MCell.blockHeader (k : MCell) (bs : List MByte) (total : Nat) : DecOut :=
  let w := ofBytes (bs.map (·.val))
  let nsym := nfld w 20 8
  let plen := nfld w 47 32
  let bank := nbit w 28
  if bs.any (·.poi) || nsym = 0 || 4096 < nsym || plen = 0 || 6144 < plen || nfld w 127 96 != 0 || nfld w 63 48 != 0 || nfld w 31 29 != 0
      || nfld w 23 21 != 0 || total < k.dec.pos + 16 + plen then .bad k cChecksum.toNat
  else
    let k := { k with u := bank }
    let b := k.bank bank
    if b.ld then .wait k
    else if !b.v || b.chk.toNat != nfld w 27 24 then .bad k cDecodeTable.toNat
    else .on { k with dec := { k.dec with inBlock := true, nsym := nsym, left := nsym, plen := plen, bit := 0, want := nfld w 95 64, crc := 0xFFFFFFFF,
                                          half := none, blockPoi := false } }

/-- The 16 bytes at a header position. -/
def MCell.header (k : MCell) (total cyc : Nat) : DecOut :=
  if total ≤ k.dec.pos then .on { k with dec := { k.dec with ended := true } }
  else if total < k.dec.pos + 16 then .bad k cChecksum.toNat
  else
    match k.lineBytes k.dec.pos 16 with
    | none => .wait k
    | some bs =>
      let m := (bs.headD {}).val.toNat
      if m = 0xE7 then k.tableRecord bs cyc
      else if bs.all (fun b => b.val == 0 && !b.poi) then .on { k with dec := { k.dec with ended := true } }
      else if m = 0xEC then k.blockHeader bs total
      else .bad k cChecksum.toNat

/-! ## Symbols (R203 steps 3 and 4, R204) -/

/-- The next symbol of the payload: the code word that the bits from bit on begin with, trying l, l + 1, ... bits. -/
def MCell.readSym (k : MCell) (codes : List (Nat × Nat × Nat)) : Nat → Nat → Nat → Option (Except Nat (Nat × Nat))
  | 0, _, _ => some (.error cChecksum.toNat)
  | fuel + 1, l, v =>
    let p := k.dec.bit + l
    if k.dec.plen ≤ p / 8 then some (.error cChecksum.toNat)
    else
      match k.lineByte (k.dec.pos + 16 + p / 8) with
      | none => none
      | some b =>
        let v := v * 2 + bnat (nbit b.val.toNat (7 - p % 8))
        match ecMatch codes (l + 1) v with
        | some sym => some (.ok (sym, k.dec.bit + l + 1))
        | none => if ecViable codes (l + 1) v then MCell.readSym k codes fuel (l + 1) v else some (.error cChecksum.toNat)

/-- The check so far, with one more symbol. -/
def Decomp.addCheck (d : Decomp) (sym : Nat) : Decomp :=
  match d.half with
  | none => { d with half := some sym }
  | some lo => { d with half := none, crc := crcBytes d.crc [BitVec.ofNat 8 (lo + sym * 16)] }

/-- The check of the whole block. -/
def Decomp.check (d : Decomp) : Nat :=
  (match d.half with | some lo => crcBytes d.crc [BitVec.ofNat 8 lo] | none => d.crc) ^^^ 0xFFFFFFFF

/-- Payload bytes of the block that have arrived and carry poison: every symbol of the block not yet given is poisoned, those of the token that waits for
its records among them (R204). -/
def MCell.readPoison (k : MCell) : MCell :=
  if k.dec.blockPoi || !k.dec.inBlock then k
  else
    let p0 := k.dec.pos + 16
    if (List.range k.dec.plen).any fun i => k.lineBad (p0 + i) then
      let mark := fun (l : List EcSym) => l.map fun x => if x.blk == k.dec.pos then { x with poi := true } else x
      { k with dec := { k.dec with blockPoi := true, syms := mark k.dec.syms }, out := k.out.map fun e => { e with syms := mark e.syms } }
    else k

/-- Has every line of the payload that is not yet consumed arrived: the words behind the last symbol are read too (R204). -/
def MCell.payloadIn (k : MCell) : Bool :=
  (List.range ((k.dec.pos + 15 + k.dec.plen) / 64 + 1 - k.dec.line0)).all fun i => match k.ret[i]? with | some e => e.complete | none => false

/-- One step inside a block. -/
def MCell.blockStep (k : MCell) (codes : List (Nat × Nat × Nat)) : DecOut :=
  if k.dec.left = 0 then
    if !k.payloadIn then .wait k
    else if !k.dec.blockPoi && k.dec.check != k.dec.want then .bad k cChecksum.toNat
    else .on { k with dec := { k.dec with inBlock := false, bit := 0, pos := k.dec.align16 (k.dec.pos + 16 + k.dec.plen) } }
  else
    match k.readSym codes 15 0 0 with
    | none => .wait k
    | some (.error e) => .bad k e
    | some (.ok (sym, bit)) =>
      let d := { k.dec.addCheck sym with bit := bit, left := k.dec.left - 1 }
      .on { k with dec := { d with syms := d.syms ++ [{ code := sym, poi := d.blockPoi, blk := d.pos, bank := k.u }] } }

/-- The decoder goes on until it has n symbols more, waits or faults. -/
def MCell.decode (k : MCell) (total cyc n : Nat) : Nat → MCell × Option Nat
  | 0 => (k, none)
  | fuel + 1 =>
    if k.dec.ended || decide (n ≤ k.dec.syms.length) then (k, none)
    else
      let k := k.readPoison
      let r := if k.dec.inBlock then k.blockStep (ecCodes (k.bank k.u).image.toNat) else k.header total cyc
      match r with
      | .wait k => (k, none)
      | .bad k c => (k, some c)
      | .on k => MCell.decode k total cyc n fuel

/-! ## The cell's turn -/

/-- Issue one line read: fewer than four lines are issued and not yet consumed (R349, R353). -/
def State.dcmpLine (s : State) (t m : Nat) (q : MCfg) : State :=
  let c := (s.tile t).col
  let k := c.mcell m
  let cyc := s.colCyc t
  if k.dec.ended || k.allOut || k.addr.isNone || !c.mayAct cyc (nodeM m) || c.draining || decide (4 ≤ k.ret.length) || decide (16 ≤ k.spill.length)
      || !k.ents.all RetEnt.issued || !((s.tile t).cellReq.at m []).isEmpty || decide (s.mcredNow t m < 64) then s
  else
    match c.takeOrder m q with
    | .error e => s.mcellFault t m e.1 (BitVec.ofNat 64 e.2) k.spos.toNat
    | .ok none => s
    | .ok (some c1) =>
      let a := ((k.addr.getD []).headD (0, 0)).2
      match s.readAccs t m false a 64 0 with
      | .error e => s.mcellFault t m e.1 (BitVec.ofNat 64 e.2) k.spos.toNat
      | .ok l =>
        let st := c1.stepDims q.alink
        let s := s.spendCred t m
        let k1 := (s.tile t).col.mcell m
        s.modCol t fun _ => (st.2.2.modMc m fun k =>
          let named := (List.range l.length).zip l |>.map fun p => { p.2 with k := k.nextK + p.1 }
          let k := if k.dec.started then k
            else { k with u := q.bank == 1, dec := { table := k.dec.table, started := true, pos0 := k.spos.toNat, base := a } }
          { k.pushRet true { pos := k.spos.toNat, lanes := [(0, a)], accs := named, data := false } with
                   nextK := k.nextK + l.length, spos := k.spos + 1, addr := none, running := true, allOut := st.2.1, mcred := k1.mcred, mcredAt := k1.mcredAt }).touch cyc

/-- Is a token's worth of symbols held, or the rest of an ended run. -/
def MCell.tokenDue (k : MCell) (q : MCfg) : Bool :=
  k.out.isNone && !k.dec.syms.isEmpty && (k.dec.ended || decide (q.perTok ≤ k.dec.syms.length))

/-- A token's symbols leave the decoder; with metadata, the reads of their records are formed (R335, R349). -/
def State.dcmpToken (s : State) (t m : Nat) (q : MCfg) : State :=
  let c := (s.tile t).col
  let k := c.mcell m
  let cyc := s.colCyc t
  if !c.mayAct cyc (nodeM m) || !k.tokenDue q || !k.owe.isEmpty then s
  else if q.mv && k.maddr.isNone then (if k.mdone then s.mcellFault t m cConfig.toNat 0 k.spos.toNat else s)
  else
    let n := min q.perTok k.dec.syms.length
    let syms := k.dec.syms.take n
    let sp := q.recSpan (k.maddr.getD 0) k.dec.elem n
    let l := if q.mv then s.readAccs t m true sp.1 sp.2 0 else .ok []
    match l with
    | .error e => s.mcellFault t m e.1 (BitVec.ofNat 64 e.2) k.dpos.toNat
    | .ok l =>
      s.modCol t fun c => (c.modMc m fun k =>
        let named := (List.range l.length).zip l |>.map fun p => { p.2 with k := k.nextK + p.1 }
        { k with out := some { pos := k.dpos.toNat, i0 := k.dec.elem, maddr := k.maddr.getD 0, accs := named, syms := syms }, nextK := k.nextK + l.length,
                 dec := { k.dec with syms := k.dec.syms.drop n, elem := k.dec.elem + n } }).touch cyc

/-- The waiting token is given once its records have come and there is room; completion tokens go before what follows them. -/
def Collar.dcmpGive (c : Collar) (m cyc : Nat) (q : MCfg) : Collar :=
  let k := c.mcell m
  if !c.mayAct cyc (nodeM m) then c
  else
    let c := match k.out with
      | some e => if e.complete && c.roomMem m q then (c.giveEnt m cyc q e).modMc m fun k => { k with out := none } else c
      | none => c
    match (c.mcell m).owe with
    | b :: rest => if c.roomXc (96 + m) 0 1 then ((c.modMc m fun k => { k with owe := rest }).giveMemCtl m [b]).touch cyc else c
    | [] => c

/-- The run is over when it has ended, every symbol has been given and every line read has been answered: the completion token is owed, and an ordered
cell may take its next ordering token (R334, R336). -/
def Collar.dcmpEnd (c : Collar) (m cyc : Nat) (q : MCfg) : Collar :=
  let k := c.mcell m
  if !k.running || !k.dec.ended || !k.dec.syms.isEmpty || k.out.isSome then c
  else
    let k := k.dropLines 20
    if !k.ret.isEmpty then c.modMc m fun _ => k
    else
      let wrapc := (c.active.acell q.alink).wrapc
      Collar.touch { (c.modMc m fun _ =>
        { k with running := false, runDone := !q.ord, allOut := false, dec := { k.dec with started := false, ended := false }, addr := none, maddr := none,
                 owe := k.owe ++ (if wrapc then [false] else []) ++ (if q.cpl then [false] else []) }) with
        acnt := c.acnt.put (q.alink * 4) (0, c.runLines q) } cyc

/-- Decode up to 32 symbols. -/
def State.dcmpDecode (s : State) (t m : Nat) (q : MCfg) : State :=
  let c := (s.tile t).col
  let k := c.mcell m
  let cyc := s.colCyc t
  if !c.mayAct cyc (nodeM m) || !k.running || k.dec.ended || !k.dec.started || decide (q.perTok ≤ k.dec.syms.length) then s
  else
    let total := 64 * (if k.allOut then k.dec.line0 + k.ret.length else c.runLines q)
    let r := k.decode total cyc (k.dec.syms.length + 32) 200
    let k2 := if r.1.dec.inBlock then r.1.consumeTo (r.1.dec.pos + 16 + if r.1.dec.left = 0 then r.1.dec.plen else r.1.dec.bit / 8) 20 else r.1.consumeTo r.1.dec.pos 20
    let s := if k2 = k then s else s.modCol t fun c => (c.modMc m fun _ => k2).touch cyc
    match r.2 with
    | some cause => s.mcellFault t m cause (BitVec.ofNat 64 (k2.dec.addrOf k2.dec.pos)) k2.dec.linePos
    | none => s

/-- One event of a DCMP cell. -/
def State.dcmpTurn (s : State) (t m : Nat) : State :=
  let q := (s.tile t).col.active.mcell m
  let cyc := s.colCyc t
  let s := s.cellPump t m 160
  let s := s.modCol t fun c => c.dcmpGive m cyc q
  if (s.tile t).col.lastFire.at (nodeM m) 0 = cyc + 1 then s
  else
    let s0 := s
    let s := s.dcmpDecode t m q
    let s := s.dcmpToken t m q
    let s := (s.dcmpLine t m q).cellPump t m 160
    let s := s.modCol t fun c => (c.dcmpGive m cyc q).dcmpEnd m cyc q
    if s = s0 then s else s.modCol t fun c => { c with lastFire := c.lastFire.put (nodeM m) (cyc + 1) }

/-- DCMP (R347 to R350). -/
def execDcmp (t m : Nat) (s : State) : Out := mcellEvent t m 7 (fun s => s.dcmpTurn t m) s

/-- The table record that waits is checked, and loaded into the bank not in use in the second collar cycle after it was read (R202, R348). -/
def State.tableLoad (s : State) (t m : Nat) : State :=
  let k := (s.tile t).col.mcell m
  let cyc := s.colCyc t
  match k.dec.table with
  | none => s
  | some r =>
    let img := r.image
    let b := if k.bank0.ld then false else true
    if cyc < r.since + 2 then s
    else if ecValid img.toNat then
      s.modCol t fun c => (c.modMc m fun k =>
        { k.setBank b { image := img, chk := BitVec.ofNat 4 (ecCheck img.toNat), v := true, ld := false } with dec := { k.dec with table := none } }).touch cyc
    else
      (s.modMc t m fun k => { k.setBank b { k.bank b with v := false, ld := false } with dec := { k.dec with table := none } }).mcellFault t m
        cDecodeTable.toNat (BitVec.ofNat 64 r.addr) r.pos

/-- DECODE_TABLE_LOAD (R348). -/
def execDecodeTableLoad (t m : Nat) (s : State) : Out := if t < numTiles ∧ m < 32 then .next (s.tableLoad t m) else .fault .noSuchUnit

end Sys2Proof.Machine
end

