-- ==== Sys2Proof/Machine/Notices.lean ====
section
/-! DEFINITION. RESIDENT notices (spec/06_mem_spaces.md R165; spec/12_q_cells.md R352; spec/14_q_stop.md R390): diverted accesses become due, and copies that
stand at a granule go on. -/

namespace Sys2Proof.Machine

/-- The accesses of a memory cell that wait for a granule of the tile's ASID are due to be reissued. -/
def State.noticeCell (s : State) (t m g : Nat) : State :=
  let hit := fun (x : CellAcc) => x.st == 2 && (match s.granule t m x.isMeta x.addr with | some v => (s.tile t).reg.asid.toNat * 2 ^ 35 + v == g | none => false)
  let f := fun (e : RetEnt) => { e with accs := e.accs.map fun x => if hit x then { x with st := 4 } else x }
  s.modMc t m fun k => { k with ret := k.ret.map f, out := k.out.map f }

/-- The copy engine's requests that wait for a granule go out again. -/
def Tile.noticeCopy (x : Tile) (g : Nat) : Tile :=
  let hit := fun (q : CopyReq) => q.st == 2 && (granKey (x.reg.asid.toNat) (cpOff q.addr) == g)
  { x with copies := x.copies.map fun r => { r with reqs := r.reqs.map fun q => if hit q then { q with st := 0 } else q } }

/-- One notice for a unit of a tile: 0 to 31 a memory cell, 32 the copy engine. A stopped collar discards it (R390). -/
def State.residentNotice (s : State) (t who g : Nat) : State :=
  let x := s.tile t
  if who < 32 then
    if x.stopAt.isSome then s else (s.noticeCell t who g).cellGo t who
  else if who = 32 then (s.modTile t fun x => x.noticeCopy g).copyPump t
  else s

/-- Does access n of memory cell m wait in a granule. -/
def State.accIn (s : State) (t m n g : Nat) : Bool :=
  match ((s.tile t).col.mcell m).accOf n with
  | some (_, x) => (match s.granule t m x.isMeta x.addr with | some v => (s.tile t).reg.asid.toNat * 2 ^ 35 + v == g | none => false)
  | none => false

/-- Does a unit of a tile still wait for the answer to a request that names a granule, or has it an answer that it has not taken: its notice comes after the
answer (notes/assumptions/21.md). -/
def State.answerAwaited (s : State) (t who g : Nat) : Bool :=
  ((s.tile t).ni.outst.any fun o => portOf o.h.stream == who && o.h.mig && granKey o.h.asid o.h.addr == g)
    || (s.tile t).cdone.any fun a => a.1 == who && s.accIn t a.1 a.2.1 g

/-- The notices that are due at a tile, from every base die. -/
def State.notices (s : State) (t : Nat) : State :=
  [0, 1, 2, 3].foldl (fun s d =>
    let mine := (s.die d).due.filter fun p => p.2 / 64 == t && !s.answerAwaited t (p.2 % 64) p.1
    if mine.isEmpty then s
    else mine.foldl (fun s p => s.residentNotice t (p.2 % 64) p.1) (s.modDie d fun x => { x with due := x.due.filter fun p => !mine.contains p })) s

/-- RESIDENT_NOTICE (R165, R352). -/
def execResidentNotice (t : Nat) (s : State) : Out := if t < numTiles then .next (s.notices t) else .fault .noSuchUnit

end Sys2Proof.Machine
end

