-- ==== Sys2Proof/Machine/Rally.lean ====
section
/-! DEFINITION. A rally from its swap to its whistle (spec/10_q_collar.md R270, R276 to R280, R285; spec/11_q_array.md R318, R319; spec/12_q_cells.md R337,
R355; spec/14_q_stop.md R386, R390; spec/16_t_system.md R440; spec/17_counters.md R445 to R447, R456). -/

namespace Sys2Proof.Machine

/-! ## The swap (R285) -/

/-- Counters of an image at the start of a rally, before bound tokens: CNT slots. -/
def Plane.cntStart (p : Plane) : AMap (Nat × Nat) :=
  (List.range 384).filterMap fun k => let q := p.slot (k / 4) (k % 4); if q.v && q.op == 0x67 then some (k, (0, q.imm)) else none

/-- Dimension counters of an image at the start of a rally. -/
def Plane.acntStart (p : Plane) : AMap (Nat × Nat) :=
  (List.range 64).filterMap fun k => let a := p.acell (k / 4); if a.aop != 0 then some (k, (0, a.cnt.getD (k % 4) 1)) else none

/-- The pending bound tokens of the active plane are applied: the start of a rally counts as a wrap (R276). -/
def Collar.applyBounds (c : Collar) : Collar :=
  (List.range 16).foldl (fun c k =>
    let b := c.active.bind k
    match b.1, c.bound.look k with
    | true, some n =>
      let key := b.2.2.1 * 4 + b.2.2.2
      let c := { c with bound := c.bound.del k }
      if b.2.1 = 0 then { c with cnt := c.cnt.upd key (0, n) fun p => (p.1, n) } else { c with acnt := c.acnt.upd key (0, n) fun p => (p.1, n) }
    | _, _ => c) c

/-- A memory cell at the swap (R328, R334, R337, R446, R456): its decode tables and page-event count stay. -/
def State.mcellStart (s : State) (t cyc : Nat) (p : Plane) (k : MCell) (m : Nat) : MCell :=
  let q := p.mcell m
  let asid := (s.tile t).reg.asid.toNat
  { k with
    spill := [], ret := [], out := none, raw := [], dec := { table := k.dec.table, pos := k.dec.pos, left := k.dec.left, bit := k.dec.bit }, dv := false, mv := false, dlo := 0, dhi := 0, mlo := 0, mhi := 0,
    spos := 0, dpos := 0, mcred := 64, mcredAt := cyc, addr := none, maddr := none, mdone := false, runDone := false, runUnk := false, owe := [],
    allOut := false, running := !q.ord && (q.mop != 0 || q.av),
    latch := if q.mop = 0 then k.latch else s.range asid q.range, mlatch := if q.mop = 0 then k.mlatch else s.range asid q.mrange }

/-- The array at the swap (R319): a pass is kept when the image that ran when it was last set comes in again. -/
def ArrayState.swapIn (a : ArrayState) (p : Plane) : ArrayState :=
  let keep := a.hasImg && a.imgId == p.imageId && a.img1 == p.at (frArr 1) 0#256 && a.img2 == p.at (frArr 2) 0#256
  let a := { a with planeOwed := false, paired := false, pipe := [], skewAt := none }
  if keep then a
  else { (a.setArp 0).setAld 0 with lpl := p.arr.plane == 1, pskew := 0 }

/-- The swap cycle of FIRE on the collar. DESIGN CHOICE (notes/assumptions/115.md): R276 has the start of a rally count as a wrap, for the application of pending
bound tokens; that a CNT slot with BW waits there for a bound token (R275) the spec does not say, and the model lets it count its first trip. -/
def State.swap (s : State) (t : Nat) (cmd : Cmd) : State :=
  let cyc := s.colCyc t
  s.modCol t fun c =>
    let p := c.deck
    let c1 : Collar := { c with
      active := c.deck, deck := c.active, dv := c.av, av := true,
      bound := c.bound.filterMap fun e => if 16 ≤ e.1 then some (e.1 - 16, e.2) else none,
      xd := [], xc := [], xdAcc := [], xcAcc := [], cin := [], cctl := [], minp := [], mord := [], ain := [], store := [], racks := p.fullRacks,
      cstat := 0xFFFF000000000000#64, rseq := c.rseq + 1, cb := c.cb.put 15 cmd.b,
      cnt := p.cntStart, acnt := p.acntStart, cntWrapped := [], given := [], taken := [], reqout := [], lastFire := [],
      mc := (List.range 32).filterMap fun m =>
        match c.mc.look m with
        | some k => some (m, s.mcellStart t cyc p k m)
        | none => let q := p.mcell m; if q.mop != 0 || q.av then some (m, s.mcellStart t cyc p {} m) else none,
      arr := c.arr.swapIn p,
      rally := some { t0 := cyc + 1, starts := (List.range 128).filter (fun x => !(p.takers 1 x 5).isEmpty), act := cyc + 1,
                      recAt := if bitOf cmd.a 63 then some (fld cmd.a 21 0) else none, image := p.imageId, slot := cmd.slot, entry := cmd.entry } }
    c1.applyBounds

/-! ## Empty and settled (R277, R279, R390) -/

/-- Does a buffer file hold nothing. -/
def noneHeld {α : Type} (m : AMap (List α)) : Bool := m.all fun p => p.2.isEmpty

/-- Does an entry of a return buffer wait only for residency. -/
def RetEnt.parked (e : RetEnt) : Bool := e.accs.any (fun x => x.st == 2) && e.accs.all fun x => x.st == 2 || x.st == 3

/-- Does a memory cell hold only what a stop leaves parked: entries that wait for residency, and tokens behind them in stream order (R390). -/
def MCell.parkedOnly (k : MCell) (comm : Bool) : Bool :=
  match k.ret with
  | [] => (match k.out with | some e => e.parked | none => true)
  | e :: _ => e.parked && k.ret.all fun e => e.parked || (e.complete && (!comm || !e.data || e.given))

/-- Is a memory cell's part of the rally done: nothing in it, nothing out, and no run of a source unfinished. DESIGN CHOICE (notes/assumptions/98.md): R277
lists four conditions; a source whose run has steps left, and is not draining, counts as not empty beside them. A drained DCMP may hold lines that its
decoder has not consumed, and symbols short of a token: they are no tokens (R277, R288). -/
def MCell.idle (k : MCell) (q : MCfg) (draining stopping : Bool) : Bool :=
  let src := q.isSource && (q.mop != 0 || q.av) && !draining && (if q.ord then k.running else !k.runDone)
  let ent := fun (e : RetEnt) => e.complete || (stopping && e.parked)
  let buf := (k.ret.isEmpty && k.out.isNone && k.spill.isEmpty) || (stopping && k.parkedOnly q.comm)
    || (q.mop == 7 && draining && k.ret.all ent && k.out.all ent && (stopping || k.spill.isEmpty) && (k.out.isNone || stopping))
  buf && k.owe.isEmpty && !src && (draining || k.dec.syms.isEmpty)

/-- Has the tile no request of its memory cells outstanding: at the banks, in the fabric, or answered and not taken. -/
def State.noCellReq (s : State) (t : Nat) : Bool :=
  let x := s.tile t
  noneHeld x.cellReq && x.cdone.isEmpty && !(x.ni.outst.any fun o => decide (16 ≤ o.h.stream) && decide (o.h.stream ≤ 47))
    && x.col.reqout.all (fun p => p.2 == 0)

/-- Does the west half of a pair still owe its east half something (R321): rows of the pass in progress, or the start of a pass on the plane that waits, in a
rally that does not drain. DEDUCED from R277, R321 and R473 (notes/assumptions/120.md): until then the east half is not empty. -/
def State.westOwes (s : State) (t : Nat) : Bool :=
  let a := s.arr t
  s.isEast t && !(s.tile t).col.draining &&
    (match s.otherHalf t with
     | none => false
     | some u =>
       (a.v && a.isMma && decide (a.mrow + a.pipe.length < a.rows) && s.arrLive u && (s.arr u).v)
         || (!a.v && (s.arrCfg t).wld && a.full && !a.paired && (s.arrLive u || decide ((s.tile u).col.rseq.toNat < (s.tile t).col.rseq.toNat))))

/-- Is every node empty (R277). -/
def State.allEmpty (s : State) (t : Nat) : Bool :=
  let x := s.tile t
  let c := x.col
  noneHeld c.xd && noneHeld c.xc && noneHeld c.cin && noneHeld c.cctl && noneHeld c.minp && noneHeld c.mord && noneHeld c.ain
    && c.store.all (fun p => p.2.held.isEmpty) && (match c.rally with | some r => r.starts.isEmpty | none => true)
    && c.mc.all (fun p => p.2.idle (c.active.mcell p.1) c.draining x.stopAt.isSome)
    && c.arr.pipe.isEmpty && !c.arr.planeOwed && !c.arr.passDone c.active.arr && !s.westOwes t && s.noCellReq t

/-- Tokens given minus tokens taken, over every node (R447). -/
def Collar.tokenSum (c : Collar) : Nat :=
  ((c.given.vals.foldl (· + ·) 0) + 2 ^ 16 * 1024 - c.taken.vals.foldl (· + ·) 0) % 2 ^ 16

/-- The turn of a memory cell, by its operation. -/
def State.mcellAny (s : State) (t m : Nat) : State :=
  let q := (s.tile t).col.active.mcell m
  if !q.av then s
  else match q.mop with
  | 1 => s.cellTurn t m fun s q i => s.jobLds t m q i
  | 2 => s.cellTurn t m fun s q i => s.jobSts t m q i
  | 3 => s.cellTurn t m fun s q i => s.jobGath t m q i
  | 4 => s.cellTurn t m fun s q i => s.jobScat t m q i
  | 5 => s.cellTurn t m fun s q i => s.jobAtom t m q i
  | 6 => s.cellTurn t m fun s q i => s.jobTas t m q i
  | 7 => s.dcmpTurn t m
  | 8 => s.cellTurn t m fun s q i => s.jobQnt t m q i
  | 9 => s.cellTurn t m fun s q i => s.jobGath t m q i
  | 10 => s.cellTurn t m fun s q i => s.jobScat t m q i
  | 11 => s.cellTurn t m fun s q i => s.jobAtom t m q i
  | _ => s.cellTurn t m fun _ _ i => .ok (jobCounter i)

/-- The turn of an address cell, by its operation. -/
def State.acellAny (s : State) (t a : Nat) : State :=
  match ((s.tile t).col.active.acell a).aop with
  | 1 => s.affStep t a
  | 2 => s.idxStep t a
  | 3 => s.cntStep t a
  | _ => s

/-- The steps of the array, one after another. -/
def State.arrAny (s : State) (t : Nat) : State := ((((s.wld t).scaleTake t).arrPass t).accw t |>.mma t).accr t

/-- The collar with every limit of one firing in a cycle and every want of credit taken away: what could still happen in it. -/
def Collar.eager (c : Collar) : Collar := { c with lastFire := [], mc := c.mc.mapVals fun k => { k with mcred := 64 } }

/-- Can no node fire or move (R279). -/
def State.settled (s : State) (t : Nat) : Bool :=
  let c := (s.tile t).col
  let cyc := s.colCyc t
  let s1 := s.modCol t Collar.eager
  let same := fun (f : State → State) => decide ((f s1).tile t = s1.tile t)
  !((List.range 128).any fun x => c.mayAct cyc (nodeX x) && (List.range 12).any fun p => c.canMove .data x p || c.canMove .control x p)
    && !((List.range 384).any fun k => c.mayAct cyc (k / 4) && c.slotCan (k / 4) (k % 4))
    && ((List.range 32).all fun m => same fun s => s.mcellAny t m) && ((List.range 16).all fun a => same fun s => s.acellAny t a)
    && (same fun s => s.arrAny t) && (c.arr.pipe.isEmpty || !s.arrLive t) && s.noCellReq t

/-! ## The whistle (R278, R279) -/

/-- A dirty-range record (R440). -/
def State.dirtyRec (s : State) (t m : Nat) (isMeta : Bool) (lo hi range : Nat) : State :=
  let x := s.tile t
  let n := courtCrt x.reg.court
  let c := s.court n
  let lg := fld (c.w.at 5 0) 4 0
  let base := fld (c.w.at 5 0) 38 12 * 2 ^ 12
  if c.v && ringRoom c.dlhead c.dltail lg then
    let w0 := x.col.rseq.toNat * 2 ^ 32 + range * 2 ^ 26 + bnat isMeta * 2 ^ 25 + m * 2 ^ 20 + relRow x.reg.court t % 8 * 2 ^ 17
      + relCol x.reg.court t % 8 * 2 ^ 14 + x.reg.asid.toNat
    (s.writeWords (hbmBase + base + c.dlhead % 2 ^ lg * 32) [w0, lo, hi, 2 ^ 63 + c.dlhead]).modCourt n fun c => { c with dlhead := (c.dlhead + 1) % 2 ^ 32 }
  else s.modCourt n fun c => { c with dldrop := min (c.dldrop + 1) (2 ^ 32 - 1) }

/-- The deposits at the whistle (R355): in ascending cell number, the element pair first. -/
def State.deposits (s : State) (t : Nat) : State :=
  (s.tile t).col.mc.foldl (fun s p =>
    let q := (s.tile t).col.active.mcell p.1
    let s := if p.2.dv then s.dirtyRec t p.1 false p.2.dlo p.2.dhi q.range else s
    if p.2.mv then s.dirtyRec t p.1 true p.2.mlo p.2.mhi q.mrange else s) s |>.modCol t fun c =>
      { c with mc := c.mc.mapVals fun k => { k with dv := false, mv := false } }

/-- The FIRE of the rally has finished: it waits to retire with the rally's cause, and the rally is over. -/
def State.rallyOver (s : State) (t : Nat) : State :=
  s.modTile t fun x =>
    { x with col := x.col.noRally (x.cyc 1 s.time),
             colq := match findPlace (fun (c : Cmd) => c.cmd == 2 && c.st == 1) x.colq with
               | some i => updNth x.colq i fun c => { c with st := 2, cause := x.col.cstat.toNat % 256 }
               | none => x.colq }

/-- The FIRE of an aborted rally leaves its queue without a retire (R238, R239). -/
def State.rallyDropped (s : State) (t : Nat) : State :=
  s.modTile t fun x =>
    { x with col := x.col.noRally (x.cyc 1 s.time), colq := x.colq.filter fun c => !(c.cmd == 2 && c.st == 1) }

/-- The whistle sounds. Under an abort the channel buffers are emptied (R263) and the FIRE goes without a retire; at a court's stop the rally is kept for the save; else an unfinished pass
faults (R318), the dirty ranges are deposited, and the status record is due. -/
def State.whistled (s : State) (t : Nat) : State :=
  let x := s.tile t
  match x.col.rally with
  | none => s
  | some r =>
    let s := if r.saved then s else s.pm t 0x0015 1
    if r.abort then
      ((s.deposits t).rallyDropped t).modCol t Collar.emptied
    else if x.stopAt.isSome then s.modCol t fun c => { c with rally := c.rally.map fun r => { r with saved := true } }
    else
      let s := if x.col.arr.v && !r.faulted.contains nodeArr && x.col.cstat.toNat % 256 == 0 then
          s.unitFault t nodeArr 3 0xC010 cConfig.toNat x.col.arr.arp 0 x.col.arr.ald
        else s
      let s := s.deposits t
      if r.recAt.isSome then
        s.modCol t fun c => { c with phaseEnd := c.phase (x.cyc 1 s.time), rally := c.rally.map fun r => { r with recStep := 1 } }
      else s.rallyOver t

/-- One wave: it samples every node; two clean waves with no activity between them make the whistle due six cycles after the second one starts. -/
def State.wave (s : State) (t : Nat) : State :=
  let c := (s.tile t).col
  let cyc := s.colCyc t
  match c.rally with
  | none => s
  | some r =>
    match r.whistle with
    | some w => if w ≤ cyc && r.recStep == 0 && (!r.saved || r.abort) then s.whistled t else s
    | none =>
      if cyc < r.t0 + 8 then s
      else
        let at_ := r.t0 + (cyc - r.t0) / 8 * 8
        let due := match r.wave with | some w => decide (w.cyc < at_) | none => true
        if !due then s
        else
          let fault := c.cstat.toNat % 256 != 0 || r.halt
          let reqs := c.reqout.all fun p => p.2 == 0
          let sum := c.tokenSum
          let clean := if fault then reqs && s.settled t else s.allEmpty t && reqs && sum == 0
          let blow := match r.wave with
            | some w => clean && w.clean && decide (r.act < w.cyc) && (!fault || sum == w.toks)
            | none => false
          s.modCol t fun c => { c with rally := c.rally.map fun r =>
            { r with wave := some { cyc := at_, clean := clean, toks := sum }, whistle := if blow then some (at_ + 6) else none } }

/-- WHISTLE_WAVE (R278, R279). -/
def execWhistleWave (t : Nat) (s : State) : Out := if t < numTiles then .next (s.wave t) else .fault .noSuchUnit

/-! ## The status record (R280) -/

/-- The next access of the status record goes to its bank: words 0 to 2, then, after they have performed, the valid word; then the FIRE is finished. Of a
rally that an abort has met since its whistle no more is written (R239). -/
def State.statusStep (s : State) (t : Nat) : State :=
  let x := s.tile t
  match x.col.rally with
  | none => s
  | some r =>
    match r.recAt with
    | none => s
    | some off =>
      let send := fun (o : Nat) (ws : List Nat) =>
        let data := ws.flatMap fun w => (toBytes 8 w).map fun b => ({ val := b } : MByte)
        (s.modTile t fun x => { x with netReq := x.netReq ++ [{ who := .status t, off := o, op := .write data none }] }).modCol t fun c =>
          { c with rally := c.rally.map fun r => { r with recStep := r.recStep + 1 } }
      if r.abort && r.recStep % 2 == 1 then s.rallyDropped t
      else if r.recStep = 1 then send off [x.col.cstat.toNat, (r.whistle.getD 0) - r.t0, r.image.toNat]
      else if r.recStep = 3 then send (off + 24) [2 ^ 63 + x.col.rseq.toNat]
      else if r.recStep = 5 then s.rallyOver t
      else s

/-- STATUS_RECORD_WRITE (R280). -/
def execStatusRecordWrite (t : Nat) (s : State) : Out := if t < numTiles then .next (s.statusStep t) else .fault .noSuchUnit

end Sys2Proof.Machine
end

