-- ==== Sys2Proof/Machine/EngineEvents.lean ====
section
/-! DEFINITION. Engine commands from their start to their retire, and the engine reset (spec/09_q_engines.md R234 to R239, R248; spec/10_q_collar.md R276,
R281 to R288; spec/14_q_stop.md R382, R383). -/

namespace Sys2Proof.Machine

/-! ## Queues -/

/-- The queue of an engine: 1 COL, 2 CPY. -/
def Tile.queue (x : Tile) (e : Nat) : List Cmd := if e = 1 then x.colq else x.cpyq
/-- The tile with the queue of an engine replaced. -/
def Tile.setQueue (x : Tile) (e : Nat) (l : List Cmd) : Tile := if e = 1 then { x with colq := l } else { x with cpyq := l }
/-- The command named uid changed, in either queue. -/
def Tile.modCmd (x : Tile) (uid : Nat) (f : Cmd → Cmd) : Tile :=
  let g := fun (c : Cmd) => if c.uid = uid then f c else c
  { x with colq := x.colq.map g, cpyq := x.cpyq.map g }

/-- The command has finished its work, with a cause or 0: it waits to retire. -/
def State.finish (s : State) (t : Nat) (c : Cmd) (cause : Nat) : State := s.modTile t fun x => x.modCmd c.uid fun c => { c with st := 2, cause := cause }

/-- A COL command fails in its own work (R235, R382, R383): it waits to retire with CONFIG, and a record is posted. -/
def State.colFail (s : State) (t : Nat) (c : Cmd) (tval : Nat) : State :=
  (s.finish t c cConfig.toNat).postTileFault t
    { cause := cConfig.toNat, kind := 1, slot := c.slot, cmd := c.cmd, eng := 1, crt := 0, launch := c.entry, tval := BitVec.ofNat 64 tval, w2 := c.a, w3 := c.b }

/-! ## Start (R234, R235) -/

/-- Are the must-be-zero bits of the values zero, and do their fields name units and items that exist (R281, R287). -/
def Cmd.valuesOk (c : Cmd) : Bool :=
  let a := c.a.toNat
  let b := c.b.toNat
  match c.cmd with
  | 0 => decide (a < 16)
  | 1 => decide (a < 16) && decide (b < 16)
  | 2 => fld c.a 62 22 == 0 && a % 32 == 0
  | 3 => decide (a < 16) && decide (b < 2 ^ 32)
  | 4 => decide (a < 2 ^ 18) && decide (fld c.a 12 6 < 96) && decide (fld c.a 1 0 ≠ 3)
      && (decide (fld c.a 1 0 = 0) || decide (b < 2 ^ 36))
  | _ => decide (a < 2)

/-- The work of a TSET (R287). -/
def Collar.tset (c : Collar) (a b : Word) : Collar :=
  let i := fld a 5 2
  let key := fld a 12 6 * 16 + i
  if fld a 1 0 = 0 then { c with cb := c.cb.put i b }
  else if fld a 1 0 = 1 then { c with vr := c.vr.put key (Lanes.of fun _ => (b.setWidth 36, false)) }
  else
    let l := c.vr.at key {}
    { c with vr := c.vr.put key (Lanes.of fun j => if j = fld a 17 13 then (b.setWidth 36, false) else (l.lane j, l.bad j)) }

/-- The C-cell or M-cell of a frame: C-cells 0 to 95, then M-cells from 96. -/
def frameCell (i : Nat) : Option Nat := if 2 ≤ i ∧ i < 194 then some ((i - 2) / 2) else if 194 ≤ i ∧ i < 258 then some (96 + (i - 194) / 2) else none

/-- Do the valid slots of a frame of a C-cell or M-cell all carry region g (R284). -/
def Plane.inRegion (p : Plane) (i g : Nat) : Bool :=
  if i < 194 then [2 * (i % 2), 2 * (i % 2) + 1].all fun n => let q := p.slot ((i - 2) / 2) n; !q.v || q.region == g
  else let q := p.mcell ((i - 194) / 2); (q.mop == 0 && !q.av) || q.region == g

/-- Is a cell empty (R277). -/
def Collar.cellEmpty (c : Collar) (cell : Nat) : Bool :=
  if cell < 96 then
    ((List.range 4).all fun i => (c.cin.at (cKey cell i) []).isEmpty) && (c.cctl.at cell []).isEmpty && (c.store.at cell {}).held.isEmpty
  else
    let k := c.mc.at (cell - 96) {}
    (c.minp.at (cell - 96) []).isEmpty && (c.mord.at (cell - 96) []).isEmpty && k.ret.isEmpty && k.out.isNone && k.spill.isEmpty && k.owe.isEmpty
      && k.dec.syms.isEmpty && c.reqout.at (nodeM (cell - 96)) 0 == 0

/-- The counters after a patch of a running region: those of changed slots start anew, those of slots that are no counter any more go. -/
def Collar.patchCounters (c : Collar) (old : Plane) : Collar :=
  (List.range 384).foldl (fun c k =>
    let q := c.active.slot (k / 4) (k % 4)
    if old.slotWord (k / 4) (k % 4) = c.active.slotWord (k / 4) (k % 4) then c
    else
      let c := { c with cntWrapped := setDel c.cntWrapped k }
      if q.v && q.op == 0x67 then { c with cnt := c.cnt.put k (0, q.imm) } else { c with cnt := c.cnt.del k }) c

/-- The memory cells that a patch of a running region has changed take their range entries and their streams anew. -/
def State.patchCells (s : State) (t : Nat) (cells : List Nat) : State :=
  let cyc := s.colCyc t
  s.modCol t fun c => { c with mc := (cells.filter fun m => decide (96 ≤ m)).foldl (fun mc m =>
    let k := mc.at (m - 96) {}
    let n := s.mcellStart t cyc c.active k (m - 96)
    mc.put (m - 96) { n with dlo := k.dlo, dhi := k.dhi, dv := k.dv, mlo := k.mlo, mhi := k.mhi, mv := k.mv, mcred := k.mcred, mcredAt := k.mcredAt }) c.mc }

/-- What a CFGPART would write (R60, R70, R284): the plane as it would be and the frames, or why not: the address to blame, and whether the image is
refused, or only a frame of it for the running region. -/
def State.partPlan (s : State) (t : Nat) (c : Cmd) : Except (Nat × Bool) (Plane × Partial) :=
  let col := (s.tile t).col
  let g := c.b.toNat % 8
  let onDeck := bitOf c.b 3
  if !(if onDeck then col.dv else col.av) then .error (0, true)
  else match s.partImage t c.a.toNat with
  | .error f => .error (f, true)
  | .ok im =>
    let old := if onDeck then col.deck else col.active
    let new := old.patch im
    match new.partBad im (courtPairH (s.tile t).reg.court) (s.eastHalf t) with
    | some f => .error (frameAddr f, true)
    | none =>
      if onDeck || !col.rallyRuns then .ok (new, im)
      else
        match im.frames.find? fun e => (frameCell e.1).isNone || !old.inRegion e.1 g || !new.inRegion e.1 g with
        | some e => .error (frameAddr e.1, false)
        | none => .ok (new, im)

/-- Is the CFGPART one for a region of the running rally. -/
def Collar.partRuns (k : Collar) (c : Cmd) : Bool := !bitOf c.b 3 && k.rallyRuns

/-- Is region g quiet for a patch: rack g full and the named cells empty (R284). -/
def Collar.partQuiet (k : Collar) (g : Nat) (im : Partial) : Bool :=
  (k.racks.at g {}).alloc.isEmpty && (im.frames.filterMap fun e => frameCell e.1).all k.cellEmpty

/-- Rack g opens or closes (R284). -/
def Collar.gate (k : Collar) (g : Nat) (closed : Bool) : Collar := { k with racks := k.racks.upd g {} fun r => { r with closed := closed } }

/-- A COL command starts: it finishes at once, fails, or goes on through an event of its own. -/
def State.startCol (s : State) (t : Nat) (c : Cmd) : State :=
  if !c.valuesOk then s.colFail t c 0
  else
    let go := s.modTile t fun x => x.modCmd c.uid fun c => { c with st := 1 }
    match c.cmd with
    | 0 => go.modCol t fun k => { k with ld := true, dv := false, bound := k.bound.filter fun e => decide (e.1 < 16) }
    | 2 => if !(s.tile t).col.dv then s.colFail t c 0 else go.swap t c
    | 4 => (s.modCol t fun k => k.tset c.a c.b).finish t c 0
    | 5 => (s.modCol t fun k => k.cstop (bitOf c.a 0)).finish t c 0
    | 1 =>
      match s.partPlan t c with
      | .ok _ => if (s.tile t).col.partRuns c then go.modCol t fun k => k.gate (c.b.toNat % 8) true else go
      | .error _ => go
    | _ => s.modTile t fun x => x.modCmd c.uid fun c => { c with st := 1, deck := !x.col.rallyRuns }

/-- A CPY command starts (R248, R251). -/
def State.startCpy (s : State) (t : Nat) (c : Cmd) : State :=
  let set := fun (f : CopySet → CopySet) => (s.modSlot t c.slot fun sl => { sl with cs := f sl.cs }).finish t c 0
  match c.cmd with
  | 0 => set fun q => { q with cshape := c.a, csstr := c.b }
  | 1 => set fun q => { q with cdstr := c.a, cctr := c.b }
  | 3 => set fun q => { q with cxf := c.a, crec := c.b }
  | _ => (s.modTile t fun x => x.modCmd c.uid fun c => { c with st := 1 }).copyStart t c

/-- The command that an engine may start next: the first that has not started; a COL command waits until those before it have finished, or are a FIRE
whose rally has started (R234, R282). -/
def Tile.nextCmd (x : Tile) (e : Nat) : Option Cmd :=
  match findPlace (fun (c : Cmd) => c.st == 0) (x.queue e) with
  | none => none
  | some i =>
    if e = 2 || ((x.queue e).take i).all fun c => c.st == 2 || c.cmd == 2 then (x.queue e)[i]? else none

/-- The FIFOs from which WP and WC pop: the peer's and CTL's (R234). -/
def Cmd.pops (c : Cmd) (e : Nat) : List Nat :=
  (if nbit c.flags 3 then [if e = 1 then 5 else 4] else []) ++ (if nbit c.flags 2 then [if e = 1 then 0 else 2] else [])

/-- The binding of a BIND, on the plane it targets (R286). -/
def Collar.binding (k : Collar) (c : Cmd) (deck : Bool) : Bool × Nat × Nat × Nat := (if deck then k.deck else k.active).bind c.a.toNat
/-- The pending register of a BIND: those of the active plane come first. -/
def Cmd.bindKey (c : Cmd) (deck : Bool) : Nat := if deck then 16 + c.a.toNat else c.a.toNat
/-- Is the BIND refused (R286). -/
def Collar.bindBad (k : Collar) (c : Cmd) (deck : Bool) : Bool :=
  let b := k.binding c deck
  let n := c.b.toNat
  !b.1 || n == 0 || (b.2.1 != 0 && decide (2 ^ 20 - 1 < n))

/-- Does the command's own condition hold (R234, R251, R284 to R287): a command that will be refused does not wait. -/
def State.condition (s : State) (t e : Nat) (c : Cmd) : Bool :=
  let x := s.tile t
  let k := x.col
  if e = 2 then c.cmd != 2 || decide (x.copies.length < 4)
  else if !c.valuesOk then true
  else match c.cmd with
  | 1 =>
    (match s.partPlan t c with
     | .ok (_, im) => !k.partRuns c || k.partQuiet (c.b.toNat % 8) im
     | .error _ => true)
  | 2 => k.rally.isNone && !k.ld
  | 3 =>
    let deck := !k.rallyRuns
    !(deck && k.ld) && (k.bindBad c deck || (k.bound.look (c.bindKey deck)).isNone)
  | 4 => k.rally.isNone
  | _ => true

/-- COMMAND_START on an engine: 1 COL, 2 CPY. A command that pops a token with a cause does no work (R235); a COPY then still counts as
started (R248). No command starts once the court's stop has begun (R388). -/
def State.commandStart (s : State) (t e : Nat) : State :=
  let x := s.tile t
  match (if x.stopAt.isSome then none else x.nextCmd e) with
  | none => s
  | some c =>
    let from_ := c.pops e
    if !s.condition t e c || from_.any (fun i => (x.fifoAt i).isEmpty) then s
    else
      let bad := (from_.map fun i => ((x.fifoAt i).headD 0).toNat / 2 ^ 8).find? (· != 0)
      let s := s.modTile t fun x => from_.foldl Tile.popTok x
      match bad with
      | some cause =>
        let s := s.finish t c cause
        if e = 2 && c.cmd = 2 then s.modSlot t c.slot fun sl => { sl with cs := { sl.cs with cseq := sl.cs.cseq + 1 } } else s
      | none => if e = 1 then s.startCol t c else s.startCpy t c

/-- The queue that an engine's name stands for; the TCC has none. -/
def engNo : Eng → Nat
  | .tcc => 0 | .col => 1 | .cpy => 2

/-- COMMAND_START (R234). -/
def execCommandStart (t : Nat) (e : Eng) (s : State) : Out :=
  tileEvent t (.next (if engNo e = 0 then s else s.commandStart t (engNo e)))

/-! ## Retire (R235) -/

/-- The FIFOs to which SP and SC push: the peer's and CTL's. -/
def Cmd.pushes (c : Cmd) (e : Nat) : List Nat :=
  (if nbit c.flags 1 then [if e = 1 then 4 else 5] else []) ++ (if nbit c.flags 0 then [if e = 1 then 1 else 3] else [])

/-- The head of a queue retires, when it has finished and the FIFOs it pushes to have room. -/
def State.commandRetire (s : State) (t e : Nat) : State :=
  let x := s.tile t
  match x.queue e with
  | [] => s
  | c :: rest =>
    if c.st != 2 || (c.pushes e).any (fun i => !x.fifoRoom i) then s
    else
      let s := (c.pushes e).foldl (fun s i => s.pushTok t i (token c.cause e c.cmd)) (s.putTile t (x.setQueue e rest))
      if c.cause = 0 then s
      else s.modSlot t c.slot fun sl => if e = 1 then { sl with lcol := BitVec.ofNat 8 c.cause } else { sl with lcpy := BitVec.ofNat 8 c.cause }

/-- COMMAND_RETIRE (R234, R235). -/
def execCommandRetire (t : Nat) (e : Eng) (s : State) : Out :=
  tileEvent t (.next (if engNo e = 0 then s else s.commandRetire t (engNo e)))

/-! ## CFGLD, CFGPART and BIND -/

/-- The started command of a kind in the COL queue. -/
def Tile.started (x : Tile) (cmd : Nat) : Option Cmd := x.colq.find? fun c => c.cmd == cmd && c.st == 1

/-- A full image has been read, its single-bit errors corrected (R152): it is checked, and the on-deck plane is valid when every check passes (R283). -/
def State.cfgldCheck (s : State) (t : Nat) : State :=
  match (s.tile t).started 0 with
  | none => s
  | some c =>
    let k := c.a.toNat
    let bad := s.fullBad t k
    let s := (s.scrubSoft (ctxKey t (k * 2 ^ 14)) (32 * numFrames)).modCol t fun q =>
      { q with deck := planeOf (s.ctxFrames t k numFrames), ld := false, dv := bad.isNone }
    match bad with
    | some f => s.colFail t c f
    | none => s.finish t c 0

/-- CFGLD_CHECK (R283). -/
def execCfgldCheck (t : Nat) (s : State) : Out := tileEvent t (.next (s.cfgldCheck t))

/-- The plane that a refused image leaves invalid (R70); its frames stay as they were (R284). DEDUCED (notes/assumptions/111.md). -/
def Collar.refused (k : Collar) (c : Cmd) : Collar := if bitOf c.b 3 then { k with dv := false } else { k with av := false }

/-- A partial image has been read, its single-bit errors corrected (R152), and is applied (R284): to the on-deck plane; to the active plane when no rally runs; or to region g of the running rally, whose rack has been
closed at the start of the command (R284) and opens with the write. A refused image changes no frame. -/
def State.cfgpartWrite (s : State) (t : Nat) : State :=
  match (s.tile t).started 1 with
  | none => s
  | some c =>
    let k := (s.tile t).col
    let g := c.b.toNat % 8
    let shut := !bitOf c.b 3 && (k.racks.at g {}).closed
    let plan := s.partPlan t c
    let s := s.scrubSoft (ctxKey t (c.a.toNat * 2 ^ 14)) (32 * s.partFrames t c.a.toNat)
    match plan with
    | .error e => (s.modCol t fun k => let k := if shut then k.gate g false else k; if e.2 then k.refused c else k).colFail t c e.1
    | .ok (new, im) =>
      if bitOf c.b 3 then (s.modCol t fun k => { k with deck := new }).finish t c 0
      else if !k.partRuns c then (s.modCol t fun k => let k := { k with active := new }; if shut then k.gate g false else k).finish t c 0
      else if shut then
        ((s.modCol t fun q => Collar.patchCounters ({ q with active := new }.gate g false) k.active).patchCells t (im.frames.filterMap fun e => frameCell e.1)).finish t c 0
      else if k.partQuiet g im then s.modCol t fun k => k.gate g true
      else s

/-- CFGPART_WRITE (R284). -/
def execCfgpartWrite (t : Nat) (s : State) : Out := tileEvent t (.next (s.cfgpartWrite t))

/-- A bound token is placed in its binding's pending register, which was free at the start of the command (R286). -/
def State.bindPlace (s : State) (t : Nat) : State :=
  match (s.tile t).started 3 with
  | none => s
  | some c =>
    if (s.tile t).col.bindBad c c.deck then s.colFail t c 0
    else (s.modCol t fun q => { q with bound := q.bound.put (c.bindKey c.deck) c.b.toNat }).finish t c 0

/-- BIND_PLACE (R286). -/
def execBindPlace (t : Nat) (s : State) : Out := tileEvent t (.next (s.bindPlace t))

/-- COPY_COMPLETE (R251, R256): the k-th copy of the tile goes on, and leaves the engine when it is over. -/
def execCopyComplete (t k : Nat) (s : State) : Out := tileEvent t (.next (s.copyTurn t k))

/-! ## Engine reset (R239) -/

/-- The launches that have a task or a queued command on a tile. -/
def Tile.launches (x : Tile) : List Nat :=
  let l := x.slots.foldl (fun l p => match p.2.task with | some ti => setAdd l ti.entry | none => l) []
  (x.colq ++ x.cpyq).foldl (fun l c => setAdd l c.entry) l

/-- COL is reset: its queue is empty, an image that was loading stays invalid, a running rally is halted without record or push, its FIFOs are empty. -/
def Tile.resetCol (x : Tile) : Tile :=
  { x with colq := [], fifo := [0, 1, 4, 5].foldl (fun f i => f.put i []) x.fifo,
           col := { x.col.kill with ld := false } }

/-- CPY is reset: its queue is empty, its running copies issue nothing more, its FIFOs are empty. -/
def Tile.resetCpy (x : Tile) : Tile :=
  { x with cpyq := [], fifo := [2, 3, 4, 5].foldl (fun f i => f.put i []) x.fifo, copies := x.copies.map fun r => { r with killed := true } }

/-- The engines that the mask selects are reset, and the launches of the tile are aborted. -/
def State.engineReset (s : State) (t mask : Nat) : State :=
  let ls := (s.tile t).launches
  let s := s.modTile t fun x =>
    let x := if nbit mask 0 then x.resetCol else x
    if nbit mask 1 then x.resetCpy else x
  ls.foldl (fun s e => s.beginAbort e 0) s

/-- ENGINE_RESET (R239). -/
def execEngineReset (t : Nat) (mask : BitVec 2) (s : State) : Out := tileEvent t (.next (if mask = 0 then s else s.engineReset t mask.toNat))

end Sys2Proof.Machine
end

