-- ==== Sys2Proof/Machine/Items.lean ====
section
/-! DEFINITION. The items of a tile's queues, channels, cells, counters and memories as scan and the save area show them: each is a 64-bit word that can be
read, and written by a scan or a resume (spec/09_q_engines.md R232, R248; spec/10_q_collar.md R264; spec/11_q_array.md R302; spec/12_q_cells.md R329;
spec/17_counters.md R463). A read answers none where no item is assigned. -/

namespace Sys2Proof.Machine

/-! ## Tokens and lists -/

/-- A lane as a word: value and poison (R264). -/
def laneWord (l : Lanes) (i : Nat) : Nat := (l.lane i).toNat + bnat (l.bad i) * 2 ^ 36

/-- The lanes with lane i written from a word. -/
def Lanes.setWord (l : Lanes) (i v : Nat) : Lanes := Lanes.of fun j => if j = i then (BitVec.ofNat 36 v, nbit v 36) else (l.lane j, l.bad j)

/-- Word w of a token (R264). -/
def Token.word (k : Token) (w : Nat) : Nat :=
  if w < 32 then laneWord k.d w else if w = 32 then k.mask.toNat + place k.tag 32 6 + 2 ^ 63 else 0

/-- The token with word w written; V apart. -/
def Token.setWord (k : Token) (w v : Nat) : Token :=
  if w < 32 then { k with d := k.d.setWord w v } else if w = 32 then { k with mask := BitVec.ofNat 32 v, tag := nfld v 37 32 } else k

/-- Word w of entry e of a list of tokens; an absent entry reads 0. -/
def tokensWord (l : List Token) (e w : Nat) : Nat := match l[e]? with | some k => k.word w | none => 0

/-- Write word w of entry e: word 32 with V clear removes the entry, and with V set it adds one behind the last. -/
def tokensSet (l : List Token) (cap e w v : Nat) : List Token :=
  if w = 32 ∧ !nbit v 63 then delNth l e
  else if e < l.length then updNth l e fun k => k.setWord w v
  else if w = 32 ∧ e = l.length ∧ e < cap then l ++ [Token.setWord {} 32 v]
  else l

/-- A control token as a word: the mark and V. -/
def ctlWord (l : List Bool) (e : Nat) : Nat := match l[e]? with | some b => bnat b + 2 ^ 63 | none => 0

/-- Write a control token. -/
def ctlSet (l : List Bool) (cap e v : Nat) : List Bool :=
  if !nbit v 63 then delNth l e else if e < l.length then updNth l e fun _ => nbit v 0 else if e = l.length ∧ e < cap then l ++ [nbit v 0] else l

/-- A list of tags as entries with V. -/
def tagWord (l : List Nat) (e : Nat) : Nat := match l[e]? with | some g => place g 0 6 + 2 ^ 63 | none => 0

/-- Write a tag entry. -/
def tagSet (l : List Nat) (e v : Nat) : List Nat :=
  if !nbit v 63 then delNth l e else if e < l.length then updNth l e fun _ => v % 64 else if e = l.length ∧ e < 32 then l ++ [v % 64] else l

/-- A list cut or filled up to a count (R232). -/
def resize {α : Type} (d : α) (n : Nat) (l : List α) : List α := l.take n ++ List.replicate (n - l.length) d

/-! ## Queues, FIFOs and channels (R232) -/

/-- Word w of a queue entry. -/
def Cmd.word (c : Cmd) (w : Nat) : Nat :=
  if w = 0 then place c.cmd 0 6 + place c.flags 6 4 + place c.slot 10 4 + place c.st 14 2 + 2 ^ 16 + place (if c.st = 2 then c.cause else 0) 24 8
  else if w = 1 then c.a.toNat else c.b.toNat

/-- The entry with word w written. -/
def Cmd.setWord (c : Cmd) (w v : Nat) : Cmd :=
  if w = 0 then { c with cmd := nfld v 5 0, flags := nfld v 9 6, slot := nfld v 13 10, st := nfld v 15 14, cause := nfld v 31 24 }
  else if w = 1 then { c with a := BitVec.ofNat 64 v } else { c with b := BitVec.ofNat 64 v }

/-- A queue with word w of entry e written; word 3 is the count. New entries take names from id on. DESIGN CHOICE (notes/assumptions/106.md): R232 names no
launch and no privilege for the zero entries that a write of the count adds; they are user commands of launch entry 0. -/
def queueSet (l : List Cmd) (cap id e w v : Nat) : List Cmd :=
  if w = 3 then
    let n := min v cap
    l.take n ++ (List.range (n - l.length)).map fun i => ({ uid := id + i, cmd := 0, flags := 0, slot := 0, a := 0, b := 0 } : Cmd)
  else updNth l e fun c => c.setWord w v

/-- Item i of the copy settings (R232, R248). -/
def CopySet.item (q : CopySet) (i : Nat) : Option Nat :=
  match i with
  | 0 => some q.cshape.toNat | 1 => some q.csstr.toNat | 2 => some q.cdstr.toNat | 3 => some q.cctr.toNat
  | 4 => some q.cxf.toNat | 5 => some q.crec.toNat | 6 => some q.cseq.toNat | _ => none

/-- The copy settings with item i written. -/
def CopySet.setItem (q : CopySet) (i v : Nat) : CopySet :=
  let w := BitVec.ofNat 64 v
  match i with
  | 0 => { q with cshape := w } | 1 => { q with csstr := w } | 2 => { q with cdstr := w } | 3 => { q with cctr := w }
  | 4 => { q with cxf := w } | 5 => { q with crec := w } | 6 => { q with cseq := BitVec.ofNat 32 v } | _ => q

/-- Entry e of a channel: the values, the count, the poison bits. -/
def chanWord (l : List PWord) (e : Nat) : Option Nat :=
  if e < 8 then some ((l[e]?.map fun w => w.val.toNat).getD 0)
  else if e = 8 then some l.length
  else if e = 9 then some ((List.range 8).foldl (fun x i => x + bnat ((l.getD i {}).poi) * 2 ^ i) 0)
  else none

/-- A channel with entry e written. -/
def chanSet (l : List PWord) (e v : Nat) : List PWord :=
  if e < 8 then updNth l e fun w => { w with val := BitVec.ofNat 64 v }
  else if e = 8 then resize {} (min v 8) l
  else if e = 9 then (List.range l.length).zip l |>.map fun p => { p.2 with poi := nbit v p.1 }
  else l

/-- Word w of an outbound message. -/
def OutMsg.word (m : OutMsg) (w : Nat) : Nat :=
  if w = 0 then place m.slot 10 4 + 2 ^ 16 else if w = 1 then m.dst.toNat else m.w.val.toNat

/-! ## Memory cells (R329) -/

/-- The parse state (R328): the byte position in the run of the block or of the next header, the symbols left in the block, the bit offset in the payload. -/
def MCell.parse (k : MCell) : Nat := place k.dec.pos 32 32 + place k.dec.left 19 13 + place k.dec.bit 0 19
/-- The parse state written (R329). -/
def MCell.setParse (k : MCell) (v : Nat) : MCell := { k with dec := { k.dec with pos := nfld v 63 32, left := nfld v 31 19, bit := nfld v 18 0 } }

/-- The token of a return-buffer entry: a lane of an atomic that has not been answered shows its operand. -/
def MCfg.bufToken (q : MCfg) (e : RetEnt) : Token :=
  let k := (q.outToken e).1
  e.accs.foldl (fun (k : Token) x => match x.op with
    | .atomic _ _ v p _ => if x.st = 3 then k else { k with d := k.d.setWord (ctzFrom 32 x.serve) (v.toNat % 2 ^ 32 + bnat p * 2 ^ 36) }
    | _ => k) k

/-- A line of a DCMP cell as a token: lane i holds bytes 2i and 2i + 1 (notes/assumptions/99.md). -/
def RetEnt.lineToken (e : RetEnt) : Token :=
  let b := fun (i : Nat) => e.got.at ((e.lanes.headD (0, 0)).2 + i) {}
  { d := Lanes.of fun i => (BitVec.ofNat 36 ((b (2 * i)).val.toNat + (b (2 * i + 1)).val.toNat * 256), (b (2 * i)).poi || (b (2 * i + 1)).poi), mask := allLanes }

/-- A line with its bytes taken from a token. -/
def RetEnt.setLine (e : RetEnt) (k : Token) : RetEnt :=
  let a := (e.lanes.headD (0, 0)).2
  { e with got := (List.range 64).foldl (fun g i =>
      g.put (a + i) { val := BitVec.ofNat 8 ((k.d.lane (i / 2)).toNat / 256 ^ (i % 2)), poi := k.d.bad (i / 2) }) e.got }

/-- The token by which an entry of the return buffer is shown: a DCMP cell's entries are lines. -/
def MCfg.shownToken (q : MCfg) (e : RetEnt) : Token := if q.mop = 7 then e.lineToken else q.bufToken e

/-- The lanes of a token that an unanswered access still brings: those of its bytes for a load by tokens, all of them while a record is awaited. -/
def MCfg.lateLanes (q : MCfg) (e : RetEnt) : List Nat :=
  let n := q.perLane * q.bits
  let a := 8 * (e.lanes.headD (0, 0)).2
  (List.range 32).filter fun i => e.accs.any fun x => x.st != 3 &&
    (x.isMeta || (if q.mop = 1 then decide (8 * x.addr < a + (i + 1) * n) && decide (a + i * n < 8 * (x.addr + x.len)) else nbit x.serve i))

/-- An entry of the return buffer whose token is written as k (R329, R403): what an access still reads comes in its place when it is answered. -/
def MCfg.writtenEnt (q : MCfg) (e : RetEnt) (k : Token) : RetEnt :=
  if q.mop = 7 then e.setLine k
  else if q.mop = 1 ∨ q.mop = 3 ∨ q.mop = 5 ∨ q.mop = 6 ∨ q.mop = 9 ∨ q.mop = 11 then { e with tok := some k, late := some (q.lateLanes e) }
  else { e with tok := some k }

/-- The token of the return buffer at place j. -/
def MCell.retAt (k : MCell) (q : MCfg) (j : Nat) : Option RetEnt := k.ret.find? fun e => e.shown (q.mop == 7) && e.slot == j

/-- Word w of item i of a memory cell. -/
def MCell.word (k : MCell) (q : MCfg) (i w : Nat) : Option Nat :=
  let bank := fun (b : EcBank) => if w = 0 then some b.image.toNat else if w = 1 then some (b.chk.toNat + bnat b.v * 16 + bnat b.ld * 32) else none
  if i < 16 then
    match k.spill.find? fun x => x.slot == i with
    | some x => if w = 0 then some (place x.pos 0 32 + 2 ^ 63) else if w = 1 then some x.mask else if w = 2 then some x.addr else none
    | none => if w ≤ 2 then some (k.raw.at (64 * i + w) 0) else none
  else if i < 32 then
    match k.retAt q (i - 16) with
    | some e => if w ≤ 32 then some ((q.shownToken e).word w) else if w = 33 then some e.pos else none
    | none => if w ≤ 33 then some (k.raw.at (64 * i + w) 0) else none
  else if i = 0x20 then (if w < 4 then some (nfld k.latch.toNat (64 * w + 63) (64 * w)) else none)
  else if i = 0x21 then (if w < 4 then some (nfld k.mlatch.toNat (64 * w + 63) (64 * w)) else none)
  else if i = 0x22 then bank k.bank0
  else if i = 0x23 then bank k.bank1
  else if i = 0x24 then
    (if w = 0 then some (bnat k.u) else if w = 1 then some k.parse else none)
  else if i = 0x25 then
    (if w = 0 then some (k.dlo + bnat k.dv * 2 ^ 63) else if w = 1 then some k.dhi
     else if w = 2 then some (k.mlo + bnat k.mv * 2 ^ 63) else if w = 3 then some k.mhi else none)
  else none

/-- A 256-bit value with 64-bit word w written. -/
def setQuad (x : BitVec 256) (w v : Nat) : BitVec 256 :=
  BitVec.ofNat 256 ((List.range 4).foldl (fun a i => a + (if i = w then v % 2 ^ 64 else nfld x.toNat (64 * i + 63) (64 * i)) * 2 ^ (64 * i)) 0)

/-- A range latch with word w written: the bits that R437 assigns to no field stay 0 (R3). -/
def setLatch (x : BitVec 256) (w v : Nat) : BitVec 256 :=
  setQuad x w (if w = 0 then ndiff v (7 * 2 ^ 56) else if w = 1 then ndiff v (15 * 2 ^ 57) else if w = 2 then v % 2 ^ 56 else ndiff v (2 ^ 41 + 2 ^ 39))

/-- A decode-table bank with word w written. -/
def EcBank.setWord (b : EcBank) (w v : Nat) : EcBank :=
  if w = 0 then { b with image := BitVec.ofNat 64 v } else if w = 1 then { b with chk := BitVec.ofNat 4 v, v := nbit v 4, ld := nbit v 5 } else b

/-- The element that spill entry old stands for takes the entry as it is written; one that the cell does not hold is made, with the return-buffer token of its
stream position when there is one that awaits nothing (notes/assumptions/99.md). -/
def MCell.putSpill (k : MCell) (q : MCfg) (old x : SpillEnt) : MCell :=
  let upd := fun (e : RetEnt) => q.asSpill e old x
  if k.ents.any fun e => !e.accs.isEmpty && e.eid == x.id then
    let g := fun (e : RetEnt) => if !e.accs.isEmpty && e.eid == x.id then upd e else e
    { k with ret := k.ret.map g, out := k.out.map g }
  else
    match findPlace (fun (e : RetEnt) => e.pos == x.pos && e.accs.isEmpty && !e.given) k.ret with
    | some i => { k with ret := updNth k.ret i fun e => { e with accs := [q.blankAcc x], tok := none } }
    | none => k.pushRet (q.mop == 7) { pos := x.pos, lanes := [(0, x.addr)], accs := [q.blankAcc x], data := q.mop == 0 || q.rateo == 1 }

/-- The element of a spill entry waits for residency no more: what was diverted is given up. -/
def MCell.dropSpill (k : MCell) (x : SpillEnt) : MCell :=
  let g := fun (e : RetEnt) =>
    if !e.accs.isEmpty && e.eid == x.id then { e with accs := e.accs.map fun y => if y.diverted then { y with st := 3 } else y } else e
  { k with ret := k.ret.map g, out := k.out.map g }

/-- Words of an empty entry set. -/
def MCell.putRaw (k : MCell) (item : Nat) (ws : List (Nat × Nat)) : MCell := { k with raw := ws.foldl (fun m e => m.put (64 * item + e.1) e.2) k.raw }

/-- A memory cell with word w of spill-queue entry i written: V = 1 in an empty entry fills it with the words it holds, V = 0 empties it and leaves its words. -/
def MCell.setSpill (k : MCell) (q : MCfg) (i w v : Nat) : MCell :=
  match k.spill.find? fun x => x.slot == i with
  | some x =>
    let y := if w = 0 then { x with pos := v % 2 ^ 32 } else if w = 1 then { x with mask := v % 2 ^ 32 } else if w = 2 then { x with addr := v % 2 ^ 64 } else x
    if w = 0 ∧ !nbit v 63 then
      { (k.dropSpill x).putRaw i [(0, y.pos), (1, y.mask), (2, y.addr)] with spill := k.spill.filter fun x => x.slot != i }
    else { k.putSpill q x y with spill := k.spill.map fun x => if x.slot = i then y else x }
  | none =>
    if w = 0 ∧ nbit v 63 then
      let x : SpillEnt := { pos := v % 2 ^ 32, mask := k.raw.at (64 * i + 1) 0, addr := k.raw.at (64 * i + 2) 0, id := k.nextK, slot := i }
      { (({ k with nextK := k.nextK + 1 } : MCell).putSpill q x x).dropRaw i with spill := k.spill ++ [x] }
    else if w ≤ 2 then k.putRaw i [(w, if w = 2 then v % 2 ^ 64 else v % 2 ^ 32)]
    else k

/-- The token that the words of an empty entry make up. -/
def MCell.rawToken (k : MCell) (item : Nat) : Token := (List.range 33).foldl (fun t w => t.setWord w (k.raw.at (64 * item + w) 0)) {}

/-- A memory cell with word w of return-buffer token j written: V = 1 in an empty entry fills it with the words it holds, V = 0 empties it and leaves its words;
what the token's firing has out is answered without it. -/
def MCell.setRet (k : MCell) (q : MCfg) (j w v : Nat) : MCell :=
  let lines : Bool := q.mop == 7
  let bare := fun (t : Token) => (List.range 33).map fun w => (w, t.word w % 2 ^ 63)
  match findPlace (fun (e : RetEnt) => e.shown lines && e.slot == j) k.ret with
  | some i =>
    let e := k.ret.getD i {}
    let t := (q.shownToken e).setWord w v
    if w = 32 ∧ !nbit v 63 then
      { k.putRaw (16 + j) ((33, e.pos) :: bare t) with ret := updNth k.ret i fun e => { e with given := true } }
    else { k with ret := updNth k.ret i fun e => if w ≤ 32 then q.writtenEnt e t else if w = 33 then { e with pos := v % 2 ^ 32 } else e }
  | none =>
    if w = 32 ∧ nbit v 63 then
      let t := (k.rawToken (16 + j)).setWord 32 v
      let e : RetEnt := { pos := k.raw.at (64 * (16 + j) + 33) 0, slot := j }
      { k.dropRaw (16 + j) with ret := k.ret ++ [if lines then ({ e with lanes := [(0, 0)], data := false } : RetEnt).setLine t else { e with tok := some t }] }
    else if w ≤ 32 then k.putRaw (16 + j) [(w, (Token.setWord { mask := 0 } w v).word w % 2 ^ 63)]
    else if w = 33 then k.putRaw (16 + j) [(33, v % 2 ^ 32)]
    else k

/-- A memory cell with word w of item i written (R329). -/
def MCell.setWord (k : MCell) (q : MCfg) (i w v : Nat) : MCell :=
  if i < 16 then k.setSpill q i w v
  else if i < 32 then k.setRet q (i - 16) w v
  else if i = 0x20 then { k with latch := setLatch k.latch w v }
  else if i = 0x21 then { k with mlatch := setLatch k.mlatch w v }
  else if i = 0x22 then { k with bank0 := k.bank0.setWord w v }
  else if i = 0x23 then { k with bank1 := k.bank1.setWord w v }
  else if i = 0x24 then
    if w = 0 then { k with u := nbit v 0 } else if w = 1 then k.setParse v else k
  else if i = 0x25 then
    if w = 0 then { k with dlo := v % 2 ^ 56, dv := nbit v 63 } else if w = 1 then { k with dhi := v % 2 ^ 56 }
    else if w = 2 then { k with mlo := v % 2 ^ 56, mv := nbit v 63 } else if w = 3 then { k with mhi := v % 2 ^ 56 } else k
  else k

/-! ## The collar (R264) -/

/-- The slots of a C-cell of the active plane have an operation. -/
def Collar.cellHas (c : Collar) (cell op : Nat) : Bool := (c.active.slots cell).any fun n => (c.active.slot cell n).op == op

/-- The state word of a cell's storage (R264 structure 11). -/
def Collar.stateWord (c : Collar) (cell : Nat) : Nat :=
  let st := c.store.at cell {}
  if (c.active.slots cell).any fun n => (c.active.slot cell n).ordered then st.taken.foldl (fun x g => x + 2 ^ g) 0
  else if c.cellHas cell 0x61 then st.held.length
  else if c.cellHas cell 0x55 then bnat st.drain * 2 ^ 12 + place (if st.drain then st.k else st.held.length) 16 5
  else place st.k 0 12

/-- A list made n long: cut, or filled up with empty tokens. -/
def heldTo (l : List Token) (n : Nat) : List Token := l.take n ++ List.replicate (n - l.length) ({} : Token)

/-- The storage of a cell with its state word written: the FIFO count and the position of a filling REORD are how many tokens it holds. -/
def Collar.setStateWord (c : Collar) (cell v : Nat) : Collar :=
  let st := c.store.at cell {}
  let st' : CellStore :=
    if (c.active.slots cell).any fun n => (c.active.slot cell n).ordered then { st with taken := (List.range 64).filter (nbit v) }
    else if c.cellHas cell 0x61 then { st with held := heldTo st.held (min 32 (nfld v 11 0)) }
    else if c.cellHas cell 0x55 then
      (if nbit v 12 then { st with drain := true, k := nfld v 20 16 % 16 }
       else { st with drain := false, k := 0, held := heldTo st.held (min 16 (nfld v 20 16)) })
    else { st with k := nfld v 11 0 }
  { c with store := c.store.put cell st' }

/-- PSTATE (R263). -/
def Collar.pstate (c : Collar) : Nat := bnat c.ld * 4 + bnat c.dv * 2 + bnat c.av

/-- The cell input buffers of a cell: inputs a, b, c and control (R264 structure 9). -/
def Collar.inWord (c : Collar) (cell i e w : Nat) : Nat :=
  if i = 3 then (if w = 0 then ctlWord (c.cctl.at cell []) e else 0) else tokensWord (c.cin.at (cKey cell i) []) e w

/-- An item of structures 6 and 8 to 13 of unit 7; the offset is [23:0]. -/
def Collar.item (c : Collar) (str o : Nat) : Option Nat :=
  let cell := nfld o 22 16
  match str with
  | 6 => if decide (nfld o 23 21 = 0) && nfld o 7 6 == 0 then (c.mcell (nfld o 20 16)).word (c.active.mcell (nfld o 20 16)) (nfld o 15 8) (nfld o 5 0) else none
  | 8 =>
    let key := xKey cell (nfld o 14 12)
    if nbit o 23 || decide (5 < nfld o 14 12) || nfld o 11 9 != 0 || nfld o 7 6 != 0 then none
    else if nbit o 15 then (if nfld o 5 0 = 0 then some (ctlWord (c.xc.at key []) (nfld o 8 8)) else none)
    else if nfld o 5 0 ≤ 32 then some (tokensWord (c.xd.at key []) (nfld o 8 8) (nfld o 5 0)) else none
  | 9 =>
    if nbit o 23 || decide (95 < cell) || nfld o 15 14 != 0 || nfld o 11 10 != 0 || nfld o 7 6 != 0 then none
    else if (nfld o 13 12 = 3 ∧ nfld o 5 0 = 0) ∨ (nfld o 13 12 < 3 ∧ nfld o 5 0 ≤ 32) then some (c.inWord cell (nfld o 13 12) (nfld o 9 8) (nfld o 5 0)) else none
  | 10 =>
    if nbit o 23 || decide (95 < cell) || nfld o 15 12 != 0 || nfld o 7 5 != 0 then none
    else some (laneWord (c.vr.at (cell * 16 + nfld o 11 8) {}) (nfld o 4 0))
  | 11 =>
    if nbit o 23 || decide (95 < cell) || nfld o 15 13 != 0 || nfld o 7 6 != 0 then none
    else if nfld o 12 8 = 31 ∧ nfld o 5 0 = 63 then some (c.stateWord cell)
    else if nfld o 5 0 ≤ 32 then some (tokensWord (c.store.at cell {}).held (nfld o 12 8) (nfld o 5 0)) else none
  | 12 =>
    let r := c.racks.at (nfld o 18 16) {}
    let i := nfld o 7 0
    if nfld o 23 19 != 0 || nfld o 15 8 != 0 || decide (0x7F < i) then none
    else if i < 0x40 then some (place (r.count.at i 0) 0 8 + bnat (r.live i) * 2 ^ 8)
    else if i < 0x60 then some (tagWord r.alloc (i - 0x40))
    else some (tagWord r.free (i - 0x60))
  | 13 =>
    if nfld o 23 8 != 0 then none
    else
      let i := nfld o 7 0
      if i = 0 then some c.cstat.toNat else if i = 1 then some c.rseq.toNat else if i = 2 then some c.pstate
      else if 0x10 ≤ i ∧ i < 0x20 then some (c.cb.at (i - 0x10) 0).toNat
      else if 0x20 ≤ i ∧ i < 0x40 then some (match c.bound.look (i - 0x20) with | some n => n + 2 ^ 63 | none => 0)
      else none
  | _ => none

/-- The collar with an item of structures 6 and 8 to 13 written; a resume also writes CSTAT, whose fields a scan cannot write (R280). -/
def Collar.setItem (c : Collar) (resume : Bool) (str o v : Nat) : Collar :=
  let cell := nfld o 22 16
  match str with
  | 6 => let m := nfld o 20 16; c.modMc m fun k => k.setWord (c.active.mcell m) (nfld o 15 8) (nfld o 5 0) v
  | 8 =>
    let key := xKey cell (nfld o 14 12)
    let fed := match outSink (bnat (nbit o 15)) cell (nfld o 14 12) with | .xbox y j => xKey y j | _ => 768
    let gone : Bool := nfld o 8 8 == 0 && !nbit v 63
    if nbit o 15 then { c with xc := c.xc.upd key [] fun l => ctlSet l 2 (nfld o 8 8) v, xcAcc := if gone then c.xcAcc.put fed 0 else c.xcAcc }
    else { c with xd := c.xd.upd key [] fun l => tokensSet l 2 (nfld o 8 8) (nfld o 5 0) v,
                  xdAcc := if gone && nfld o 5 0 == 32 then c.xdAcc.put fed 0 else c.xdAcc }
  | 9 =>
    if nfld o 13 12 = 3 then { c with cctl := c.cctl.upd cell [] fun l => ctlSet l 4 (nfld o 9 8) v }
    else { c with cin := c.cin.upd (cKey cell (nfld o 13 12)) [] fun l => tokensSet l 4 (nfld o 9 8) (nfld o 5 0) v }
  | 10 => { c with vr := c.vr.upd (cell * 16 + nfld o 11 8) {} fun l => l.setWord (nfld o 4 0) v }
  | 11 =>
    if nfld o 12 8 = 31 ∧ nfld o 5 0 = 63 then c.setStateWord cell v
    else { c with store := c.store.upd cell {} fun st => { st with held := tokensSet st.held 32 (nfld o 12 8) (nfld o 5 0) v } }
  | 12 =>
    let i := nfld o 7 0
    { c with racks := c.racks.upd (nfld o 18 16) {} fun r =>
        if i < 0x40 then { r with count := if nfld v 8 0 = 0 then r.count.del i else r.count.put i (nfld v 7 0),
                                  on := if nbit v 8 then setAdd r.on i else setDel r.on i }
        else if i < 0x60 then { r with alloc := tagSet r.alloc (i - 0x40) v }
        else { r with free := tagSet r.free (i - 0x60) v } }
  | _ =>
    let i := nfld o 7 0
    if i = 0 then (if resume then { c with cstat := BitVec.ofNat 64 v } else c)
    else if i = 1 then { c with rseq := BitVec.ofNat 32 v }
    else if i = 2 then { c with ld := nbit v 2, dv := nbit v 1, av := nbit v 0 }
    else if i < 0x10 then c
    else if i < 0x20 then { c with cb := c.cb.put (i - 0x10) (BitVec.ofNat 64 v) }
    else { c with bound := if nbit v 63 then c.bound.put (i - 0x20) (v % 2 ^ 32) else c.bound.del (i - 0x20) }

/-! ## Unit 7 of a tile -/

/-- Is the tile's message port entry e present, and its word w (R232 structure 5: [3:0] the entry, [5:4] the word). -/
def Tile.portWord (x : Tile) (e w : Nat) : Nat :=
  if w = 3 then x.outbox.length else match x.outbox[e]? with | some m => m.word w | none => 0

/-- An item of unit 7 by its 28-bit offset. -/
def Tile.item7 (x : Tile) (off : Nat) : Option Nat :=
  let o := off % 2 ^ 24
  let queue := fun (l : List Cmd) (cap : Nat) =>
    if nfld o 23 9 != 0 || nfld o 3 2 != 0 || decide (cap ≤ nfld o 8 4) then none
    else if nfld o 1 0 = 3 then some l.length else some ((l[nfld o 8 4]?.map fun c => c.word (nfld o 1 0)).getD 0)
  match off / 2 ^ 24 with
  | 0 => queue x.colq 8
  | 1 => queue x.cpyq 16
  | 2 =>
    let l := x.fifoAt (nfld o 6 4)
    if nfld o 23 7 != 0 || decide (5 < nfld o 6 4) then none
    else if nfld o 3 0 = 15 then some l.length else some (l.getD (nfld o 3 0) 0).toNat
  | 3 => if nfld o 23 8 != 0 then none else chanWord (x.slot (nfld o 7 4)).chan (nfld o 3 0)
  | 4 => if nfld o 23 8 != 0 || nbit o 3 then none else (x.slot (nfld o 7 4)).cs.item (nfld o 2 0)
  | 5 => if nfld o 23 6 != 0 then none else some (x.portWord (nfld o 3 0) (nfld o 5 4))
  | 14 => if o = 0 then some 0 else none
  | str => x.col.item str o

/-- The tile with an item of unit 7 written; new queue entries take names from id on. -/
def Tile.setItem7 (x : Tile) (resume : Bool) (id off v : Nat) : Tile :=
  let o := off % 2 ^ 24
  match off / 2 ^ 24 with
  | 0 => { x with colq := queueSet x.colq 8 id (nfld o 8 4) (nfld o 1 0) v }
  | 1 => { x with cpyq := queueSet x.cpyq 16 id (nfld o 8 4) (nfld o 1 0) v }
  | 2 =>
    let f := fun (l : List (BitVec 16)) => if nfld o 3 0 = 15 then resize 0 (min v 15) l else updNth l (nfld o 3 0) fun _ => BitVec.ofNat 16 v
    { x with fifo := x.fifo.upd (nfld o 6 4) [] f }
  | 3 => x.modSlot (nfld o 7 4) fun sl => { sl with chan := chanSet sl.chan (nfld o 3 0) v }
  | 4 => x.modSlot (nfld o 7 4) fun sl => { sl with cs := sl.cs.setItem (nfld o 2 0) v }
  | 5 =>
    let f := fun (m : OutMsg) =>
      if nfld o 5 4 = 1 then { m with dst := BitVec.ofNat 64 v } else if nfld o 5 4 = 2 then { m with w := { m.w with val := BitVec.ofNat 64 v } } else m
    { x with outbox := updNth x.outbox (nfld o 3 0) f }
  | 14 => x
  | str => { x with col := x.col.setItem resume str o v }

/-! ## Unit 8: counters (R463) -/

/-- The phase counter (R445). -/
def Tile.phase (x : Tile) (now : Nat) : Nat := x.col.phase (x.cyc 1 now)

/-- An item of unit 8. -/
def Tile.item8 (x : Tile) (now off : Nat) : Option Nat :=
  let o := off % 2 ^ 24
  let pair := fun (p : Nat × Nat) => if nbit o 0 then p.2 else p.1
  match off / 2 ^ 24 with
  | 0 => if o = 0 then some (x.phase now) else none
  | 1 =>
    if nbit o 23 || decide (95 < nfld o 22 16) || nfld o 15 4 != 0 || nbit o 1 then none
    else some (pair (x.col.cnt.at (nfld o 22 16 * 4 + nfld o 3 2) (0, 0)))
  | 2 =>
    if nfld o 23 20 != 0 || nfld o 15 4 != 0 || nbit o 1 then none
    else some (pair (x.col.acnt.at (nfld o 19 16 * 4 + nfld o 3 2) (0, 0)))
  | 3 =>
    let k := x.col.mcell (nfld o 20 16)
    if nfld o 23 21 != 0 || nfld o 15 3 != 0 then none
    else match nfld o 2 0 with
    | 0 => some k.spos.toNat
    | 1 => some k.dpos.toNat
    | 2 => some k.pgev.toNat
    | 4 => some (creditsNow k.mcred k.mcredAt x.reg.mlevel (x.cyc 1 now))
    | _ => none
  | 4 =>
    let n := nfld o 23 15
    if nfld o 14 2 != 0 || decide (272 < n) then none
    else match nfld o 1 0 with
    | 0 => some (x.col.given.at n 0)
    | 1 => some (x.col.taken.at n 0)
    | 2 => some (x.col.reqout.at n 0)
    | _ => none
  | 5 => match o with
    | 0 => some x.reg.mlevel
    | 1 => some x.reg.clevel
    | 2 => some (creditsNow x.reg.ccred x.reg.ccredAt x.reg.clevel (x.cyc 2 now))
    | _ => none
  | 6 => if o < 8 then some (x.reg.pmcnt.at o 0).toNat else none
  | 7 => match o with
    | 0 => some x.ni.lettx
    | 1 => some x.ni.letrx
    | 2 => some x.ni.retx
    | 3 => some x.ni.reseqN
    | _ => none
  | 8 =>
    let p := x.rt.out (nfld o 22 20)
    if nbit o 23 || nfld o 19 1 != 0 || decide (6 < nfld o 22 20) then none else some (if nbit o 0 then p.border else p.trims)
  | _ => none

/-- A level of a meter as it is written (R456). -/
def levelOf (v : Nat) : Nat := if v = 0 ∨ 64 < v then 64 else v

/-- The tile with an item of unit 8 written; the phase counter keeps the value that its rally gives it. -/
def Tile.setItem8 (x : Tile) (now off v : Nat) : Tile :=
  let o := off % 2 ^ 24
  let reg := fun (f : TileRegs → TileRegs) => { x with reg := f x.reg }
  let col := fun (f : Collar → Collar) => { x with col := f x.col }
  let ni := fun (f : NetIf → NetIf) => { x with ni := f x.ni }
  let part := fun (w : Nat) (p : Nat × Nat) => if nbit o 0 then (p.1, v % 2 ^ w) else (v % 2 ^ w, p.2)
  match off / 2 ^ 24 with
  | 1 => col fun c => { c with cnt := c.cnt.upd (nfld o 22 16 * 4 + nfld o 3 2) (0, 0) (part 32) }
  | 2 => col fun c => { c with acnt := c.acnt.upd (nfld o 19 16 * 4 + nfld o 3 2) (0, 0) (part 20) }
  | 3 => col fun c => c.modMc (nfld o 20 16) fun k =>
      match nfld o 2 0 with
      | 0 => { k with spos := BitVec.ofNat 32 v }
      | 1 => { k with dpos := BitVec.ofNat 32 v }
      | 2 => { k with pgev := BitVec.ofNat 32 v }
      | _ => { k with mcred := min 64 (v % 128), mcredAt := x.cyc 1 now }
  | 4 => col fun c =>
      let n := nfld o 23 15
      match nfld o 1 0 with
      | 0 => { c with given := c.given.put n (v % 2 ^ 16) }
      | 1 => { c with taken := c.taken.put n (v % 2 ^ 16) }
      | _ => { c with reqout := c.reqout.put n (v % 2 ^ 8) }
  | 5 => match o with
    | 0 => reg fun r => { r with mlevel := levelOf v }
    | 1 => reg fun r => { r with clevel := levelOf v }
    | _ => reg fun r => { r with ccred := min 64 (v % 128), ccredAt := x.cyc 2 now }
  | 6 => reg fun r => { r with pmcnt := r.pmcnt.put o (BitVec.ofNat 64 (bnat (nbit v 63) * 2 ^ 63 + v % 2 ^ 48)) }
  | 7 => ni fun n => match o with
    | 0 => { n with lettx := v % 2 ^ 32 }
    | 1 => { n with letrx := v % 2 ^ 32 }
    | 2 => { n with retx := v % 2 ^ 32 }
    | _ => { n with reseqN := v % 2 ^ 32 }
  | 8 => { x with rt := x.rt.modOut (nfld o 22 20) fun p => if nbit o 0 then { p with border := v % 2 ^ 32 } else { p with trims := v % 2 ^ 32 } }
  | _ => x

/-! ## Unit 4: the array (R302) -/

/-- PSKEW now (R323): the array cycles of the wait that stands, or the count kept. -/
def Tile.pskewNow (x : Tile) (now : Nat) : Nat :=
  match x.col.arr.skewAt with
  | some c => x.col.arr.pskew + (x.cyc 1 now - c)
  | none => x.col.arr.pskew

/-- An item of unit 4. -/
def Tile.item4 (x : Tile) (now off : Nat) : Option Nat :=
  let o := off % 2 ^ 24
  let a := x.col.arr
  match off / 2 ^ 24 with
  | 0 => if o < 2 ^ 17 then some (a.acc.at o 0).toNat else none
  | 1 => if nfld o 23 17 != 0 || nbit o 15 then none else some ((if nbit o 16 then a.b1 else a.b0).at (o % 2 ^ 15) 0).toNat
  | 2 => if nfld o 23 12 != 0 then none else some (a.sc.at o 0).toNat
  | 3 => match o with
    | 0 => some a.arp.toNat
    | 1 => some a.ald.toNat
    | 2 => some (x.pskewNow now % 2 ^ 21)
    | _ => none
  | _ => none

/-- The array with an item of unit 4 written; cyc is the array's cycle. -/
def ArrayState.setItem (a : ArrayState) (cyc off v : Nat) : ArrayState :=
  let o := off % 2 ^ 24
  match off / 2 ^ 24 with
  | 0 => { a with acc := a.acc.put o (BitVec.ofNat 36 v), accBad := setDel a.accBad o, accSoft := setDel a.accSoft o }
  | 1 => if nbit o 16 then { a with b1 := a.b1.put (o % 2 ^ 15) (BitVec.ofNat 18 v) } else { a with b0 := a.b0.put (o % 2 ^ 15) (BitVec.ofNat 18 v) }
  | 2 => { a with sc := a.sc.put o (BitVec.ofNat 36 v) }
  | _ =>
    if o = 0 then a.setArp (BitVec.ofNat 64 v) else if o = 1 then a.setAld (BitVec.ofNat 64 v)
    else { a with pskew := v % 2 ^ 21, skewAt := a.skewAt.map fun _ => cyc }

end Sys2Proof.Machine
end

