-- ==== Sys2Proof/Machine/Courts.lean ====
section
/-! DEFINITION. Courts: the fields of a court table entry, placement, and the start of a pre-emption (spec/13_q_fabric.md R365, R366; spec/14_q_stop.md R387 to
R390; spec/16_t_system.md R430, R431, R435, R436, R441, R442; spec/17_counters.md R459). -/

namespace Sys2Proof.Machine

/-! ## Fields of an entry (R430) -/

/-- A word of the entry. -/
def Court.word (c : Court) (i : Nat) : Word := c.w.at i 0
/-- RES. -/
def Court.res (c : Court) : Bool := bitOf (c.word 0) 62
/-- LOCK. -/
def Court.lock (c : Court) : Bool := bitOf (c.word 0) 61
/-- STK. -/
def Court.stk (c : Court) : Nat := fld (c.word 0) 46 45
/-- LYR. -/
def Court.lyr (c : Court) : Nat := fld (c.word 0) 44 43
/-- ORGROW. -/
def Court.orgRow (c : Court) : Nat := fld (c.word 0) 42 40
/-- ORGCOL. -/
def Court.orgCol (c : Court) : Nat := fld (c.word 0) 39 37
/-- NROWSM1. -/
def Court.rowsM1 (c : Court) : Nat := fld (c.word 0) 36 34
/-- NCOLSM1. -/
def Court.colsM1 (c : Court) : Nat := fld (c.word 0) 33 31
/-- PAIRMAP. -/
def Court.pairmap (c : Court) : Nat := fld (c.word 0) 23 0
/-- EQUOTA. -/
def Court.equota (c : Court) : Nat := fld (c.word 1) 63 32
/-- GRANT. -/
def Court.grant (c : Court) : Nat := fld (c.word 1) 24 0
/-- PWR of a grant (R135). -/
def grantPwr (g : Nat) : Nat := nfld g 15 0
/-- CMINM1 of a grant. -/
def grantCmin (g : Nat) : Nat := nfld g 19 16
/-- TMINM1 of a grant. -/
def grantTmin (g : Nat) : Nat := nfld g 23 20
/-- BOOST of a grant. -/
def grantBoost (g : Nat) : Bool := nbit g 24
/-- SAVE: the HBM address of the save area. -/
def Court.saveAt (c : Court) : Nat := fld (c.word 3) 38 16 * 2 ^ 16
/-- SLOTS. -/
def Court.slotMask (c : Court) : Nat := fld (c.word 6) 31 16
/-- DV. -/
def Court.dv (c : Court) : Bool := bitOf (c.word 6) 3
/-- PAIR. -/
def Court.pair (c : Court) : Nat := fld (c.word 6) 2 0
/-- WMASK. -/
def Court.wmask (c : Court) : Nat := (c.word 7).toNat
/-- The divisor of an engine under LOCK, less one (0 TCC, 1 COL, 2 CPY). -/
def Court.lockDiv (c : Court) (e : Nat) : Nat := fld (c.word 8) (8 * e + 3) (8 * e)

/-- Is the court on its tiles: placed or stopping. -/
def Court.placed (c : Court) : Bool := c.v && (c.st == 1 || c.st == 2)

/-- The numbers of the courts that the table lists. -/
def State.courtNos (s : State) : List Nat := s.courts.keys

/-! ## Placement (R435, R436) -/

/-- Does a role change on (stack, layer) affect the court (R442): it stands on the layer, or has layer memory of the stack. -/
def Court.touchedBy (c : Court) (stk lyr : Nat) : Bool := (c.stk == stk && c.lyr == lyr) || c.lmLen stk != 0

/-- The role of a layer in a ROLES value. -/
def roleIn (roles stk lyr : Nat) : Nat := nfld roles (8 * stk + 2 * lyr + 1) (8 * stk + 2 * lyr)

/-- The layer memory of a stack in a ROLES value, in 4 MiB units (R441). -/
def lmSizeIn (roles stk : Nat) : Nat := 48 * ((List.range 4).filter fun y => roleIn roles stk y == 2).length

/-- Would the court be placeable under these roles (R442 step 4). -/
def Court.fits (c : Court) (roles : Nat) : Bool :=
  roleIn roles c.stk c.lyr == 1
    && (List.range 4).all fun k => decide (c.lmBase k + c.lmLen k ≤ lmSizeIn roles k * 2 ^ 22)

/-- The number of bits set. -/
def popc (n : Nat) : Nat := popFrom 64 n

/-- Do two courts share a tile, a layer-memory byte, an HBM wheel slot, or (when both hold a dedicated pair) a pair or a slot-table position (R435). -/
def Court.clash (c o : Court) : Bool :=
  c.tiles.any o.tiles.contains || (c.wmask &&& o.wmask) != 0
    || (c.dv && o.dv && (c.pair == o.pair || (c.slotMask &&& o.slotMask) != 0))
    || (List.range 4).any fun k => c.lmLen k != 0 && o.lmLen k != 0 && decide (c.lmBase k < o.lmBase k + o.lmLen k) && decide (o.lmBase k < c.lmBase k + c.lmLen k)

/-- Is court n placeable (R435); while a role change is open, no court that it affects is placed (R442). -/
def State.placeable (s : State) (n : Nat) : Bool :=
  let c := s.court n
  let others := (s.courtNos.filter fun k => k != n && (s.court k).placed).map s.court
  let sum := fun (f : Court → Nat) => (others.map f).foldl (· + ·) (f c)
  c.v && !c.unpl && roleIn s.roles.roles.toNat c.stk c.lyr == 1
    && !(s.roles.closing && c.touchedBy s.roles.rstk s.roles.rlyr)
    && !others.any c.clash
    && (!c.dv || decide (sum (fun o => if o.dv then popc o.slotMask else 0) ≤ 14))
    && decide (sum (fun o => popc o.wmask) ≤ 56)

/-- The COURT selector of a tile of the court (R135). -/
def State.courtWord (s : State) (n t : Nat) : Word :=
  let c := s.court n
  let row := tileRow t - c.orgRow
  let col := tileCol t - c.orgCol
  BitVec.ofNat 64 (place s.pkg.pkgid.toNat 52 12 + place c.stk 50 2 + place c.lyr 48 2 + place c.orgRow 45 3 + place c.orgCol 42 3
    + place c.rowsM1 39 3 + place c.colsM1 36 3 + place (bnat (nbit c.pairmap (4 * row + col / 2))) 7 1 + place n 0 6)

/-- Raise the divisors that lie below a grant's minimum (R146, R433, R436). -/
def Tile.raiseDivs (x : Tile) (g now : Nat) : Tile :=
  [0, 1, 2].foldl (fun x e =>
    let m := (if e = 0 then grantTmin g else grantCmin g) + 1
    if x.reg.div e < m then x.setDiv e m now else x) x

/-- The divisors of a clock lock. -/
def Tile.lockDivs (x : Tile) (c : Court) (now : Nat) : Tile := [0, 1, 2].foldl (fun x e => x.setDiv e (c.lockDiv e + 1) now) x

/-- The outputs whose slot table and VC map a court with a dedicated pair programs (R436): those inside its rectangle, the vertical links of its tile
positions down to the base die, and the bridges and package ports of that die. -/
def Court.outputs (c : Court) : List (Node × Nat) :=
  let ts := c.tiles
  let inside := ts.flatMap fun t =>
    ([(0, tileRow t != c.orgRow), (1, tileCol t != c.orgCol + c.colsM1), (2, tileRow t != c.orgRow + c.rowsM1), (3, tileCol t != c.orgCol), (6, true)].filter
      fun (p : Nat × Bool) => p.2).map fun p => (Node.tile t, p.1)
  let down := ts.flatMap fun t => (List.range (c.lyr + 1)).map fun y => (Node.tile (tileNo c.stk y (tileRow t) (tileCol t)), 5)
  let up := ts.flatMap fun t => (List.range c.lyr).map fun y => (Node.tile (tileNo c.stk y (tileRow t) (tileCol t)), 4)
  let foot := ts.map fun t => (Node.die c.stk, 28 + t % 48)
  inside ++ down ++ up ++ foot ++ (List.range 27).map fun o => (Node.die c.stk, o)

/-- Write a court's positions of a slot table: owned by its pair, or free. -/
def Court.slotTable (c : Court) (own : Bool) (w : BitVec 64) : BitVec 64 :=
  BitVec.ofNat 64 ((List.range 16).foldl (fun acc i =>
    let old := fld w (4 * i + 3) (4 * i)
    acc + (if nbit c.slotMask i then (if own then 8 + c.pair else 0) else old) * 2 ^ (4 * i)) 0)

/-- A slot table loaded: one with more than 14 owned entries is refused (R366). -/
def OutPort.load (o : OutPort) (w : BitVec 64) : OutPort :=
  if 14 < ((List.range 16).filter fun k => w.getLsbD (4 * k + 3)).length then o else { o with slots := w }

/-- The VC map entry of a pair that court n of a package owns (R380). -/
def mapEntry (pkg n : Nat) : Nat := 2 ^ 18 + place pkg 6 12 + place n 0 6

/-- Program, or free, the outputs of a court with a dedicated pair (R365, R366, R380). -/
def State.programOutputs (s : State) (n : Nat) (own : Bool) : State :=
  let c := s.court n
  if !c.dv then s
  else
    c.outputs.foldl (fun s p => s.modRouter p.1 fun r => r.modOut p.2 fun o =>
      { o with vcmap := if own then o.vcmap.put c.pair (mapEntry s.pkg.pkgid.toNat n) else o.vcmap.del c.pair }.load (c.slotTable own o.slots)) s

/-- Write, or free, a court's slots of the HBM wheels on every pseudo-channel (R178, R436). -/
def State.programWheels (s : State) (n : Nat) (own : Bool) : State :=
  let m := (s.court n).wmask
  if m = 0 then s
  else
    (List.range 4).foldl (fun s d => s.modDie d fun x =>
      { x with wheel := (List.range 8192).foldl (fun w k => if nbit m (k % 64) then (if own then w.put k (128 + n) else w.del k) else w) x.wheel }) s

/-- Place a court for an ASID (R436). -/
def State.placeCourt (s : State) (n asid : Nat) : State :=
  let c := s.court n
  let s := (c.tiles.foldl (fun s t => s.settleMeters t) s).modCourt n fun c => { c with st := 1, curasid := asid }
  let s := c.tiles.foldl (fun s t => s.modTile t fun x =>
    let x := { x with reg := { x.reg with court := s.courtWord n t, grant := BitVec.ofNat 25 c.grant, lock := c.lock, handler := 0 } }
    let x := if c.lock then x.lockDivs c s.time else x
    x.raiseDivs c.grant s.time) s
  (s.programWheels n true).programOutputs n true

/-- Unplace a court (R436): it takes STATE 0, or STATE 3 after a save. -/
def State.unplaceCourt (s : State) (n st : Nat) : State :=
  let s := ((s.court n).tiles.foldl (fun s t => s.settleMeters t) s |>.programWheels n false).programOutputs n false
  let s := (s.court n).tiles.foldl (fun s t => s.modTile t fun x => { x with reg := { x.reg with court := 0, grant := 0, lock := false, handler := 0 } }) s
  s.modCourt n fun c => { c with st := st, stop := none, curasid := 0 }

/-- The energy quota is loaded (R459). -/
def Court.loadQuota (c : Court) : Court := { c with eqrem := c.equota * 1000, ex := false }

/-! ## Pre-emption: request and stop (R387, R388) -/

/-- Ask for the pre-emption of a court: none when it is not placed or is already stopping (R395, R434). -/
def State.requestPreempt (s : State) (n reason : Nat) : State :=
  let c := s.court n
  if c.v && c.st == 1 && c.stop.isNone then s.modCourt n fun c => { c with stop := some { reason := reason, asked := s.time } } else s

/-- Phase 1 on one tile: engines start nothing, the collar drains; each task's run-on is counted from now (R388, R391, R392). -/
def Tile.stopTile (x : Tile) (now : Nat) : Tile :=
  { x with stopAt := some now, stopCyc := x.cyc 1 now,
           col := { x.col with rally := x.col.rally.map fun r => { r with drain := true } },
           slots := x.slots.mapVals fun sl => { sl with stop := { sl.stop with state := 0, ovr := false, issued := sl.issues, notReady := 0 } } }

/-- Phase 1 begins once no abort of a launch of the court runs (R388, R395). -/
def State.beginStop (s : State) (n : Nat) : State :=
  let c := s.court n
  match c.stop with
  | none => s
  | some p =>
    if p.phase != 0 || c.st != 1 || s.entries.any (fun e => e.2.aborting && e.2.st == 3 && e.2.courtNo == n) then s
    else
      let s := s.modCourt n fun c => { c with st := 2, stop := some { p with phase := 2, began := s.time } }
      c.tiles.foldl (fun s t =>
        let k := s.skewNow t % 2 ^ 21
        (s.modTile t fun x => x.stopTile s.time).modArr t fun a => { a with pskew := k, skewAt := none }) s

/-- PREEMPT_REQUEST (R387, R388): the request, and the stop as soon as it may begin. -/
def execPreemptRequest (n reason : Nat) (s : State) : Out :=
  if n < 64 then .next ((s.requestPreempt n (reason % 4)).beginStop n) else .fault .noSuchUnit

/-- DRAIN_TIMEOUT (R390): the whistle has not come 16,384 collar cycles after the stop. The cycles are counted as they pass, whatever divisors held (R146). -/
def execDrainTimeout (t : Nat) (s : State) : Out :=
  if t < numTiles then
    .next (match (s.tile t).stopAt with
      | some _ =>
        if (s.tile t).stopCyc + 16384 ≤ s.colCyc t then
          s.modCol t fun c => { c with rally := c.rally.map fun r => if r.saved || r.whistle.isSome then r else { r with halt := true } }
        else s
      | none => s)
  else .fault .noSuchUnit

end Sys2Proof.Machine
end

