-- ==== Sys2Proof/Machine/Launch.lean ====
section
/-! DEFINITION. The dispatcher: interval boundaries, images, the start and the end of launches, and aborts (spec/01_machine.md R27, R28; spec/03_reg_core.md R78;
spec/10_q_collar.md R263; spec/11_q_array.md R301; spec/14_q_stop.md R386, R393; spec/15_t_launch.md R412, R417 to R428). -/

namespace Sys2Proof.Machine

/-! ## The dispatcher's reads of global virtual memory (R163, R422 to R424) -/

/-- How a read ends: its bytes; not yet, since a granule is not resident; or a cause. -/
inductive DRead where
  | done (bs : List MByte)
  | wait
  | bad (cause : Nat)
deriving DecidableEq, Repr

/-- A scratchpad range of another package is read over the fabric, as stream 52 of base die s0: the answer, or none while it has not come. -/
def State.readFar (s : State) (asid pkg t off n : Nat) : State × DRead :=
  match s.farReads.find? fun q => q.asid == asid && q.pkg == pkg && q.tile == t && q.off == off && q.n == n with
  | some q =>
    match q.ans with
    | none => (s, .wait)
    | some r => (s, if r.stat = .fail ∨ r.stat = .unknown then .bad cRemoteFail.toNat else .done r.data)
  | none =>
    if !(s.die 0).ni.canSend 52 0 then (s, .wait)
    else
      let h : Hdr := { dpkg := pkg, dtile := tileBits t, spkg := s.pkg.pkgid.toNat, stile := nodeBits (.die 0), stream := 52, asid := asid, addr := off }
      let hp := opHdr h (.read n)
      ({ s.modNet (.die 0) fun x => x.request hp.1 hp.2 .nobody s.time with farReads := s.farReads ++ [⟨asid, pkg, t, off, n, none⟩] }, .wait)

/-- What was read over the fabric under an ASID is no longer wanted. -/
def State.endFar (s : State) (asid : Nat) : State := { s with farReads := s.farReads.filter fun q => q.asid != asid }

/-- One piece at its home: n bytes that cross no 64-byte line. -/
def State.readHome (s : State) (asid n : Nat) (h : Home) : State × DRead :=
  let plain := fun (key : Nat) => (s, DRead.done (s.readM key n))
  match h with
  | .hbm p => plain (hbmBase + p)
  | .second p => if (s.cxlPort p).isNone then (s, .bad cRemoteFail.toNat) else plain (secondBase + p)
  | .host p => plain (hostBase + p)
  | .mig a v =>
    let d := s.homeDie h
    match (s.die d).frameOf a v with
    | some f => plain (hbmBase + (s.die d).frameAddr f + v % 2 ^ 21)
    | none => (s.modDie d fun x => x.startMigr a (v / 2 ^ 21), .wait)
  | .far pkg t off =>
    if pkg != s.pkg.pkgid.toNat then s.readFar asid pkg t off n
    else
      match s.asidCheck t asid with
      | some .busy => (s, .wait)
      | some _ => (s, .bad cRemoteFail.toNat)
      | none => let s := s.scrub (scratchKey t off) ((off + n + 7) / 8 - off / 8); (s, .done (s.readM (scratchKey t off) n))
  | _ => (s, .bad cRange.toNat)

/-- Read n bytes from virtual address v on, for a launch of court c under an ASID. -/
def State.dispRead (s : State) (c : Court) (asid : Nat) : Nat → Nat → Nat → State × DRead
  | 0, _, _ => (s, .done [])
  | fuel + 1, v, n =>
    if n = 0 then (s, .done [])
    else
      match s.translate (some c) asid v 1 .read with
      | .error e => (s, .bad e.toNat)
      | .ok h =>
        let m := min n (min (64 - v % 64) (64 - h.pos % 64))
        match s.translate (some c) asid v m .read with
        | .error e => (s, .bad e.toNat)
        | .ok h =>
          match s.readHome asid m h with
          | (s, .done bs) =>
            if bs.any (·.poi) then (s, .bad cPoisonUse.toNat)
            else
              match State.dispRead s c asid fuel (v + m) (n - m) with
              | (s, .done more) => (s, .done (bs ++ more))
              | r => r
          | r => r

/-! ## Task images (R424) -/

/-- PRIO. -/
def imgPrio (h : List Word) : Nat := fld (h.getD 0 0) 49 48
/-- CODESZ. -/
def imgCode (h : List Word) : Nat := fld (h.getD 1 0) 17 0
/-- SPILLSZ. -/
def imgSpill (h : List Word) : Nat := fld (h.getD 1 0) 47 32
/-- ENTRY. -/
def imgEntry (h : List Word) : Nat := fld (h.getD 2 0) 17 0
/-- STOFF. -/
def imgStoff (h : List Word) : Nat := fld (h.getD 2 0) 35 18
/-- STCNT. -/
def imgStcnt (h : List Word) : Nat := fld (h.getD 2 0) 48 36
/-- DATAOFF. -/
def imgDataOff (h : List Word) : Nat := fld (h.getD 3 0) 21 0
/-- DATASZ. -/
def imgDataSz (h : List Word) : Nat := fld (h.getD 3 0) 54 32
/-- The bytes of the code region and the side table. -/
def imgStore (h : List Word) : Nat := imgStoff h + 16 * imgStcnt h
/-- The bytes of the whole image. -/
def imgSize (h : List Word) : Nat := 64 + imgStore h + imgDataSz h

/-- Is the header in order, as far as it alone shows. -/
def imgHeaderOk (h : List Word) : Bool :=
  let w := fun (i : Nat) => h.getD i 0
  fld (w 0) 31 0 == 0x4B573954 && fld (w 0) 47 32 == 1 && fld (w 0) 63 50 == 0
    && fld (w 1) 31 18 == 0 && fld (w 1) 63 48 == 0 && fld (w 2) 63 49 == 0 && fld (w 3) 31 22 == 0 && fld (w 3) 63 55 == 0
    && fld (w 4) 63 32 == 0 && w 5 == 0 && w 6 == 0 && w 7 == 0
    && isMult (imgCode h) 4 && decide (4 ≤ imgCode h) && decide (imgCode h ≤ 262140) && isMult (imgSpill h) 8
    && decide (imgEntry h < imgCode h) && isMult (imgEntry h) 4 && imgStoff h == (imgCode h + 15) / 16 * 16 && decide (imgStcnt h ≤ 4096)
    && isMult (imgDataOff h) 8 && isMult (imgDataSz h) 8 && decide (imgDataOff h + imgDataSz h ≤ 2 ^ 22) && decide (imgStore h ≤ 258048)

/-- The n little-endian words of bytes. -/
def wordsOf (bs : List Byte) : Nat → List Word
  | 0 => []
  | n + 1 => BitVec.ofNat 64 (ofBytes (bs.take 8)) :: wordsOf (bs.drop 8) n

/-- Is a side table strictly ascending with every offset inside the code (R393): its words, two by two. -/
def sideOk (code : Nat) : Option Nat → List Word → Bool
  | last, w :: _ :: rest =>
    let off := fld w 31 0
    fld w 63 40 == 0 && decide (off < code) && (match last with | some l => decide (l < off) | none => true) && sideOk code (some off) rest
  | _, _ => true

/-- Is a whole image in order: its check code and its side table. -/
def imgWholeOk (h : List Word) (bs : List Byte) : Bool :=
  let clear := bs.take 32 ++ [0, 0, 0, 0] ++ bs.drop 36
  crc32c clear == fld (h.getD 4 0) 31 0 && sideOk (imgCode h) none (wordsOf (bs.drop (64 + imgStoff h)) (2 * imgStcnt h))

/-! ## Resources of a tile (R422, R425) -/

/-- What the running launches have taken on a tile: slot (when it is not started yet), base, bytes of store, spill base, bytes of spill. -/
def State.taken (s : State) (t : Nat) : List (Option Nat × Nat × Nat × Nat × Nat) :=
  s.entries.flatMap fun e =>
    if e.2.st != 3 then []
    else (e.2.placed.filter fun p => p.tile == t).map fun p =>
      let h := (e.2.imgs.at p.img {}).hdr
      (if e.2.started then none else some p.slot, p.base, imgStore h, p.spill, imgSpill h)

/-- The lowest run of free pages for n bytes (R425). -/
def pageRun (taken : List (Nat × Nat)) (n : Nat) : Option Nat :=
  let k := ceilDiv n 4096
  let free := fun (p : Nat) => !taken.any fun q => decide (q.1 < (p + 1) * 4096) && decide (p * 4096 < q.1 + q.2)
  ((List.range (64 - k)).map (· + 1)).find? (fun p => (List.range k).all fun i => free (p + i)) |>.map (· * 4096)

/-- The lowest free window of n bytes of spill memory (R154): from 0 or behind a taken one. -/
def spillWindow (taken : List (Nat × Nat)) (n : Nat) : Option Nat :=
  let fits := fun (a : Nat) => decide (a + n ≤ 65536) && !taken.any fun q => decide (q.1 < a + n) && decide (a < q.1 + q.2)
  ((0 :: taken.map fun q => q.1 + q.2).filter fits).foldl (fun m a => match m with | some b => some (min a b) | none => some a) none

/-- The tiles of a mask, court-relative bit 8r + c (R409). -/
def Court.maskTiles (c : Court) (m : Nat) : List Nat :=
  ((List.range 48).filter (nbit m)).map fun b => tileNo c.stk c.lyr (c.orgRow + b / 8) (c.orgCol + b % 8)

/-- Find room for image i of an entry on tile t, beside what is placed already. -/
def State.roomFor (s : State) (en : Entry) (i t : Nat) (sofar : List Placed) : Option Placed :=
  let h := fun (j : Nat) => (en.imgs.at j {}).hdr
  let mine := (sofar.filter fun p => p.tile == t).map fun p => (some p.slot, p.base, imgStore (h p.img), p.spill, imgSpill (h p.img))
  let all := s.taken t ++ mine
  let slot := (List.range 16).find? fun k => !(s.slot t k).live && !all.any fun q => q.1 == some k
  let base := pageRun (all.map fun q => (q.2.1, q.2.2.1)) (imgStore (h i))
  let win := spillWindow (all.map fun q => (q.2.2.2.1, q.2.2.2.2)) (imgSpill (h i))
  match slot, base, win with
  | some k, some b, some w => some { tile := t, slot := k, img := i, base := b, spill := w }
  | _, _, _ => none

/-- Find room for a whole launch: images in order, tiles in row order. -/
def State.roomForAll (s : State) (en : Entry) : Option (List Placed) :=
  let c := s.court en.courtNo
  let want := (List.range en.nimg).flatMap fun i => (c.maskTiles (en.mask i)).map fun t => (i, t)
  want.foldl (fun acc p => match acc with
    | some l => (s.roomFor en p.1 p.2 l).map fun q => l ++ [q]
    | none => none) (some [])

/-! ## The grant test (R412) -/

/-- Do the power fields of a packet's words 0 and 1 exceed the court's grant. -/
def Court.denies (c : Court) (w0 w1 : Word) : Bool :=
  let g := c.grant
  decide (grantPwr g < fld w1 15 0) || (bitOf w0 19 && !grantBoost g)
    || (fld w0 55 52 != 0 && decide (fld w0 55 52 < grantCmin g)) || decide (c.eqrem / 1000 < fld w1 63 32)

/-! ## Refusal, end and abort -/

/-- A READY or RUNNING entry is refused (R417, R424): an image's refusal posts a record with the image address. -/
def State.refuseEntry (s : State) (e cause : Nat) (img : Option Nat) : State :=
  let en := s.entry e
  let s := match img with
    | some i => s.postFault { cause := cause, kind := 5, crt := en.courtNo, launch := e, tval := BitVec.ofNat 64 (en.imgAddr i) }
    | none => s
  let s := s.modEntry e fun en => { en with st := 5, cause := if en.cause = 0 then cause else en.cause, placed := [], started := false, noticed := true }
  ((s.entryNotice 4 (s.entry e).cause e).freeAborted e).sweepAborted

/-- A launch ends (R427). -/
def State.endLaunch (s : State) (e : Nat) : State :=
  let s := s.releaseSuccs e
  let s := if bitOf ((s.entry e).word 0) 20 then s.entryNotice 3 (s.entry e).cause e else s
  (s.modEntry e fun en => { en with st := 0, placed := [], started := false, imgs := [] }).sweepAborted

/-- LAUNCH_END (R27, R427). -/
def execLaunchEnd (e : Nat) (s : State) : Out :=
  if e < 4096 then
    .next (if s.launchOver e then s.endLaunch e else s)
  else .fault .noSuchUnit

/-- Is the abort of a launch ready for its step 4 on a tile (R238, R386): its tasks' accesses have completed, its copies are gone and its rally has whistled. -/
def Tile.abortQuiet (x : Tile) (e : Nat) : Bool :=
  x.slots.all (fun p => match p.2.task with | some ti => ti.entry != e || !p.2.outstanding | none => true)
    && (x.colq ++ x.cpyq).all (fun c => c.entry != e || c.st != 1) && x.copies.all (fun r => r.entry != e)
    && (match x.col.rally with | some r => r.entry != e | none => true)

/-- The slots of an aborted launch are freed (R386 step 4), and its TRAPSET bits with them (R140). -/
def Tile.freeSlots (x : Tile) (e : Nat) : Tile :=
  x.slots.keys.foldl (fun x k =>
    match (x.slot k).task with
    | some ti =>
      if ti.entry = e then
        let x := x.modSlot k fun sl => { sl.drain with task := none }
        { x with reg := { x.reg with trapset := BitVec.ofNat 16 (nsetBit x.reg.trapset.toNat k false) } }
      else x
    | none => x) x

/-- Steps 4 and 5 of an abort (R386). -/
def State.finishAbort (s : State) (e : Nat) : State :=
  let en := s.entry e
  let s := if en.st = 3 then en.tiles.foldl (fun s t => s.modTile t fun x => x.freeSlots e) s else s
  let s := s.modEntry e fun en => { en with st := 5, aborting := false, live := 0, placed := [], started := false, noticed := true }
  ((s.entryNotice 4 (s.entry e).cause e).freeAborted e).sweepAborted

/-- LAUNCH_ABORT (R386): the end of an abort that has begun. -/
def execLaunchAbort (e : Nat) (s : State) : Out :=
  if e < 4096 then
    let en := s.entry e
    .next (if en.aborting && (en.st = 4 || (en.st = 3 && en.tiles.all fun t => (s.tile t).abortQuiet e)) then s.finishAbort e else s)
  else .fault .noSuchUnit

/-! ## Images of an entry -/

/-- The header of image i of a READY entry is read and checked (R422, R424). -/
def State.headerRead (s : State) (e i : Nat) : State :=
  let en := s.entry e
  if en.st != 2 || decide (en.nimg ≤ i) || (en.imgs.look i).isSome then s
  else
    let put := fun (s : State) (q : ImgInfo) => s.modEntry e fun en => { en with imgs := en.imgs.put i { q with readAt := s.time } }
    match s.dispRead (s.court en.courtNo) en.asid 64 (en.imgAddr i) 64 with
    | (s, .wait) => s
    | (s, .bad c) => put (s.endFar en.asid) { cause := c }
    | (s, .done bs) =>
      let h := wordsOf (bs.map (·.val)) 8
      put (s.endFar en.asid) (if imgHeaderOk h then { hdr := h, ok := true } else { hdr := h, cause := cConfig.toNat })

/-- IMAGE_HEADER_READ (R422). -/
def execImageHeaderRead (e i : Nat) (s : State) : Out := if e < 4096 ∧ i < 4 then .next (s.headerRead e i) else .fault .noSuchUnit

/-- Write bytes into an instruction store; the words they fill lose their errors (R152). -/
def State.writeIstore (s : State) (t a : Nat) (bs : List Byte) : State := s.writeStore (istoreKey t a) (bs.map fun b => { val := b })

/-- The code and side table of an image are placed at base B of a tile (R425). -/
def State.placeCode (s : State) (t base : Nat) (h : List Word) (bs : List Byte) : State :=
  let s := s.writeIstore t base ((bs.drop 64).take (imgCode h))
  let ws := wordsOf (bs.drop (64 + imgStoff h)) (2 * imgStcnt h)
  let moved := (List.range ws.length).flatMap fun k =>
    let w := ws.getD k 0
    toBytes 8 (if k % 2 = 0 then fld w 63 32 * 2 ^ 32 + (fld w 31 0 + base) % 2 ^ 32 else w.toNat)
  s.writeIstore t (base + imgStoff h) moved

/-- The data of an image is written at DATAOFF, with poison clear (R425). -/
def State.placeData (s : State) (t : Nat) (h : List Word) (bs : List Byte) : State :=
  let data := (bs.drop (64 + imgStore h)).take (imgDataSz h)
  (s.writeM (scratchKey t (imgDataOff h)) (data.map fun b => { val := b })).touched t (imgDataOff h) data.length

/-- Image i of a dispatched entry is read in full, checked and placed on every tile that it selects, or refuses the launch (R423, R424). -/
def State.imageRead (s : State) (e i : Nat) : State :=
  let en := s.entry e
  let q := en.imgs.at i {}
  if en.st != 3 || en.started || en.aborting || decide (en.nimg ≤ i) || q.placed then s
  else
    match s.dispRead (s.court en.courtNo) en.asid (imgSize q.hdr) (en.imgAddr i) (imgSize q.hdr) with
    | (s, .wait) => s
    | (s, .bad c) => (s.endFar en.asid).refuseEntry e c (some i)
    | (s, .done bs) =>
      let s := s.endFar en.asid
      let bytes := bs.map (·.val)
      if wordsOf bytes 8 != q.hdr || !imgWholeOk q.hdr bytes then s.refuseEntry e cConfig.toNat (some i)
      else
        let s := (en.placed.filter fun p => p.img == i).foldl (fun s p => (s.placeCode p.tile p.base q.hdr bytes).placeData p.tile q.hdr bytes) s
        s.modEntry e fun en => { en with imgs := en.imgs.put i { q with placed := true } }

/-- IMAGE_READ_COMPLETE (R423). -/
def execImageReadComplete (e i : Nat) (s : State) : Out := if e < 4096 ∧ i < 4 then .next (s.imageRead e i) else .fault .noSuchUnit

/-! ## Start (R78, R423) -/

/-- The slot of a task at its start: every register at its reset value, but s1, s2, s3 and the PC. -/
def startSlot (old : Slot) (t e : Nat) (en : Entry) (c : Court) (p : Placed) : Slot :=
  let h := (en.imgs.at p.img {}).hdr
  let rf : RegFile := { pc := BitVec.ofNat 32 (p.base + imgEntry h) }
  let rf := ((rf.set 1 { val := BitVec.ofNat 64 (fld (en.word 2) 55 0) }).set 2
    { val := BitVec.ofNat 64 ((tileRow t - c.orgRow) * 256 + (tileCol t - c.orgCol)) }).set 3 { val := BitVec.ofNat 64 p.slot }
  { rf := rf,
    sr := { priv := bitOf (en.word 0) 18, prio := BitVec.ofNat 2 (imgPrio h), slot := BitVec.ofNat 4 p.slot,
            spBase := BitVec.ofNat 16 p.spill, spSize := BitVec.ofNat 16 (imgSpill h) },
    task := some { entry := e, img := p.img, court := en.courtNo },
    stop := { stbase := BitVec.ofNat 18 (p.base + imgStoff h), stcnt := BitVec.ofNat 13 (imgStcnt h), issued := old.issues },
    issues := old.issues }

/-- All tasks of a launch start together, once every image is placed. -/
def State.startTasks (s : State) (e : Nat) : State :=
  let en := s.entry e
  if en.st != 3 || en.started || en.aborting || (List.range en.nimg).any (fun i => !(en.imgs.at i {}).placed) then s
  else
    let c := s.court en.courtNo
    let s := en.placed.foldl (fun s p => s.modSlot p.tile p.slot fun sl => startSlot sl p.tile e en c p) s
    s.modEntry e fun en => { en with started := true, live := en.placed.length }

/-- TASK_START (R423). -/
def execTaskStart (e : Nat) (s : State) : Out := if e < 4096 then .next (s.startTasks e) else .fault .noSuchUnit

/-! ## Interval boundaries (R419 to R423, R435, R436) -/

/-- The collar of a tile to which a launch is dispatched while no launch is live there (R263, R301). -/
def Collar.fresh (c : Collar) : Collar :=
  { c with ld := false, dv := false, av := false, vr := [], cb := [], arr := { (c.arr.setArp 0).setAld 0 with hasImg := false } }

/-- Has a tile a live launch. -/
def State.tileBusy (s : State) (t : Nat) : Bool := s.entries.any fun e => e.2.st == 3 && e.2.placed.any fun p => p.tile == t

/-- A READY entry is dispatched onto its court with the places found (R423 steps 1 and 2, R436). -/
def State.dispatch (s : State) (e : Nat) (l : List Placed) : State :=
  let en := s.entry e
  let n := en.courtNo
  let s := if (s.court n).st = 0 then s.placeCourt n en.asid else s
  let ts := l.foldl (fun ts p => setAdd ts p.tile) []
  let s := (ts.filter fun t => !s.tileBusy t).foldl (fun s t => s.modCol t Collar.fresh) s
  let s := (s.court n).tiles.foldl (fun s t => s.modTile t fun x => { x with reg := { x.reg with asid := BitVec.ofNat 11 en.asid } }) s
  s.modEntry e fun en => { en with st := 3, placed := l, started := false }

/-- The class pointer moves to the entry after one that has been dispatched (R420). -/
def State.passClass (s : State) (cls e : Nat) : State := { s with clsPtr := s.clsPtr.put cls ((e + 1) % 4096) }

/-- What is tried with a candidate at a boundary: none when it is passed over, else the new state. -/
def State.tryDispatch (s : State) (e : Nat) : Option State :=
  let en := s.entry e
  let n := en.courtNo
  let c := s.court n
  let denied := c.denies (en.word 0) (en.word 1)
  if en.nimg = 0 then some (if denied then s.refuseEntry e cLaunchDenied.toNat none else (s.endLaunch e).passClass en.eclass e)
  else if !(if c.st = 1 then c.v && c.curasid == en.asid else s.placeable n) then none
  else
    match s.roomForAll en with
    | none => none
    | some l => some (if denied then s.refuseEntry e cLaunchDenied.toNat none else (s.dispatch e l).passClass en.eclass e)

/-- Has the court a live reserved-class launch (R421). -/
def State.reservedLive (s : State) (n : Nat) : Bool := s.entries.any fun e => (e.2.st == 3 || e.2.st == 4) && e.2.courtNo == n && pktClass (e.2.word 0) == 0

/-- Is the court being stopped, or saved, so that nothing is dispatched to it (R387, R417). -/
def Court.closed (c : Court) : Bool := c.stop.isSome || c.st == 2 || c.st == 3

/-- A reserved-class entry that was passed over asks for the courts that hold its court's tiles to be pre-empted (R421). -/
def State.bump (s : State) (n : Nat) : State :=
  if (s.court n).st = 1 || (s.court n).closed then s
  else
    (s.courtNos.filter fun k => k != n && (s.court k).placed && (s.court k).tiles.any (s.court n).tiles.contains && !s.reservedLive k).foldl
      (fun s k => s.requestPreempt k 0) s

/-- One more interval spent READY (R420). -/
def State.older (s : State) (e : Nat) : State :=
  s.modEntry e fun en =>
    if en.st != 2 then en
    else if en.age + 1 < s.agelim then { en with age := en.age + 1 }
    else { en with age := 0, eclass := if 2 ≤ en.eclass then en.eclass - 1 else en.eclass }

/-- Unplace the courts with no running launch (R436). -/
def State.unplaceIdle (s : State) : State :=
  s.courtNos.foldl (fun s n =>
    let c := s.court n
    if c.st == 1 && c.stop.isNone && !s.entries.any (fun e => e.2.st == 3 && e.2.courtNo == n) then s.unplaceCourt n 0 else s) s

/-- Entries whose headers are in and have failed are refused (R422). -/
def State.refuseBad (s : State) (b : Nat) : State :=
  s.entries.keys.foldl (fun s e =>
    let en := s.entry e
    if en.st != 2 then s
    else
      match (List.range en.nimg).find? fun i => match en.imgs.look i with | some q => q.cause != 0 && decide (q.readAt < b) | none => false with
      | some i => s.refuseEntry e (en.imgs.at i {}).cause (some i)
      | none => s) s

/-- One class at a boundary: its candidates in index order from the class pointer. An entry that would take a held tile is passed over; the entries
passed over go along. -/
def State.boundaryClass (cands : List Nat) (b : Nat) (held : List Nat) (cls : Nat) (st : State × List Nat) : State × List Nat :=
  let ptr := st.1.clsPtr.at cls 0
  let mine := cands.filter fun e => (st.1.entry e).eclass == cls && !st.2.contains e
  let order := (mine.filter fun e => decide (ptr ≤ e)) ++ mine.filter fun e => decide (e < ptr)
  order.foldl (fun st e =>
    let s := st.1
    let en := s.entry e
    let c := s.court en.courtNo
    if en.st != 2 || decide (b ≤ en.readyAt) then st
    else if (en.nimg != 0 && c.tiles.any held.contains) || c.closed then (s, st.2 ++ [e])
    else
      match s.tryDispatch e with
      | some s' => (s', st.2)
      | none => (s, st.2 ++ [e])) st

/-- The reserved-class entries that were READY before boundary b and have not been dispatched at it, whatever held them back (R421). -/
def State.reservedWaiting (s : State) (b : Nat) : List Nat :=
  s.entries.keys.filter fun e => let en := s.entry e; en.st == 2 && en.eclass == 0 && decide (en.readyAt < b)

/-- Interval boundary b. -/
def State.intervalAt (s : State) (b : Nat) : State :=
  let s := (s.unplaceIdle.refuseBad b)
  let ready := fun (e : Nat) =>
    let en := s.entry e
    en.st == 2 && decide (en.readyAt < b) &&
      (List.range en.nimg).all fun i => match en.imgs.look i with | some q => q.ok && decide (q.readAt < b) | none => false
  let cands := s.entries.keys.filter ready
  let r := State.boundaryClass cands b [] 0 (s, [])
  let waiting := r.1.reservedWaiting b
  let held := waiting.flatMap fun e => (r.1.court (r.1.entry e).courtNo).tiles
  let s := waiting.foldl (fun s e => s.bump (s.entry e).courtNo) r.1
  let r := [1, 2, 3].foldl (fun st cls => State.boundaryClass cands b held cls st) (s, r.2)
  r.2.foldl State.older r.1

/-- INTERVAL_BOUNDARY (R419): the next multiple of 5,000 that TIME has reached, one after the other. -/
def execIntervalBoundary (s : State) : Out :=
  .next (if s.boundary < s.time / 5000 then ({ s with boundary := s.boundary + 1 }).intervalAt ((s.boundary + 1) * 5000) else s)

end Sys2Proof.Machine
end

