-- ==== Sys2Proof/Machine/Save.lean ====
section
/-! DEFINITION. The save area: its layout, when a stopped court may be saved, the save itself, and the release of the court (spec/14_q_stop.md R388 to
R401, R404; spec/17_counters.md R463). -/

namespace Sys2Proof.Machine

/-! ## Sparse CRC-32C: the area is mostly zero -/

/-- CRC-32C of n bytes from address lo on, of which those not listed are zero. -/
def Memory.crc (m : Memory) (lo n : Nat) : Nat :=
  let r := (m.filter fun c => decide (lo ≤ c.1) && decide (c.1 < lo + n)).foldl (fun (r : Nat × Nat) c => (crcBytes (crcZeros (c.1 - r.2) r.1) [c.2], c.1 + 1))
    (0xFFFFFFFF, lo)
  crcZeros (lo + n - r.2) r.1 ^^^ 0xFFFFFFFF

/-! ## Words and bytes of the area -/

/-- Words with their byte offsets; the zero ones need not be written. -/
abbrev AreaWords := List (Nat × Nat)

/-- Consecutive words from an offset on. -/
def wordsAt (o : Nat) (ws : List Nat) : AreaWords := (List.range ws.length).zip ws |>.map fun p => (o + 8 * p.1, p.2)

/-- A token record (R400): words 0 to 32 of R264, and the stream position. -/
def tokenRec (o : Nat) (k : Token) (pos : Nat) : AreaWords := wordsAt o ((List.range 33).map k.word ++ [pos])

/-- Token records of a list, one after another. -/
def tokenRecs (o : Nat) (l : List Token) : AreaWords := ((List.range l.length).zip l).flatMap fun p => tokenRec (o + 0x110 * p.1) p.2 0

/-- Control token records of a list. -/
def ctlRecs (o : Nat) (l : List Bool) : AreaWords := (List.range l.length).map fun e => (o + 0x110 * e, ctlWord l e)

/-- The bytes of memory from lo on, n of them, as (offset, byte). -/
def Memory.part (m : Memory) (lo n o : Nat) : List (Nat × Byte) :=
  (m.filter fun c => decide (lo ≤ c.1) && decide (c.1 < lo + n)).map fun c => (o + (c.1 - lo), c.2)

/-- Poison bits of 8-byte words: bit i of the area from o on for the word i from lo on. -/
def Marks.bits (p : Marks) (lo n o : Nat) : AreaWords :=
  ((p.filter fun k => decide (lo ≤ k) && decide (k < lo + n)).foldl (fun (m : AMap Nat) k =>
    let i := (k - lo) / 8
    m.upd (i / 64) 0 fun w => w + 2 ^ (i % 64)) []).map fun e => (o + 8 * e.1, e.2)

/-! ## Slots (R398) -/

/-- The STATE with which a slot's task is saved (R391): 0 free. -/
def Tile.saveState (x : Tile) (k : Nat) : Nat :=
  let sl := x.slot k
  if !sl.live then 0 else if nbit x.reg.trapset.toNat k then 3 else sl.stop.state.toNat

/-- Live s-mask and p-mask of a slot. -/
def Tile.saveMasks (x : Tile) (k : Nat) : Nat × Nat :=
  match x.saveState k with
  | 0 => (0, 0)
  | 1 => ((x.slot k).stop.smask.toNat, (x.slot k).stop.pmask.toNat)
  | _ => (2 ^ 64 - 1, 255)

/-- The launch of a slot: of its task, or of the newest command that was queued from it. -/
def Tile.saveLaunch (x : Tile) (k : Nat) : Nat :=
  match (x.slot k).task with
  | some ti => ti.entry
  | none => (((x.colq ++ x.cpyq).filter fun c => c.slot == k).getLast?.map (·.entry)).getD 0

/-- A slot record. -/
def Tile.slotWords (x : Tile) (k now o : Nat) : AreaWords :=
  let sl := x.slot k
  let rf := sl.rf
  let m := x.saveMasks k
  let live := sl.live
  let keep := fun (i : Nat) => i != 0 && nbit m.1 i
  wordsAt o ((List.range 64).map fun i => if keep i then (rf.get i).val.toNat else 0)
    ++ [(o + 0x200, (List.range 64).foldl (fun a i => a + bnat (keep i && (rf.get i).poi) * 2 ^ i) 0),
        (o + 0x208, if live then (rf.p.toNat &&& m.2) / 2 * 2 else 0), (o + 0x210, m.1), (o + 0x218, m.2)]
    ++ (if live then wordsAt (o + 0x220) ([0x000, 0x001, 0x002, 0x003, 0x004, 0x008, 0x009, 0x00A, 0x00B, 0x00C, 0x010, 0x011, 0x012, 0x014, 0x015, 0x016,
          0x018].map (x.item k now)) else [])
    ++ wordsAt (o + 0x2B0) ((List.range 7).map fun i => (sl.cs.item i).getD 0)
    ++ [(o + 0x2E8, sl.lcol.toNat + sl.lcpy.toNat * 2 ^ 8),
        (o + 0x2F0, x.saveState k + bnat sl.stop.ovr * 4 + place (x.saveLaunch k) 16 12),
        (o + 0x2F8, if live then sl.sr.spBase.toNat + sl.sr.spSize.toNat * 2 ^ 16 else 0),
        (o + 0x300, if live then sl.stop.stbase.toNat + sl.stop.stcnt.toNat * 2 ^ 32 else 0)]
    ++ wordsAt (o + 0x308) ((List.range 8).map fun i => (chanWord sl.chan i).getD 0)
    ++ [(o + 0x348, sl.chan.length + (chanWord sl.chan 9).getD 0 * 2 ^ 8)]

/-! ## The tile item block (R399) -/

/-- The started FIRE of a tile: its rally's. -/
def Tile.rallyCmd (x : Tile) : Option Cmd := x.colq.find? fun c => c.cmd == 2 && c.st == 1

/-- Queue entries as they are saved: all but the FIRE whose rally has started; every other command that has started has finished (R389). -/
def savedQueue (l : List Cmd) : List Cmd := l.filter fun c => !(c.cmd == 2 && c.st == 1)

/-- A queue, entry by entry: words 0 to 2 of each, and in word 3 the count of entries, as R232 has it. -/
def queueWords (o : Nat) (l : List Cmd) : AreaWords :=
  ((List.range l.length).zip l).flatMap fun p => wordsAt (o + 32 * p.1) ((List.range 3).map p.2.word ++ [l.length])

/-- The FIFOs. -/
def Tile.fifoWords (x : Tile) (o : Nat) : AreaWords :=
  (List.range 6).flatMap fun f => wordsAt (o + 128 * f) (takePad 0 15 ((x.fifoAt f).map (·.toNat)) ++ [(x.fifoAt f).length])

/-- The tile items HANDLER, HTGT, TRAPSET, CLKCTL and PMSEL. -/
def saveSels : List Nat := [0x030, 0x031, 0x032, 0x040, 0x060, 0x061, 0x062, 0x063, 0x064, 0x065, 0x066, 0x067]

/-- Offsets of unit 8 of the counters that are saved, in word order. -/
def savedCounters : List Nat :=
  ((List.range 384).flatMap fun k => (List.range 2).map fun w => 2 ^ 24 + k / 4 * 2 ^ 16 + k % 4 * 4 + w)
    ++ ((List.range 64).flatMap fun k => (List.range 2).map fun w => 2 * 2 ^ 24 + k / 4 * 2 ^ 16 + k % 4 * 4 + w)
    ++ (List.range 8).map fun k => 6 * 2 ^ 24 + k

/-- The list of pending messages. -/
def Tile.pendingWords (x : Tile) (o : Nat) : AreaWords :=
  ((List.range x.outbox.length).zip x.outbox).flatMap fun p => wordsAt (o + 32 * p.1) [2 ^ 63 + p.2.slot, p.2.dst.toNat, p.2.w.val.toNat, bnat p.2.w.poi]

/-- The tile item block. -/
def Tile.blockWords (x : Tile) (now o : Nat) : AreaWords :=
  queueWords o (savedQueue x.colq) ++ queueWords (o + 0x100) (savedQueue x.cpyq) ++ x.fifoWords (o + 0x300)
    ++ wordsAt (o + 0x600) (saveSels.map (x.item 0 now))
    ++ wordsAt (o + 0x700) ((List.range 64).map fun i => (x.col.item 13 i).getD 0)
    ++ wordsAt (o + 0x900) [x.col.arr.arp.toNat, x.col.arr.ald.toNat, x.pskewNow now % 2 ^ 21]
    ++ wordsAt (o + 0xA00) ((List.range 8).flatMap fun g => (List.range 128).map fun i => (x.col.item 12 (g * 2 ^ 16 + i)).getD 0)
    ++ wordsAt (o + 0x2A00) (savedCounters.map fun k => (x.item8 now k).getD 0)
    ++ x.pendingWords (o + 0x6A00)

/-! ## Memory cells (R400) -/

/-- Where a memory cell's record stands in a section. -/
def mcellAt (m : Nat) : Nat := 0x32F000 + m * 0x2000
/-- A memory cell's record. -/
def Collar.mcellWords (c : Collar) (m : Nat) : AreaWords :=
  let k := c.mcell m
  let q := c.active.mcell m
  let o := mcellAt m
  let it := fun (i w : Nat) => (k.word q i w).getD 0
  ((List.range 16).flatMap fun i => wordsAt (o + 32 * i) ((List.range 3).map (it i)))
    ++ ((List.range 16).flatMap fun j => wordsAt (o + 0x200 + 0x110 * j) ((List.range 34).map (it (16 + j))))
    ++ wordsAt (o + 0x1300) [it 0x22 0, it 0x22 1, it 0x23 0, it 0x23 1, it 0x24 0, it 0x24 1, it 0x25 0, it 0x25 1, it 0x25 2, it 0x25 3]
    ++ wordsAt (o + 0x1400) [k.spos.toNat, k.dpos.toNat, k.pgev.toNat]

/-! ## A tile section (R397) -/

/-- The configuration planes. -/
def planeWords (o : Nat) (p : Plane) : AreaWords :=
  p.flatMap fun f => wordsAt (o + 32 * f.1) ((List.range 4).map fun w => nfld f.2.toNat (64 * w + 63) (64 * w))

/-- The collar's part. -/
def Collar.sectionWords (c : Collar) : AreaWords :=
  planeWords 0x40000 c.active ++ planeWords 0x44000 c.deck
    ++ (c.vr.flatMap fun e => wordsAt (0xD0000 + e.1 * 256) ((List.range 32).map (laneWord e.2)))
    ++ (c.xd.flatMap fun e => tokenRecs (0x130000 + (e.1 / 6 * 24 + e.1 % 6 * 2) * 0x110) e.2)
    ++ (c.xc.flatMap fun e => ctlRecs (0x130000 + (e.1 / 6 * 24 + 12 + e.1 % 6 * 2) * 0x110) e.2)
    ++ (c.cin.flatMap fun e => tokenRecs (0x1FC000 + e.1 * 4 * 0x110) e.2)
    ++ (c.cctl.flatMap fun e => ctlRecs (0x1FC000 + (e.1 * 4 + 3) * 4 * 0x110) e.2)
    ++ (c.store.flatMap fun e => tokenRecs (0x262000 + e.1 * 32 * 0x110) e.2.held ++ [(0x32E000 + e.1 * 8, c.stateWord e.1)])
    ++ c.mc.keys.flatMap c.mcellWords

/-- The array's part, apart from its registers; PE words have four bytes. -/
def ArrayState.sectionWords (a : ArrayState) : AreaWords :=
  (a.sc.map fun e => (0x48000 + 8 * e.1, e.2.toNat))
    ++ ((a.accBad.foldl (fun (m : AMap Nat) k => m.upd k 0 (· + 2 ^ 36)) (a.acc.mapVals (·.toNat))).map fun e => (0x400000 + 8 * e.1, e.2))

/-- The PE words of the two planes as bytes. -/
def ArrayState.planeBytes (a : ArrayState) : List (Nat × Byte) :=
  let f := fun (o : Nat) (p : AMap (BitVec 18)) => p.flatMap fun e => ((List.range 4).zip (toBytes 4 e.2.toNat)).map fun b => (o + 4 * e.1 + b.1, b.2)
  f 0x50000 a.b0 ++ f 0x70000 a.b1

/-- The spill windows of the live slots of a tile: base and size. -/
def Tile.windows (x : Tile) : List (Nat × Nat) :=
  x.slots.filterMap fun p => if p.2.live then some (p.2.sr.spBase.toNat, p.2.sr.spSize.toNat) else none

/-- The bytes of a tile's section. -/
def State.sectionBytes (s : State) (t row col : Nat) : List (Nat × Byte) :=
  let x := s.tile t
  let inWin := fun (o : Nat) => x.windows.any fun w => decide (w.1 ≤ o) && decide (o < w.1 + w.2)
  let rally := match x.rallyCmd with | some c => if x.col.rally.isSome then wordsAt 8 ((List.range 3).map c.word) else [] | none => []
  let words : AreaWords := [(0, bnat (courtPairH x.reg.court) * 2 ^ 8 + bnat (x.col.rally.isSome) * 2 ^ 9 + row * 8 + col)] ++ rally
    ++ ((List.range 16).flatMap fun k => x.slotWords k s.time (0x1000 + k * 0x800)) ++ x.blockWords s.time 0x9000
    ++ ((s.marks.bits (spillKey t 0) (2 ^ 16) 0xFC00).map fun e =>
         (e.1, (List.range 64).foldl (fun a i => a + bnat (nbit e.2 i && inWin (((e.1 - 0xFC00) * 8 + i) * 8)) * 2 ^ i) 0))
    ++ s.marks.bits (scratchKey t 0) (2 ^ 22) 0x20000
    ++ x.col.sectionWords ++ x.col.arr.sectionWords
  (words.filter fun w => w.2 != 0).flatMap (fun w => (List.range 8).zip (toBytes 8 w.2) |>.map fun b => (w.1 + b.1, b.2))
    ++ ((s.mem.part (spillKey t 0) (2 ^ 16) 0x10000).filter fun b => inWin (b.1 - 0x10000))
    ++ s.mem.part (ctxKey t 0) (2 ^ 18) 0x90000 ++ s.mem.part (scratchKey t 0) (2 ^ 22) 0x800000 ++ x.col.arr.planeBytes

/-! ## The header (R396) -/

/-- The length of a court's save area. -/
def Court.areaLen (c : Court) : Nat := 0x10000 + (c.rowsM1 + 1) * (c.colsM1 + 1) * 0x1000000

/-- Where the section of a tile begins. -/
def Court.sectionAt (c : Court) (row col : Nat) : Nat := 0x10000 + (row * (c.colsM1 + 1) + col) * 0x1000000

/-- The running launches of a court. -/
def State.courtLaunches (s : State) (n : Nat) : List Nat := s.entries.keys.filter fun e => (s.entry e).st == 3 && (s.entry e).courtNo == n

/-- The header's words, apart from CHECK and the valid word. -/
def State.headerWords (s : State) (n : Nat) (p : StopProc) : AreaWords :=
  let c := s.court n
  let l := s.courtLaunches n
  wordsAt 0 [2 ^ 32 + 0x4B573953, c.curasid * 2 ^ 32 + c.rowsM1 * 8 + c.colsM1, place l.length 16 8 + place p.reason 0 8, p.began]
    ++ wordsAt 128 (l.map fun e => 2 ^ 63 + e)

/-! ## When the save may begin (R388, R389, R391) -/

/-- May an access of a stopped task stay: a SEND whose latest transmission was answered BUSY, which goes to the pending-message list. -/
def Tile.withdrawn (x : Tile) (t k : Nat) (a : TaskAcc) : Bool :=
  a.kind == .send && x.ni.outst.any fun o => o.who == .task t k a.k && o.busy.isSome

/-- Has a slot stopped. -/
def Tile.slotQuiet (x : Tile) (t k : Nat) : Bool :=
  match (x.slot k).task with
  | none => true
  | some ti => x.saveState k != 0 && ti.trap.isNone && ti.scan.isNone && (x.slot k).accs.all (x.withdrawn t k)

/-- Have the engines finished what they had begun. -/
def Tile.enginesQuiet (x : Tile) : Bool :=
  x.copies.isEmpty && x.cpyq.all (fun c => c.st != 1)
    && x.colq.all (fun c => c.st != 1 || c.cmd == 2)

/-- Has the collar whistled. -/
def Collar.saveReady (c : Collar) : Bool :=
  (match c.rally with | some r => r.saved | none => true) && c.mc.all fun p => p.2.dec.table.isNone

/-- Has phase 2 ended on a tile. -/
def State.tileQuiet (s : State) (t : Nat) : Bool :=
  let x := s.tile t
  (List.range 16).all (x.slotQuiet t) && x.enginesQuiet && x.col.saveReady && x.wdone.isEmpty && x.cdone.isEmpty && x.tccReq.isEmpty && x.cpyReq.isEmpty
    && x.netReq.isEmpty && noneHeld x.cellReq

/-- Has phase 2 ended on every tile of the court. -/
def State.courtQuiet (s : State) (n : Nat) : Bool :=
  let c := s.court n
  (match c.stop with | some p => p.phase == 2 | none => false)
    && (s.courtLaunches n).all (fun e => (s.entry e).started && !(s.entry e).aborting) && c.tiles.all s.tileQuiet

/-! ## Phases 3 and 4 -/

/-- A save engine reads the scratchpad, spill memory, context store and accumulator words with latent errors (R152). DESIGN CHOICE (notes/assumptions/117.md): a
word of the context store, which has no poison bits, with an uncorrectable error is saved as it stands. -/
def State.scrubTile (s : State) (t : Nat) : State :=
  let mine := fun (k : Nat) => (decide (scratchKey t 0 ≤ k) && decide (k < scratchKey t 0 + 2 ^ 22))
    || (decide (spillKey t 0 ≤ k) && decide (k < spillKey t 0 + 2 ^ 16))
  let s := (((s.soft.filter mine) ++ s.hard.filter mine).foldl (fun s k => s.scrub k 1) s).scrubSoft (ctxKey t 0) (2 ^ 18)
  { s.modArr t fun a => { a with accSoft := [] } with secded := s.secded + (s.arr t).accSoft.length }

/-- The area's bytes, and poison marks, are cleared. -/
def State.clearArea (s : State) (a n : Nat) : State :=
  let out := fun (k : Nat) => !(decide (a ≤ k) && decide (k < a + n))
  { s with mem := s.mem.filter fun c => out c.1, marks := s.marks.filter out }

/-- Write bytes of the area. -/
def State.writeArea (s : State) (a : Nat) (bs : List (Nat × Byte)) : State := { s with mem := bs.foldl (fun m b => m.set (a + b.1) b.2) s.mem }

/-- Write words of the area. -/
def State.writeAreaWords (s : State) (a : Nat) (ws : AreaWords) : State := { s with mem := ws.foldl (fun m w => m.writeN (a + w.1) 8 w.2) s.mem }

/-- Where the collar of court-relative tile i of the area at a is kept. -/
def parkKey (a i : Nat) : Nat := a * 64 + i

/-- The collars of a court are kept beside its save area: R397 to R400 list no place for the tokens that wait at the array's feeds and the memory cells'
inputs, nor for the runs of the memory cells, and R396 has every byte they do not list zero (notes/assumptions/41.md). -/
def State.keepParked (s : State) (c : Court) : State :=
  let others := s.parked.filter fun p => p.1 / 64 != c.saveAt
  { s with parked := c.tiles.foldl (fun m t => m.put (parkKey c.saveAt ((tileRow t - c.orgRow) * 8 + (tileCol t - c.orgCol))) (s.tile t).col) others }

/-- The save of a court: the sections and the header, then CHECK, then the valid word (R401). -/
def State.saveCourt (s : State) (n : Nat) (p : StopProc) : State :=
  let c := s.court n
  let a := hbmBase + c.saveAt
  let s := c.tiles.foldl (fun s t => (s.modTile t fun x => { x with slots := x.slots.mapVals Slot.drain }).scrubTile t) s
  let secs := c.tiles.flatMap fun t =>
    let row := tileRow t - c.orgRow
    let col := tileCol t - c.orgCol
    (s.sectionBytes t row col).map fun b => (c.sectionAt row col + b.1, b.2)
  let s := ((s.clearArea a c.areaLen).writeArea a secs).writeAreaWords a (s.headerWords n p)
  let s := s.writeAreaWords a [(32, s.mem.crc a c.areaLen)]
  let s := s.keepParked c
  let seq := (c.sseq + 1) % 2 ^ 32
  (s.writeAreaWords a [(56, 2 ^ 63 + seq)]).modCourt n fun c => { c with sseq := seq, stop := some { p with phase := 3 } }

/-- What keeps an abort waiting on a tile whose save is abandoned goes: the rally that has whistled, and the messages that were withdrawn. -/
def Tile.abandoned (x : Tile) (now : Nat) : Tile :=
  { x with
    slots := x.slots.mapVals fun sl => { sl with accs := [] }, outbox := [], colq := x.colq.filter fun c => !(c.cmd == 2 && c.st == 1),
    ni := { x.ni with outst := x.ni.outst.filter fun o => !(o.h.kind == kMSG && o.busy.isSome) }, col := x.col.noRally (x.cyc 1 now) }

/-- SCAN_OUT (R388 phase 3, R401): the save, once phase 2 has ended on every tile. A save area that passes the end of HBM fails: every launch of the court
is aborted. -/
def execScanOut (n : Nat) (s : State) : Out :=
  if n < 64 then
    .next (match (s.court n).stop with
      | some p =>
        if !s.courtQuiet n then s
        else if (s.court n).saveAt + (s.court n).areaLen ≤ 2 ^ 39 then s.saveCourt n p
        else
          let s := (s.court n).tiles.foldl (fun s t => s.modTile t fun x => x.abandoned s.time) (s.modCourt n fun c => { c with stop := some { p with phase := 4 } })
          (s.courtLaunches n).foldl (fun s e => s.beginAbort e cRemoteFail.toNat) s
      | none => s)
  else .fault .noSuchUnit

/-- A slot of a freed tile: its task is gone, its items stay as the task left them (R148). -/
def Slot.freed (sl : Slot) : Slot := { rf := sl.rf, sr := sl.sr, cs := sl.cs, lcol := sl.lcol, lcpy := sl.lcpy, issues := sl.issues }

/-- A tile is freed: what the area holds leaves it. -/
def Tile.freed (x : Tile) (now : Nat) : Tile :=
  { x with
    slots := x.slots.mapVals Slot.freed,
    colq := [], cpyq := [], fifo := [], outbox := [], watch := [], notice := [], stopAt := none, stopCyc := 0,
    ni := { x.ni with outst := x.ni.outst.filter fun o => !(o.h.kind == kMSG && o.busy.isSome) },
    reg := { x.reg with handler := 0, htgt := 0, trapset := 0 },
    col :=
      { x.col.noRally (x.cyc 1 now) with
        ld := false, xd := [], xc := [], xdAcc := [], xcAcc := [], cin := [], cctl := [], minp := [], mord := [], ain := [],
        store := [], mc := x.col.mc.mapVals fun k => { k with ret := [], out := none, spill := [], raw := [] }, reqout := [] } }

/-- Phase 4 (R388, R417, R428): the tiles are freed, the court's launches become SAVED and are announced, the court is recorded as saved. An abandoned save
ends in a court with nothing running, that goes back to STATE 0. -/
def State.releaseCourt (s : State) (n : Nat) (p : StopProc) : State :=
  let l := s.courtLaunches n
  let s := (s.court n).tiles.foldl (fun s t => s.modTile t fun x => x.freed s.time) s
  if p.phase = 3 then
    let s := l.foldl (fun s e => (s.modEntry e fun en => { en with st := 4 }).entryNotice 6 0 e) s
    s.unplaceCourt n 3
  else s.unplaceCourt n 0

/-- PREEMPT_RELEASE (R388 phase 4): the first court whose save is complete, or was abandoned and whose aborts are over. -/
def execPreemptRelease (s : State) : Out :=
  let due := fun (n : Nat) => match (s.court n).stop with | some p => p.phase == 3 || (p.phase == 4 && (s.courtLaunches n).isEmpty) | none => false
  .next (match s.courtNos.find? due with
    | some n => (match (s.court n).stop with | some p => s.releaseCourt n p | none => s)
    | none => s)

end Sys2Proof.Machine
end

