-- ==== Sys2Proof/Machine/Resume.lean ====
section
/-! DEFINITION. The resume of a saved court: the checks of its save area, and the restoring of its tiles (spec/14_q_stop.md R402, R403; spec/12_q_cells.md
R354; spec/17_counters.md R447). -/

namespace Sys2Proof.Machine

/-! ## Reading the area -/

/-- Bytes in rising order as the words that hold them, by word number from lo. -/
def toWords (lo : Nat) : List Host.Cell → AMap Nat
  | [] => []
  | (a, b) :: rest =>
    let w := (a - lo) / 8
    let v := b.toNat * 2 ^ (8 * ((a - lo) % 8))
    match toWords lo rest with
    | (w1, v1) :: t => if w1 = w then (w, v + v1) :: t else (w, v) :: (w1, v1) :: t
    | [] => [(w, v)]

/-- The words of a stretch of memory. -/
def Memory.words (m : Memory) (lo n : Nat) : AMap Nat := toWords lo (m.filter fun c => decide (lo ≤ c.1) && decide (c.1 < lo + n))

/-- The word at a byte offset. -/
def wAt (w : AMap Nat) (o : Nat) : Nat := w.at (o / 8) 0

/-- A token record. -/
def tokAt (w : AMap Nat) (o : Nat) : Option Token :=
  if nbit (wAt w (o + 256)) 63 then
    some { d := Lanes.of fun i => (BitVec.ofNat 36 (wAt w (o + 8 * i)), nbit (wAt w (o + 8 * i)) 36), mask := BitVec.ofNat 32 (wAt w (o + 256)),
           tag := nfld (wAt w (o + 256)) 37 32 }
  else none

/-- Token records, one after another. -/
def toksAt (w : AMap Nat) (o n : Nat) : List Token := (List.range n).filterMap fun e => tokAt w (o + 0x110 * e)

/-- Control token records. -/
def ctlsAt (w : AMap Nat) (o n step : Nat) : List Bool :=
  (List.range n).filterMap fun e => let v := wAt w (o + step * e); if nbit v 63 then some (nbit v 0) else none

/-- A file of lists, without the empty ones. -/
def fileOf {α : Type} (n : Nat) (f : Nat → List α) : AMap (List α) :=
  (List.range n).filterMap fun k => match f k with | [] => none | l => some (k, l)

/-- The words of a stretch of a section that are not zero: number from its start, and value. -/
def stretch (w : AMap Nat) (o n : Nat) : AMap Nat := w.filterMap fun e => if o / 8 ≤ e.1 ∧ e.1 < (o + n) / 8 then some (e.1 - o / 8, e.2) else none

/-! ## A slot record (R398) -/

/-- Registers of a slot record. -/
def regsAt (w : AMap Nat) (o : Nat) : RegFile :=
  let r := fun (i : Nat) => wAt w (o + 0x220 + 8 * i)
  let a := fun (i : Nat) => BitVec.ofNat 32 (r i)
  { s := (List.range 64).filterMap fun i =>
      let v := wAt w (o + 8 * i)
      let p := nbit (wAt w (o + 0x200)) i
      if i = 0 ∨ (v = 0 ∧ !p) then none else some (i, { val := BitVec.ofNat 64 v, poi := p }),
    p := BitVec.ofNat 8 (wAt w (o + 0x208) / 2 * 2 + 1), lk0 := a 5, lk1 := a 6, lk2 := a 7, lk3 := a 8, lkd := BitVec.ofNat 3 (r 9),
    lc0 := { count := BitVec.ofNat 64 (r 10), start := a 11, stop := a 12 }, lc1 := { count := BitVec.ofNat 64 (r 13), start := a 14, stop := a 15 }, pc := a 16 }

/-- State registers of a slot record. -/
def taskRegsAt (w : AMap Nat) (o : Nat) : TaskRegs :=
  let r := fun (i : Nat) => wAt w (o + 0x220 + 8 * i)
  { fen := BitVec.ofNat 5 (r 4 / 32), flg := BitVec.ofNat 5 (r 4), wrec := BitVec.ofNat 5 (r 0 / 256), priv := nbit (r 0) 7,
    prio := BitVec.ofNat 2 (nfld (r 0) 5 4), slot := BitVec.ofNat 4 (r 0), tcause := BitVec.ofNat 8 (r 1), tval := BitVec.ofNat 64 (r 2),
    tepc := BitVec.ofNat 32 (r 3), spBase := BitVec.ofNat 16 (wAt w (o + 0x2F8)), spSize := BitVec.ofNat 16 (wAt w (o + 0x2F8) / 2 ^ 16) }

/-- STATE of a slot record. -/
def slotStateAt (w : AMap Nat) (o : Nat) : Nat := wAt w (o + 0x2F0) % 4
/-- The launch index of a slot record. -/
def slotLaunchAt (w : AMap Nat) (o : Nat) : Nat := nfld (wAt w (o + 0x2F0)) 27 16
/-- Where the record of slot k stands in a section. -/
def slotAt (k : Nat) : Nat := 0x1000 + k * 0x800

/-- A slot restored in court n, from what it was; img is the number of its task's image. A slot saved without a task keeps its registers (R148). -/
def restoredSlot (w : AMap Nat) (k n img : Nat) (was : Slot) : Slot :=
  let o := slotAt k
  let st := slotStateAt w o
  let cs := (List.range 7).foldl (fun (q : CopySet) i => q.setItem i (wAt w (o + 0x2B0 + 8 * i))) {}
  let cnt := wAt w (o + 0x348) % 16
  let chan := (List.range cnt).map fun i => ({ val := BitVec.ofNat 64 (wAt w (o + 0x308 + 8 * i)), poi := nbit (wAt w (o + 0x348)) (8 + i) } : PWord)
  let b : Slot := {
    cs := cs, lcol := BitVec.ofNat 8 (wAt w (o + 0x2E8)), lcpy := BitVec.ofNat 8 (wAt w (o + 0x2E8) / 256), chan := chan, rf := was.rf, sr := was.sr,
    issues := was.issues }
  if st = 0 then b
  else
    { b with rf := regsAt w o, sr := taskRegsAt w o, task := some { entry := slotLaunchAt w o, img := img, court := n, stopped := st == 3 },
             stop := { stbase := BitVec.ofNat 18 (wAt w (o + 0x300)), stcnt := BitVec.ofNat 13 (wAt w (o + 0x300) / 2 ^ 32), issued := was.issues } }

/-! ## Sections -/

/-- A tile's section without its large memories: the words of its records. -/
def State.sectionMap (s : State) (a : Nat) : AMap Nat :=
  s.mem.filter (fun c => decide (a ≤ c.1) && decide (c.1 < a + 0x800000) && !(decide (a + 0x10000 ≤ c.1) && decide (c.1 < a + 0x20000))
    && !(decide (a + 0x90000 ≤ c.1) && decide (c.1 < a + 0xD0000))) |> toWords a

/-- The launches that a save area lists. -/
def listedLaunches (h : AMap Nat) : List Nat :=
  (List.range (nfld (wAt h 16) 23 16)).filterMap fun i => let v := wAt h (128 + 8 * i); if nbit v 63 then some (v % 2 ^ 12) else none

/-- The pair map of the areas' tiles as a court's would be: bit 4r + c/2. -/
def pairsAgree (c : Court) (pairh : Nat → Nat → Bool) : Bool :=
  (List.range (c.rowsM1 + 1)).all fun r => (List.range (c.colsM1 + 1)).all fun k => pairh r k == nbit c.pairmap (4 * r + k / 2)

/-! ## Memories -/

/-- Bytes at a stretch of memory from another: the stretch takes the bytes, and loses its poison and its errors. -/
def State.copyIn (s : State) (src dst n : Nat) : State :=
  let out := fun (k : Nat) => !(decide (dst ≤ k) && decide (k < dst + n))
  let bs := s.mem.part src n dst
  { s with mem := bs.foldl (fun m b => m.set b.1 b.2) (s.mem.filter fun c => out c.1), marks := s.marks.filter out, soft := s.soft.filter out,
           hard := s.hard.filter out }

/-- Poison marks from poison bits: bit i of the word map's stretch at o for the 8-byte word i from dst on, where ok. -/
def State.markIn (s : State) (w : AMap Nat) (o len dst : Nat) (ok : Nat → Bool) : State :=
  (stretch w o len).foldl (fun s e => (List.range 64).foldl (fun s i =>
    let at_ := (e.1 * 64 + i) * 8
    if nbit e.2 i && ok at_ then { s with marks := s.marks.setTo (dst + at_) true } else s) s) s

/-- The memories of a tile. -/
def State.restoreMems (s : State) (t base : Nat) (w : AMap Nat) : State :=
  let s := (s.copyIn (base + 0x800000) (scratchKey t 0) (2 ^ 22)).copyIn (base + 0x90000) (ctxKey t 0) (2 ^ 18)
  let s := s.markIn w 0x20000 0x10000 (scratchKey t 0) fun _ => true
  (List.range 16).foldl (fun s k =>
    let o := slotAt k
    let v := wAt w (o + 0x2F8)
    if slotStateAt w o = 0 then s
    else
      let s := s.copyIn (base + 0x10000 + v % 2 ^ 16) (spillKey t (v % 2 ^ 16)) (v / 2 ^ 16)
      s.markIn w 0xFC00 0x400 (spillKey t 0) fun a => decide (v % 2 ^ 16 ≤ a) && decide (a < v % 2 ^ 16 + v / 2 ^ 16)) s

/-! ## Collar and array -/

/-- A plane. -/
def planeAt (w : AMap Nat) (o : Nat) : Plane :=
  (stretch w o (420 * 32)).foldl (fun (p : Plane) e => p.upd (e.1 / 4) 0#256 fun f => setQuad f (e.1 % 4) e.2) []

/-- The array: the image that ran when ARP.V was last set (R319) is that of the array kept beside the area; with none kept, a pass in progress is that of the
plane p restored as the active one. -/
def arrayAt (w : AMap Nat) (p : Plane) (kept : ArrayState) : ArrayState :=
  let pe := fun (o : Nat) => (stretch w o 0x20000).flatMap fun e =>
    [(e.1 * 2, BitVec.ofNat 18 e.2), (e.1 * 2 + 1, BitVec.ofNat 18 (e.2 / 2 ^ 32))].filter fun (x : Nat × BitVec 18) => x.2 != 0
  let acc := stretch w 0x400000 0x100000
  let a : ArrayState := {
    b0 := pe 0x50000, b1 := pe 0x70000, sc := (stretch w 0x48000 0x8000).mapVals (BitVec.ofNat 36),
    acc := acc.mapVals (BitVec.ofNat 36), accBad := (acc.filter fun e => nbit e.2 36).map (·.1), pskew := wAt w 0x9910 % 2 ^ 21 }
  let a := (a.setArp (BitVec.ofNat 64 (wAt w 0x9900))).setAld (BitVec.ofNat 64 (wAt w 0x9908))
  let a := { a with planeOwed := kept.planeOwed }
  if kept.hasImg then { a with hasImg := true, imgId := kept.imgId, img1 := kept.img1, img2 := kept.img2 }
  else { a with hasImg := a.v, imgId := p.imageId, img1 := p.at (frArr 1) 0#256, img2 := p.at (frArr 2) 0#256 }

/-- The node that has the 16-bit frame address as its frame 0. -/
def nodeOfFrame (f : Nat) : List Nat :=
  if f = 0xC010 then [nodeArr]
  else ((List.range 96).filter fun c => frameAddr (frC c 0) == f) ++ ((List.range 32).filter fun m => frameAddr (frM m 0) == f).map nodeM

/-- The node that feeds output o of X-box x (R447). -/
def Plane.feeder (p : Plane) (net x o : Nat) : Nat :=
  match p.route net x o with
  | some i => (match inSource net x i with | .cell c _ => c | .mem m => nodeM m | .arr _ _ => nodeArr | _ => nodeX x)
  | none => nodeX x

/-- GIVEN of every node after a resume: the tokens in the buffers that it feeds (R447). -/
def Collar.givenNow (c : Collar) : AMap Nat :=
  let add := fun (m : AMap Nat) (n k : Nat) => if k = 0 then m else m.upd n 0 (· + k)
  let m := c.xd.foldl (fun m e => add m (c.active.feeder 0 (e.1 / 6) (e.1 % 6)) e.2.length) []
  let m := c.xc.foldl (fun m e => add m (c.active.feeder 1 (e.1 / 6) (e.1 % 6)) e.2.length) m
  let m := c.cin.foldl (fun m e =>
    let x := cellXbox (e.1 / 4)
    add m (if e.1 % 4 = 2 then (xboxCell (x - 32)).getD (nodeX x) else nodeX x) e.2.length) m
  let m := c.cctl.foldl (fun m e => add m (nodeX (cellXbox e.1)) e.2.length) m
  let m := c.minp.foldl (fun m e => add m (nodeX (96 + e.1)) e.2.length) m
  let m := c.mord.foldl (fun m e => add m (nodeX (96 + e.1)) e.2.length) m
  c.ain.foldl (fun m e => add m (nodeX (edgeXbox (e.1 / 8) (e.1 % 8))) e.2.length) m

/-- A collar restored from a section: what R397 to R400 list comes from the area, what they do not list from the collar kept beside it
(notes/assumptions/41.md). The memory cells are still those of the kept collar. -/
def collarAt (w : AMap Nat) (kept : Collar) (cyc : Nat) (fire : Option Cmd) : Collar :=
  let act := planeAt w 0x40000
  let pair := fun (i : Nat) => (wAt w (0x9000 + 0x2A00 + 16 * i), wAt w (0x9000 + 0x2A00 + 16 * i + 8))
  let c : Collar := { kept with
    active := act, deck := planeAt w 0x44000,
    vr := (stretch w 0xD0000 0x60000).foldl (fun (m : AMap Lanes) e => m.upd (e.1 / 32) {} fun l => l.setWord (e.1 % 32) e.2) [],
    xd := fileOf 768 fun k => toksAt w (0x130000 + (k / 6 * 24 + k % 6 * 2) * 0x110) 2,
    xc := fileOf 768 fun k => ctlsAt w (0x130000 + (k / 6 * 24 + 12 + k % 6 * 2) * 0x110) 2 0x110,
    cin := fileOf 384 fun k => if k % 4 = 3 then [] else toksAt w (0x1FC000 + k * 4 * 0x110) 4,
    cctl := fileOf 96 fun k => ctlsAt w (0x1FC000 + (k * 4 + 3) * 4 * 0x110) 4 0x110,
    cnt := act.cntStart.map fun e => (e.1, pair e.1), acnt := act.acntStart.map fun e => (e.1, pair (384 + e.1)),
    arr := arrayAt w act kept.arr, racks := [], store := [], bound := [], taken := [], reqout := [], lastFire := [] }
  let c := (List.range 64).foldl (fun (c : Collar) i => c.setItem true 13 i (wAt w (0x9700 + 8 * i))) c
  let c := (List.range 1024).foldl (fun (c : Collar) i =>
    let v := wAt w (0x9A00 + 8 * i)
    if v = 0 then c else c.setItem true 12 (i / 128 * 2 ^ 16 + i % 128) v) c
  let c := (List.range 96).foldl (fun (c : Collar) k =>
    let held := toksAt w (0x262000 + k * 32 * 0x110) 32
    let v := wAt w (0x32E000 + 8 * k)
    let st := kept.store.at k {}
    if held.isEmpty && v == 0 && st == {} then c else Collar.setStateWord { c with store := c.store.put k { st with held := held } } k v) c
  { c with
    given := c.givenNow,
    rally := fire.map fun f =>
      let was := (kept.rally.getD { t0 := 0 })
      let stop := bitOf c.cstat 17
      { t0 := cyc + 1, drain := stop && !was.cstopHalt, halt := stop && was.cstopHalt, cstopHalt := stop && was.cstopHalt,
        recAt := if bitOf f.a 63 then some (fld f.a 21 0) else none, image := act.imageId, act := cyc + 1,
        faulted := if c.cstat.toNat % 256 = 0 then [] else (nodeOfFrame (fld c.cstat 63 48)).foldl setAdd was.faulted, slot := f.slot, entry := f.entry } }

/-! ## Checks (R402) -/

/-- Does a rack record name no tag outside its rack, and the live ones only once in the rack's lists. -/
def Rack.within (r : Rack) (tags : List Nat) : Bool :=
  (r.free ++ r.alloc).all tags.contains && r.count.keys.all tags.contains && r.on.all tags.contains

/-- Is a pending bound token one that BIND would leave: of a valid binding of its plane, with a count that its counter can take (R276, R286). -/
def Plane.boundOk (p : Plane) (k n : Nat) : Bool :=
  let b := p.bind k
  b.1 && n != 0 && (b.2.1 == 0 || decide (n < 2 ^ 20))

/-- Do the collar's items of a section hold values that they permit: read back from the collar restored, each is as it stands in the section, so that no count,
position or reserved bit has been changed; tags are of their rack, and bound tokens have their binding. -/
def collarOk (w : AMap Nat) : Bool :=
  let c := collarAt w {} 0 none
  let cells := (List.range 96).all fun k =>
    let v := wAt w (0x32E000 + 8 * k)
    v == 0 || (c.stateWord k == v && (!c.cellHas k 0x55 || nfld v 20 16 < 16)
      && (c.active.slots k).all fun n => let q := c.active.slot k n
         !q.ordered || (c.cellStore k).taken.all (c.active.rackTags q.region).contains)
  let items := (List.range 64).all fun i => let v := wAt w (0x9700 + 8 * i); v == 0 || (c.item 13 i).getD 0 == v
  let racks := (List.range 1024).all fun i => let v := wAt w (0x9A00 + 8 * i); v == 0 || (c.item 12 (i / 128 * 2 ^ 16 + i % 128)).getD 0 == v
  cells && items && racks && (c.racks.all fun r => c.active.hasRack r.1 && r.2.within (c.active.rackTags r.1))
    && (c.bound.all fun b => if b.1 < 16 then c.active.boundOk b.1 b.2 else c.deck.boundOk (b.1 - 16) b.2)
    && nfld c.cstat.toNat 47 18 == 0 && nfld c.cstat.toNat 15 13 == 0

/-- Do the records of a section hold values that their items permit: values within an item's width, registers with zero low bits, limits that the rules
state, and codes that name something. -/
def sectionOk (w : AMap Nat) (lim : List Nat) : Bool :=
  let slotOk := fun (k : Nat) =>
    let o := slotAt k
    let r := fun (i : Nat) => wAt w (o + 0x220 + 8 * i)
    let live := slotStateAt w o != 0
    let st := slotStateAt w o
    decide (wAt w (o + 0x348) % 16 ≤ 8) && decide (wAt w (o + 0x348) < 2 ^ 16) && nfld (wAt w (o + 0x348)) 7 4 == 0
      && decide (wAt w (o + 0x2F0) < 2 ^ 28) && nfld (wAt w (o + 0x2F0)) 15 3 == 0 && decide (wAt w (o + 0x2E8) < 2 ^ 16) && decide (wAt w (o + 0x218) < 2 ^ 8)
      && (decide (st < 2) || (wAt w (o + 0x210) == 2 ^ 64 - 1 && wAt w (o + 0x218) == 255)) && (st != 3 || nbit (wAt w 0x9610) k)
      && (List.range 7).all (fun i => (((({} : CopySet).setItem i (wAt w (o + 0x2B0 + 8 * i))).item i).getD 0) == wAt w (o + 0x2B0 + 8 * i)) && (!live ||
      ([3, 5, 6, 7, 8, 11, 12, 14, 15, 16].all (fun i => r i % 4 == 0 && decide (r i < 2 ^ 32)) && decide (r 9 ≤ 4) && decide (r 0 < 2 ^ 13) && decide (r 1 < 2 ^ 8) && decide (r 4 < 2 ^ 10)
        && decide (nfld (wAt w (o + 0x300)) 47 32 ≤ 4096)
        && lim.contains (slotLaunchAt w o) && r 0 % 16 == k && decide (wAt w (o + 0x2F8) % 2 ^ 16 + wAt w (o + 0x2F8) / 2 ^ 16 ≤ 2 ^ 16)))
  let cmdOk := fun (o n codes : Nat) => (List.range n).all fun e =>
    let v := wAt w (o + 32 * e)
    !nbit v 16 || ((nfld v 15 14 == 0 || nfld v 15 14 == 2) && decide (nfld v 5 0 < codes))
  let sel := fun (i : Nat) => wAt w (0x9600 + 8 * i)
  let clk := sel 3
  let ald := wAt w 0x9908
  let counts := fun (lo n wd : Nat) => (List.range n).all fun i => decide (wAt w (0xBA00 + 8 * (lo + i)) < 2 ^ wd)
  (List.range 16).all slotOk && cmdOk 0x9000 8 6 && cmdOk 0x9100 16 4
    && (!nbit (wAt w 0) 9 || (nbit (wAt w 8) 16 && nfld (wAt w 8) 5 0 == 2))
    && decide (nfld ald 17 14 ≤ 8) && decide (nfld ald 8 0 ≤ 128) && decide (ald < 2 ^ 20) && nfld ald 10 9 == 0 && decide (wAt w 0x9910 < 2 ^ 21)
    && counts 0 768 32 && counts 768 128 20
    && decide (sel 0 < 2 ^ 5) && decide (sel 1 < 2 ^ 5) && decide (sel 2 < 2 ^ 16) && (List.range 8).all (fun i => decide (sel (4 + i) < 2 ^ 18))
    && (List.range 6).all (fun f => decide (wAt w (0x9300 + 128 * f + 120) ≤ 15) && (List.range 15).all fun e => decide (wAt w (0x9300 + 128 * f + 8 * e) < 2 ^ 16))
    && collarOk w
    && decide (1 ≤ nfld clk 11 8) && decide (1 ≤ nfld clk 19 16)

/-- May the area at address a be resumed in court n. -/
def State.resumeOk (s : State) (a n : Nat) : Bool :=
  let c := s.court n
  let base := hbmBase + a
  let h := s.mem.words base 0x10000
  let ls := listedLaunches h
  nbit (wAt h 56) 63 && decide (nfld (wAt h 16) 7 0 ≤ 3) && wAt h 0 % 2 ^ 48 == 2 ^ 32 + 0x4B573953 && nfld (wAt h 8) 5 3 == c.rowsM1 && nfld (wAt h 8) 2 0 == c.colsM1
    && decide (a + c.areaLen ≤ 2 ^ 39)
    && Memory.crc (s.mem.filter fun e => !(decide (base + 32 ≤ e.1) && decide (e.1 < base + 40)) && !(decide (base + 56 ≤ e.1) && decide (e.1 < base + 64)))
         base c.areaLen == wAt h 32 % 2 ^ 32
    && pairsAgree c (fun r k => nbit (s.mem.readN (base + c.sectionAt r k) 8) 8)
    && c.v && !c.placed && c.stop.isNone && s.placeable n && !(c.tiles.any s.tileBusy)
    && ls.all (fun e => (s.entry e).st == 4 && !(s.entry e).aborting)
    && c.tiles.all fun t => sectionOk (s.sectionMap (base + c.sectionAt (tileRow t - c.orgRow) (tileCol t - c.orgCol))) ls

/-! ## Memory cells (R354) -/

/-- The items of a memory cell that its record holds, word by word with the offset of each: of a token and of a spill entry the word with V comes last. -/
def mcellRecWords : List (Nat × Nat × Nat) :=
  ((List.range 16).flatMap fun i => [1, 2, 0].map fun w => (i, w, 32 * i + 8 * w))
    ++ ((List.range 16).flatMap fun j => ((List.range 32) ++ [33, 32]).map fun w => (16 + j, w, 0x200 + 0x110 * j + 8 * w))
    ++ (List.range 2).flatMap (fun b => (List.range 2).map fun w => (0x22 + b, w, 0x1300 + 16 * b + 8 * w))
    ++ (List.range 2).map (fun w => (0x24, w, 0x1320 + 8 * w)) ++ (List.range 4).map fun w => (0x25, w, 0x1330 + 8 * w)

/-- A memory cell of a resumed tile: k as it was kept beside the area under configuration q0, with every word of its record that differs written as a scan writes
it; what had been diverted is due to be reissued once (R229, R354). -/
def State.cellAt (s : State) (t m cyc : Nat) (w : AMap Nat) (q0 q : MCfg) (k : MCell) : MCell :=
  let r := fun (x : Nat) => wAt w (mcellAt m + x)
  let asid := (s.tile t).reg.asid.toNat
  let diff := mcellRecWords.filter fun x => (k.word q0 x.1 x.2.1).getD 0 != r x.2.2
  let k := diff.foldl (fun (k : MCell) x => k.setWord q x.1 x.2.1 (r x.2.2)) k
  let due := fun (e : RetEnt) => { e with accs := e.accs.map fun y => if y.diverted then { y with st := 4 } else y }
  { k with
    spos := BitVec.ofNat 32 (r 0x1400), dpos := BitVec.ofNat 32 (r 0x1408), pgev := BitVec.ofNat 32 (r 0x1410), mcred := 64, mcredAt := cyc, tags := 0,
    latch := if q.mop = 0 then 0 else s.range asid q.range, mlatch := if q.mop = 0 then 0 else s.range asid q.mrange,
    ret := k.ret.map due, out := k.out.map due }

/-- The memory cells of a resumed tile. -/
def State.restoreCells (s : State) (t : Nat) (w : AMap Nat) (kept : Collar) : State :=
  let cyc := s.colCyc t
  let c := (s.tile t).col
  let ms := (List.range 32).filter fun m => let q := c.active.mcell m; q.mop != 0 || q.av || !(stretch w (mcellAt m) 0x2000).isEmpty
  s.modCol t fun c => { c with mc := ms.map fun m => (m, s.cellAt t m cyc w (kept.active.mcell m) (c.active.mcell m) (c.mc.at m {})) }

/-! ## A tile -/

/-- Queue entries of a section. -/
def State.cmdsAt (s : State) (w : AMap Nat) (o n : Nat) : List Cmd :=
  (List.range n).filterMap fun e =>
    let v := wAt w (o + 32 * e)
    if nbit v 16 then
      let la := slotLaunchAt w (slotAt (nfld v 13 10))
      let c : Cmd := { uid := s.nextId + e, cmd := 0, flags := 0, slot := 0, a := 0, b := 0, entry := la, priv := bitOf ((s.entry la).word 0) 18 }
      some (((c.setWord 0 v).setWord 1 (wAt w (o + 32 * e + 8))).setWord 2 (wAt w (o + 32 * e + 16)))
    else none

/-- The image of a launch's task in a slot of a tile. -/
def Entry.imgOf (en : Entry) (tile k : Nat) : Nat := ((en.placed.find? fun p => p.tile == tile && p.slot == k).map (·.img)).getD 0

/-- One tile takes its section: old is the tile that the section was saved from, kept the collar that was kept beside it. -/
def State.restoreTile (s : State) (n t old base : Nat) (w : AMap Nat) (kept : Collar) : State :=
  let s := s.restoreMems t base w
  let fire := if nbit (wAt w 0) 9 then (s.cmdsAt w 8 1).map fun c => { c with st := 1 } else []
  let s := { s with nextId := s.nextId + 1 }
  let colq := s.cmdsAt w 0x9000 8
  let s := { s with nextId := s.nextId + 8 }
  let cpyq := s.cmdsAt w 0x9100 16
  let s := { s with nextId := s.nextId + 16 }
  let sel := fun (i : Nat) => wAt w (0x9600 + 8 * i)
  let cyc := s.colCyc t
  let s := s.modTile t fun x =>
    let slots := (List.range 16).filterMap fun k =>
      let sl := x.slot k
      some (k, restoredSlot w k n ((s.entry (slotLaunchAt w (slotAt k))).imgOf old k) sl)
    { x with
      slots := slots, colq := fire ++ colq, cpyq := cpyq, copies := [],
      fifo := fileOf 6 fun f => (List.range (wAt w (0x9300 + 128 * f + 120))).map fun e => BitVec.ofNat 16 (wAt w (0x9300 + 128 * f + 8 * e)),
      outbox := [], stopAt := none, stopCyc := 0,
      reg := { x.reg with
        handler := BitVec.ofNat 5 (sel 0), htgt := BitVec.ofNat 5 (sel 1), trapset := BitVec.ofNat 16 (sel 2),
        pmsel := (List.range 8).map fun i => (i, BitVec.ofNat 18 (sel (4 + i))),
        pmcnt := (List.range 8).map fun i => (i, BitVec.ofNat 64 (wAt w (0x9000 + 0x2A00 + 8 * (896 + i)))) },
      col := collarAt w kept cyc fire.head? }
  s.restoreCells t w kept

/-- The divisors that a section holds (R403 step 3), before the placement raises them or a clock lock sets its own. -/
def Tile.savedDivs (x : Tile) (w : AMap Nat) (now : Nat) : Tile :=
  let c := wAt w (0x9000 + 0x618)
  ((x.setDiv 0 (nfld c 3 0 + 1) now).setDiv 1 (nfld c 11 8 + 1) now).setDiv 2 (nfld c 19 16 + 1) now

/-- The pending messages go out again, in list order (R399, R403 step 4). -/
def State.resendPending (s : State) (t : Nat) (w : AMap Nat) : State :=
  (List.range 16).foldl (fun s i =>
    let o := 0x9000 + 0x6A00 + 32 * i
    let v := wAt w o
    if !nbit v 63 then s
    else
      let k := s.nextId
      let dst := BitVec.ofNat 64 (wAt w (o + 8))
      let acc : TaskAcc := { k := k, kind := .send, window := true, ea := dst, pc := (s.slot t (v % 16)).rf.pc }
      ({ s with nextId := k + 1 }.modSlot t (v % 16) fun sl => { sl with accs := sl.accs ++ [acc] }).sendMsg t (v % 16) dst
        { val := BitVec.ofNat 64 (wAt w (o + 16)), poi := nbit (wAt w (o + 24)) 0 } k) s

/-! ## Images are placed again (R403 step 1) -/

/-- The images that the live tasks of a section run: slot, launch, image, and the base B. -/
def State.liveImages (s : State) (w : AMap Nat) (old : Nat) : List (Nat × Nat × Nat × Nat) :=
  (List.range 16).filterMap fun k =>
    let o := slotAt k
    if slotStateAt w o = 0 then none
    else
      let e := slotLaunchAt w o
      let i := (s.entry e).imgOf old k
      some (k, e, i, wAt w (o + 0x300) % 2 ^ 18 - imgStoff ((s.entry e).imgs.at i {}).hdr)

/-- Read an image again and place its code and side table at base B of tile t; none while it cannot be read yet. -/
def State.imageAgain (s : State) (t e i base : Nat) : State × Option Bool :=
  let en := s.entry e
  let h := (en.imgs.at i {}).hdr
  match s.dispRead (s.court en.courtNo) en.asid (imgSize h) (en.imgAddr i) (imgSize h) with
  | (s, .wait) => (s, none)
  | (s, .bad _) => (s.endFar en.asid, some false)
  | (s, .done bs) => if wordsOf (bs.map (·.val)) 8 != h then (s.endFar en.asid, some false) else ((s.endFar en.asid).placeCode t base h (bs.map (·.val)), some true)

/-- How a resume comes out: its images cannot be read yet, it is refused, or the court runs again. -/
inductive Resumed where
  | wait (s : State)
  | refused (s : State)
  | done (s : State)
deriving DecidableEq, Repr

/-- The launches that an area lists. -/
def State.areaLaunches (s : State) (a : Nat) : List Nat := listedLaunches (s.mem.words (hbmBase + a) 0x10000)

/-- A placement record moved to the target court's tiles. -/
def Placed.moved (p : Placed) (c0 c : Court) (base : Nat → Nat → Option Nat) : Placed :=
  let t := tileNo c.stk c.lyr (c.orgRow + (tileRow p.tile - c0.orgRow)) (c.orgCol + (tileCol p.tile - c0.orgCol))
  { p with tile := t, base := (base t p.slot).getD p.base }

/-- The collar that is kept beside the area at a for a tile of court c. -/
def State.parkedAt (s : State) (a : Nat) (c : Court) (t : Nat) : Collar := s.parked.at (parkKey a ((tileRow t - c.orgRow) * 8 + (tileCol t - c.orgCol))) {}

/-- RESUME at the dispatcher: the area at address a, in court n (R402, R403). -/
def State.resumeCourt (s : State) (a n : Nat) : Resumed :=
  if !s.resumeOk a n then .refused s
  else
    let c := s.court n
    let base := hbmBase + a
    let h := s.mem.words base 0x10000
    let ls := listedLaunches h
    let c0 := match ls with | e :: _ => s.court (s.entry e).courtNo | [] => c
    let secs := c.tiles.map fun t =>
      let r := tileRow t - c.orgRow
      let k := tileCol t - c.orgCol
      (t, tileNo c0.stk c0.lyr (c0.orgRow + r) (c0.orgCol + k), base + c.sectionAt r k, s.sectionMap (base + c.sectionAt r k))
    let imgs := secs.flatMap fun q => (s.liveImages q.2.2.2 q.2.1).map fun i => (q.1, i)
    let r := imgs.foldl (fun (st : State × Option Bool) q => match st.2 with
      | some true => st.1.imageAgain q.1 q.2.2.1 q.2.2.2.1 q.2.2.2.2
      | _ => st) (s, some true)
    match r with
    | (s1, none) => .wait { s with dies := s1.dies }
    | (_, some false) => .refused s
    | (s1, some true) =>
      let asid := nfld (wAt h 8) 42 32
      let s1 := secs.foldl (fun s q => s.modTile q.1 fun x => x.savedDivs q.2.2.2 s.time) s1
      let s1 := s1.placeCourt n asid
      let s1 := secs.foldl (fun s q => s.modTile q.1 fun x => { x with reg := { x.reg with asid := BitVec.ofNat 11 asid } }) s1
      let s1 := secs.foldl (fun s q => s.restoreTile n q.1 q.2.1 q.2.2.1 q.2.2.2 (s.parkedAt a c q.1)) s1
      let bases := fun (t k : Nat) => (imgs.find? fun q => q.1 == t && q.2.1 == k).map fun q => q.2.2.2.2
      let s1 := ls.foldl (fun s e => s.modEntry e fun en =>
        { en with st := 3, placed := en.placed.map fun p => p.moved c0 c bases,
                  w := en.w.put 0 (BitVec.ofNat 64 ((en.word 0).toNat - place (pktCourt (en.word 0)) 32 6 + place n 32 6)) }) s1
      let s1 := { s1 with parked := s1.parked.filter fun p => p.1 / 64 != a }
      let s1 := { s1 with courts := s1.courts.map fun p =>
        if p.1 != n && p.2.st == 3 && p.2.saveAt == a then (p.1, { p.2 with st := 0 }) else p }
      let s1 := secs.foldl (fun s q => s.resendPending q.1 q.2.2.2) s1
      .done (ls.foldl (fun s e => s.entryNotice 7 0 e) s1)

end Sys2Proof.Machine
end

