-- ==== Sys2Proof/Machine/Packets.lean ====
section
/-! DEFINITION. Launch packets at the dispatcher: their checks, POST, ABORT, CANCEL, PREEMPT and RESUME, and the answers to their posters
(spec/15_t_launch.md R408 to R418, R428; spec/14_q_stop.md R386, R387, R402). -/

namespace Sys2Proof.Machine

/-! ## The packet that is handled next (R379, R418) -/

/-- The packet that has been handled leaves the dispatcher. -/
def State.dropPacket (s : State) : State := { s with dispQ := s.dispQ.tail }

/-- Word i of a packet. -/
def PostReq.word (p : PostReq) (i : Nat) : Word := p.words.getD i 0
/-- KIND. -/
def PostReq.kind (p : PostReq) : Nat := pktKind (p.word 0)
/-- Is it the host's. -/
def PostReq.isHost (p : PostReq) : Bool := p.from_ == .host
/-- TAG. -/
def PostReq.tag (p : PostReq) : Nat := fld (p.word 13) 31 0

/-! ## Checks (R409 to R412) -/

/-- Are the bits of a word outside a mask zero. -/
def bitsWithin (w : Word) (mask : Nat) : Bool := w.toNat &&& mask == w.toNat

/-- A field's bits as a mask. -/
def ones (hi lo : Nat) : Nat := (2 ^ (hi + 1 - lo) - 1) * 2 ^ lo

/-- The bits that a packet of a kind uses, word by word. -/
def usedBits (kind npred nimg : Nat) : List Nat :=
  if kind = 1 then
    [ones 55 52 + ones 50 40 + ones 37 32 + ones 27 24 + ones 21 16 + ones 14 0, ones 63 32 + ones 15 0, ones 55 0]
      ++ [ones (16 * min npred 4) 0 / 2, ones (16 * (min npred 8 - 4)) 0 / 2]
      ++ ((List.range 4).flatMap fun i => if i < nimg then [ones 55 0, ones 47 0] else [0, 0]) ++ [ones 31 0, 0, 0]
  else if kind = 2 ∨ kind = 3 then [ones 7 0, 0, ones 15 0] ++ List.replicate 10 0 ++ [ones 31 0, 0, 0]
  else if kind = 4 then [ones 37 32 + ones 7 0] ++ List.replicate 12 0 ++ [ones 31 0, 0, 0]
  else [ones 37 32 + ones 7 0, 0, ones 38 0] ++ List.replicate 10 0 ++ [ones 31 0, 0, 0]

/-- The court and ASID of the tile that a task's packet comes from. -/
def State.posterSpace (s : State) (p : Poster) : Nat × Nat :=
  match p with
  | .host => (0, 0)
  | .task t _ => (courtCrt (s.tile t).reg.court, (s.tile t).reg.asid.toNat)

/-- Word 0 as it will stand in the entry: SELFC cleared, COURT and ASID filled in (R406). -/
def State.word0Of (s : State) (p : PostReq) : Word :=
  let w := (p.word 0).toNat
  if bitOf (p.word 0) 21 then
    let sp := s.posterSpace p.from_
    BitVec.ofNat 64 (w - 2 ^ 21 - place (pktCourt (p.word 0)) 32 6 - place (pktAsid (p.word 0)) 40 11 + place sp.1 32 6 + place sp.2 40 11)
  else p.word 0

/-- Does an image mask select a tile outside the court. -/
def Court.maskOut (c : Court) (m : Nat) : Bool :=
  (List.range 48).any fun b => nbit m b && (decide (c.rowsM1 < b / 8) || decide (c.colsM1 < b % 8))

/-- BADPKT. -/
def State.badPacket (s : State) (p : PostReq) : Bool :=
  let w := p.word 0
  let k := p.kind
  let c := s.court (pktCourt (s.word0Of p))
  p.poi || k == 0 || decide (5 < k) || (k == 1 && (decide (8 < pktNpred w) || decide (4 < pktNimg w)))
    || ((List.range 16).zip (usedBits k (pktNpred w) (pktNimg w))).any (fun q => !bitsWithin (p.word q.1) q.2)
    || (k == 1 && p.isHost && bitOf w 21)
    || (k == 1 && c.v && (List.range (pktNimg w)).any fun i => c.maskOut (fld (p.word (6 + 2 * i)) 47 0))

/-- Is the poster privileged (R133, R410). -/
def State.posterPriv (s : State) (p : Poster) : Bool := match p with | .host => true | .task t k => (s.slot t k).sr.priv

/-- PRIVREQ. -/
def State.privPacket (s : State) (p : PostReq) : Bool :=
  let w := p.word 0
  let sp := s.posterSpace p.from_
  !s.posterPriv p.from_ && (p.kind != 1 || bitOf w 18 || !(bitOf w 21 || (pktCourt w == sp.1 && pktAsid w == sp.2)))

/-- Is an ASID resident: its range table holds a valid entry (R162). -/
def State.asidResident (s : State) (asid : Nat) : Bool := (List.range 64).any fun i => rgV (s.range asid i)

/-- COURT. -/
def State.courtPacket (s : State) (p : PostReq) : Bool :=
  let w := s.word0Of p
  (p.kind == 1 || p.kind == 4 || p.kind == 5) && (!(s.court (pktCourt w)).v || (p.kind == 1 && !s.asidResident (pktAsid w)))

/-- The predecessor references of a POST. -/
def PostReq.preds (p : PostReq) : List Nat :=
  (List.range (pktNpred (p.word 0))).map fun q => fld (p.word (3 + q / 4)) (16 * (q % 4) + 15) (16 * (q % 4))

/-- May a successor be appended to each predecessor: none is aborted with matching GEN, and none comes to have more than 8 successors. -/
def State.predsBad (s : State) (l : List Nat) : Bool :=
  l.any fun r =>
    let e := s.entry (r % 2 ^ 12)
    e.gen == r / 2 ^ 12 && (e.st == 5 || ((e.st == 1 || e.st == 2 || e.st == 3 || e.st == 4) && decide (8 < e.succ.length + (l.filter (· == r)).length)))

/-- The FREE entry of lowest index. -/
def State.freeEntry (s : State) : Option Nat := (List.range 4096).find? fun e => (s.entry e).st == 0

/-- The entry that an ABORT or CANCEL names, if GEN matches. -/
def State.namedEntry (s : State) (p : PostReq) : Option Nat :=
  let r := fld (p.word 2) 15 0
  if (s.entry (r % 2 ^ 12)).gen = r / 2 ^ 12 then some (r % 2 ^ 12) else none

/-- The refusal status of a packet (R411, R417); 0 when it is accepted. -/
def State.packetStatus (s : State) (p : PostReq) : Nat :=
  let w0 := s.word0Of p
  if s.badPacket p then 1
  else if s.privPacket p then 2
  else if s.courtPacket p then 3
  else if p.kind = 1 then
    if (s.court (pktCourt w0)).denies w0 (p.word 1) then 4
    else if s.predsBad p.preds then 5
    else if s.freeEntry.isNone then 6
    else 0
  else if p.kind = 2 then
    (match s.namedEntry p with | some e => if (s.entry e).st = 3 ∨ (s.entry e).st = 4 then 0 else 5 | none => 5)
  else if p.kind = 3 then
    (match s.namedEntry p with | some e => if (s.entry e).st = 1 ∨ (s.entry e).st = 2 then 0 else 5 | none => 5)
  else 0

/-! ## Answers (R415, R428) -/

/-- The poster of a packet is told its status, and for an accepted POST the reference: the host by a notice, a task by a packet (R415). -/
def State.answerPacket (s : State) (p : PostReq) (status ref : Nat) : State :=
  match p.from_ with
  | .host => s.notice (if status = 0 then 1 else 2) status (if status = 0 then ref else 0) (pktCourt (p.word 0)) false p.tag 0
  | .task t k => s.modNet (.die 0) fun ni => { ni with txq := ni.txq ++ [s.postRsp t k status ref] }

/-! ## Effects -/

/-- Post (R413): the new state and the reference. -/
def State.postEntry (s : State) (p : PostReq) (e : Nat) : State × Nat :=
  let w0 := s.word0Of p
  let gen := ((s.entry e).gen + 1) % 16
  let keep := [0, 1, 2, 5, 6, 7, 8, 9, 10, 11, 12, 13]
  let words := keep.foldl (fun (m : AMap Word) i => let w := if i = 0 then w0 else p.word i; if w = 0 then m else m.put i w) []
  let new : Entry := { w := words, eclass := pktClass w0, gen := gen, extcnt := fld w0 27 24, tpost := s.time % 2 ^ 32, past := (s.entry e).fields }
  let s := { s with entries := s.entries.put e new }
  let s := p.preds.foldl (fun s r =>
    let q := s.entry (r % 2 ^ 12)
    if q.gen = r / 2 ^ 12 ∧ (q.st = 1 ∨ q.st = 2 ∨ q.st = 3 ∨ q.st = 4) then
      (s.modEntry (r % 2 ^ 12) fun q => q.append (gen * 2 ^ 12 + e)).modEntry e fun n => { n with predcnt := n.predcnt + 1 }
    else s) s
  ((s.modEntry e fun n => { n with st := 1 }).checkReady e, gen * 2 ^ 12 + e)

/-- CANCEL of an entry (R417). -/
def State.cancelEntry (s : State) (e : Nat) : State :=
  let s := s.modEntry e fun en => { en with st := 5, noticed := true }
  ((s.entryNotice 5 0 e).freeAborted e).sweepAborted

/-- A packet's effect and its answer: none while a RESUME waits for its images, which keeps the packet. -/
def State.handlePacket (s : State) (p : PostReq) : State :=
  let status := s.packetStatus p
  if status != 0 then s.dropPacket.answerPacket p status 0
  else match p.kind with
  | 1 =>
    match s.freeEntry with
    | some e => let r := s.dropPacket.postEntry p e; r.1.answerPacket p 0 r.2
    | none => s
  | 2 => (match s.namedEntry p with | some e => (s.dropPacket.answerPacket p 0 0).beginAbort e 0 | none => s)
  | 3 => (match s.namedEntry p with | some e => (s.dropPacket.answerPacket p 0 0).cancelEntry e | none => s)
  | 4 =>
    let n := pktCourt (p.word 0)
    ((s.dropPacket.answerPacket p 0 0).requestPreempt n (if p.isHost then 1 else 2)).beginStop n
  | _ =>
    let n := pktCourt (p.word 0)
    let a := fld (p.word 2) 38 0
    match s.resumeCourt a n with
    | .wait s => s
    | _ =>
      let s := s.dropPacket.answerPacket p 0 0
      match s.resumeCourt a n with
      | .refused s => s.notice 8 0 (match s.areaLaunches a with | e :: _ => s.refOf e | [] => 0) n false p.tag 0
      | .done s => s
      | .wait s => s

/-- The next packet is handled when its KIND is of the row's; a packet of no valid KIND goes with POST. Packets are handled in the order in which they have
come to the dispatcher, after the ends of launches that stand before them (R418). -/
def packetEvent (kind : Nat) (s : State) : Out :=
  match s.takeLq.dispQ with
  | p :: _ =>
    let k := if p.kind = 0 ∨ 5 < p.kind then 1 else p.kind
    .next (if k = kind && !s.takeLq.endsFirst p then s.takeLq.handlePacket p else s)
  | [] => .next s

/-- POST (R413). -/
def execPost (s : State) : Out := packetEvent 1 s
/-- ABORT (R386, R417). -/
def execAbort (s : State) : Out := packetEvent 2 s
/-- CANCEL (R417). -/
def execCancel (s : State) : Out := packetEvent 3 s
/-- PREEMPT (R387). -/
def execPreempt (s : State) : Out := packetEvent 4 s
/-- RESUME (R402, R403). -/
def execResume (s : State) : Out := packetEvent 5 s

end Sys2Proof.Machine
end

