-- ==== Sys2Proof/Machine/Sha3.lean ====
section
/-! DEFINITION. SHA3-512 (spec/16_t_system.md R443, R444; notes/assumptions/10.md): the sponge of 1,600 bits, its state as 25 lanes of 64 bits, lane x + 5 y;
and the attestation keys that are made with it. -/

namespace Sys2Proof.Machine

/-- A lane rotated left by n. -/
def laneRol (w n : Nat) : Nat := (w * 2 ^ (n % 64) + w / 2 ^ (64 - n % 64)) % 2 ^ 64

/-- Rotation counts of the lanes. -/
def laneTurns : List Nat := [0, 1, 62, 28, 27, 36, 44, 6, 55, 20, 3, 10, 43, 25, 39, 41, 45, 15, 21, 8, 18, 2, 61, 56, 14]

/-- Round constants. -/
def roundConsts : List Nat :=
  [0x1, 0x8082, 0x800000000000808A, 0x8000000080008000, 0x808B, 0x80000001, 0x8000000080008081, 0x8000000000008009,
   0x8A, 0x88, 0x80008009, 0x8000000A, 0x8000808B, 0x800000000000008B, 0x8000000000008089, 0x8000000000008003,
   0x8000000000008002, 0x8000000000000080, 0x800A, 0x800000008000000A, 0x8000000080008081, 0x8000000000008080, 0x80000001, 0x8000000080008008]

/-- One round. -/
def sha3Round (a : List Nat) (rc : Nat) : List Nat :=
  let g := fun (l : List Nat) (i : Nat) => l.getD i 0
  let c := (List.range 5).map fun x => (List.range 5).foldl (fun w y => w ^^^ g a (x + 5 * y)) 0
  let d := (List.range 5).map fun x => g c ((x + 4) % 5) ^^^ laneRol (g c ((x + 1) % 5)) 1
  let t := (List.range 25).map fun i => laneRol (g a i ^^^ g d (i % 5)) (g laneTurns i)
  let b := (List.range 25).map fun i => let x := (i % 5 + 3 * (i / 5)) % 5; g t (x + 5 * (i % 5))
  let e := (List.range 25).map fun i =>
    let y := 5 * (i / 5)
    g b i ^^^ ((2 ^ 64 - 1 - g b (y + (i + 1 - y) % 5)) &&& g b (y + (i + 2 - y) % 5))
  match e with
  | h :: rest => (h ^^^ rc) :: rest
  | [] => []

/-- Absorb a message of n blocks of 72 bytes. -/
def sha3Absorb : Nat → List Byte → List Nat → List Nat
  | 0, _, a => a
  | n + 1, m, a =>
    let a := (List.range 25).map fun i => a.getD i 0 ^^^ (if i < 9 then ofBytes ((m.drop (8 * i)).take 8) else 0)
    sha3Absorb n (m.drop 72) (roundConsts.foldl sha3Round a)

/-- SHA3-512 of a message, as 64 bytes. -/
def sha3 (m : List Byte) : List Byte :=
  let n := m.length / 72 + 1
  let pad := (List.range (72 * n - m.length)).map fun i => (if i = 0 then 6#8 else 0#8) ||| (if i + 1 = 72 * n - m.length then 0x80#8 else 0#8)
  ((sha3Absorb n (m ++ pad) (List.replicate 25 0)).take 8).flatMap fun w => toBytes 8 w

/-! ## The attestation key (R443) -/

/-- The measurement of a firmware image. -/
def measureOf (image : List Byte) : BitVec 512 := BitVec.ofNat 512 (ofBytes (sha3 image))

/-- The seed of the AK: over the device secret followed by the measurement. -/
def akSeed (m : BitVec 512) : List Byte := sha3 (Config.deviceSecret ++ toBytes 64 m.toNat)

/-- The AK public key. -/
def akPublic (m : BitVec 512) : List Byte := (List.range 2592).map (Config.akPublicKey (akSeed m))

/-- What the DIK signs to endorse the AK: MAGIC, the measurement, the AK public key. -/
def endorsedMessage (m : BitVec 512) : List Byte := toBytes 4 0x4B573945 ++ toBytes 64 m.toNat ++ akPublic m

/-- Byte i of the endorsement signature. -/
def akEndorsement (m : BitVec 512) : Nat → Byte := Config.dikSignature (endorsedMessage m)

end Sys2Proof.Machine
end

