-- ==== Sys2Proof/Machine/CourtCmds.lean ====
section
/-! DEFINITION. The commands of the court command interface (spec/16_t_system.md R429 to R434, R437, R438, R444) and the tails of the record rings (R439). -/

namespace Sys2Proof.Machine

/-! ## The interface (R429) -/

/-- OP. -/
def CmdPort.op (p : CmdPort) : Nat := fld p.cmd 3 0
/-- CRT. -/
def CmdPort.crt (p : CmdPort) : Nat := fld p.cmd 9 4
/-- ASID. -/
def CmdPort.asid (p : CmdPort) : Nat := fld p.cmd 20 10
/-- RIDX. -/
def CmdPort.ridx (p : CmdPort) : Nat := fld p.cmd 26 21
/-- A staging word as the command took it. -/
def CmdPort.arg (p : CmdPort) (i : Nat) : Word := p.copy.at i 0

/-- A write to the command item (R429): while BUSY it is ignored and MISS is set; an invalid OP or a reserved bit reports BADCMD at once. -/
def CmdPort.start (p : CmdPort) (v : Word) : CmdPort :=
  if p.busy then { p with miss := true }
  else
    let p := { p with cmd := v, copy := p.stage }
    if fld v 63 27 != 0 || fld v 3 0 == 0 || decide (6 < fld v 3 0) then { p with status := 1 } else { p with busy := true }

/-- A command ends with a status. -/
def State.cmdDone (s : State) (status : Nat) : State := { s with cport := { s.cport with busy := false, status := status } }

/-- A command of the interface acts when it is the one in execution: an error status, or its effect; none while it cannot complete yet. -/
def courtCmd (op : Nat) (f : State → Except Nat (Option State)) (s : State) : Out :=
  if s.cport.busy && s.cport.op == op then
    match f s with
    | .error e => .next (s.cmdDone e)
    | .ok (some s) => .next (s.cmdDone 0)
    | .ok none => .next s
  else .next s

/-- STATE, OVERLAP, FIELD and LIMIT. -/
def eState : Nat := 2
/-- OVERLAP. -/
def eOverlap : Nat := 3
/-- FIELD. -/
def eField : Nat := 4
/-- LIMIT. -/
def eLimit : Nat := 5

/-! ## CREATE, DESTROY, GRANT, PREEMPT -/

/-- The bits that the layout of R430 gives to words 0 to 8 of an entry. -/
def courtBits : List Nat :=
  [ones 63 31 + ones 23 0, ones 63 32 + ones 24 0, ones 63 0, ones 38 16, ones 38 12 + ones 4 0, ones 38 12 + ones 4 0,
   ones 31 16 + ones 3 0, ones 63 0, ones 19 16 + ones 11 8 + ones 3 0]

/-- A PAIRMAP bit names a pair that is not wholly inside the court. -/
def Court.badPairs (c : Court) : Bool :=
  (List.range 24).any fun b => nbit c.pairmap b && (decide (c.rowsM1 < b / 4) || decide (c.colsM1 < 2 * (b % 4) + 1))

/-- FRLOG2. -/
def Court.frLog (c : Court) : Nat := fld (c.word 4) 4 0
/-- DLLOG2. -/
def Court.dlLog (c : Court) : Nat := fld (c.word 5) 4 0

/-- CREATE is refused FIELD. -/
def Court.badField (c : Court) : Bool :=
  ((List.range 9).zip courtBits).any (fun p => !bitsWithin (c.word p.1) p.2)
    || decide (5 < c.orgRow + c.rowsM1) || decide (7 < c.orgCol + c.colsM1) || c.badPairs
    || (List.range 4).any (fun k => decide (192 * 2 ^ 22 < c.lmBase k + c.lmLen k))
    || decide (c.frLog < 6) || decide (16 < c.frLog) || decide (c.dlLog < 6) || decide (20 < c.dlLog) || decide (4 < c.pair)
    || (!c.res && (c.dv || c.wmask != 0 || c.lock))

/-- Do the divisors of a clock lock lie outside R21 or below a grant's minimum. -/
def Court.badLock (c : Court) (g : Nat) : Bool :=
  c.lock && (decide (c.lockDiv 0 < grantTmin g) || decide (c.lockDiv 1 < grantCmin g) || decide (c.lockDiv 2 < grantCmin g)
    || c.lockDiv 1 == 0 || c.lockDiv 2 == 0)

/-- CREATE is refused LIMIT. -/
def Court.badLimit (c : Court) : Bool :=
  decide (14 < popc c.slotMask) || decide (56 < popc c.wmask) || c.badLock c.grant
    || decide (2 ^ 39 < fld (c.word 4) 38 12 * 2 ^ 12 + 2 ^ c.frLog * 64)
    || decide (2 ^ 39 < fld (c.word 5) 38 12 * 2 ^ 12 + 2 ^ c.dlLog * 32)
    || decide (2 ^ 39 < c.saveAt + 2 ^ 16 + (c.rowsM1 + 1) * (c.colsM1 + 1) * 2 ^ 24)

/-- The entry that CREATE makes of the staging words (R431); the last E of EQSTAT stays (R459). -/
def State.newCourt (s : State) : Court :=
  let c : Court := { w := (List.range 9).map (fun i => (i, s.cport.arg i)), v := true, lastE := (s.court s.cport.crt).lastE }
  let c := c.loadQuota
  { c with unpl := !c.fits s.roles.roles.toNat }

/-- CREATE (R431). -/
def execCreate (s : State) : Out :=
  courtCmd 1 (fun s =>
    let c := s.newCourt
    if (s.court s.cport.crt).v then .error eState
    else if c.badField then .error eField
    else if c.badLimit then .error eLimit
    else .ok (some { s with courts := s.courts.put s.cport.crt c })) s

/-- DESTROY (R432): refused while the court is not idle or a launch that names it is WAITING, READY, RUNNING or SAVED. -/
def execDestroy (s : State) : Out :=
  courtCmd 2 (fun s =>
    let n := s.cport.crt
    let c := s.court n
    if c.st != 0 || s.entries.any (fun e => decide (1 ≤ e.2.st) && decide (e.2.st ≤ 4) && e.2.courtNo == n) then .error eState
    else .ok (some (s.modCourt n fun c => { c with v := false }))) s

/-- GRANT (R433): a placed court's tiles take the new selector and their divisors are raised; the quota is loaded again. -/
def execGrant (s : State) : Out :=
  courtCmd 3 (fun s =>
    let n := s.cport.crt
    let c := s.court n
    let w := s.cport.arg 1
    if !c.v then .error eState
    else if !bitsWithin w (courtBits.getD 1 0) then .error eField
    else if c.badLock (fld w 24 0) then .error eLimit
    else
      let c' := ({ c with w := c.w.put 1 w } : Court).loadQuota
      let s := ((if c.placed then c.tiles else []).foldl (fun s t => s.settleMeters t) s).modCourt n fun _ => c'
      .ok (some (if c.placed then c.tiles.foldl (fun s t => s.modTile t fun x =>
          ({ x with reg := { x.reg with grant := BitVec.ofNat 25 c'.grant } } : Tile).raiseDivs c'.grant s.time) s else s))) s

/-- COURT_PREEMPT (R434): a request for REASON 2, reported OK at once. -/
def execCourtPreempt (s : State) : Out :=
  courtCmd 4 (fun s => .ok (some ((s.requestPreempt s.cport.crt 2).beginStop s.cport.crt))) s

/-! ## RWRITE (R437, R438) -/

/-- The entry that the staging words hold. -/
def CmdPort.rangeArg (p : CmdPort) : BitVec 256 :=
  BitVec.ofNat 256 ((p.arg 0).toNat + (p.arg 1).toNat * 2 ^ 64 + (p.arg 2).toNat * 2 ^ 128 + (p.arg 3).toNat * 2 ^ 192)

/-- A: atomics permitted. -/
def rgAtomic (e : BitVec 256) : Bool := nbit e.toNat 59

/-- The bits that the layout gives to word 3 for a target, with WB or without. -/
def rangeBits3 (tgt : Nat) (wb : Bool) : Nat :=
  if tgt = 4 then ones 63 42 else if tgt = 3 then ones 51 50 + ones 40 40 + (if wb then ones 38 0 else 0) else 0

/-- A bit that the layout gives to no field, or a field that the target does not use, is set. -/
def badRangeBits (e : BitVec 256) : Bool :=
  let w := fun (i : Nat) => BitVec.ofNat 64 (nfld e.toNat (64 * i + 63) (64 * i))
  !bitsWithin (w 0) (ones 63 59 + ones 55 0) || !bitsWithin (w 1) (ones 63 61 + ones 56 0) || !bitsWithin (w 2) (ones 55 0)
    || !bitsWithin (w 3) (rangeBits3 (rgTgt e) (rgWb e))

/-- How far a target reaches (R437). -/
def rangeLimit (tgt : Nat) : Nat :=
  if tgt = 0 then 2 ^ 39 else if tgt = 1 then 2 ^ 43 else if tgt = 3 then 768 * 2 ^ 20 else if tgt = 4 then 2 ^ 22 else 2 ^ 64

/-- Why a valid entry is refused, if it is: the clauses of R437 in their order. -/
def State.rangeRefused (s : State) (asid idx : Nat) (e : BitVec 256) : Option Nat :=
  let lap := (List.range 64).any fun i =>
    let o := s.range asid i
    i != idx && rgV o && decide (rgBase e < rgBase o + rgLen o) && decide (rgBase o < rgBase e + rgLen e)
  if !isMult (rgBase e) 64 || !isMult (rgLen e) 64 || rgLen e == 0 || decide (2 ^ 56 < rgBase e + rgLen e) then some eField
  else if lap then some eOverlap
  else if decide (4 < rgTgt e) || badRangeBits e
      || (rgMig e && ((rgTgt e != 1 && rgTgt e != 2) || !isMult (rgBase e) (2 ^ 21) || !isMult (rgLen e) (2 ^ 21) || !isMult (rgToff e) (2 ^ 21)))
      || (rgAtomic e && rgTgt e != 3 && rgTgt e != 4)
      || decide (rangeLimit (rgTgt e) < rgToff e + rgLen e)
      || (rgWb e && (!isMult (rgWbaddr e) 64 || decide (2 ^ 39 < rgWbaddr e + rgLen e))) then some eField
  else none

/-- Does a granule lie in a range. -/
def rgGran (e : BitVec 256) (vgn : Nat) : Bool := decide (rgBase e ≤ vgn * 2 ^ 21) && decide (vgn * 2 ^ 21 < rgBase e + rgLen e)

/-- Is a granule of an ASID's range moving in or out at a base die. -/
def Die.rangeBusy (x : Die) (asid : Nat) (e : BitVec 256) : Bool :=
  x.migr.any fun m => (m.incoming && m.asid == asid && rgGran e m.vgn) ||
    (let w := x.resmap.at m.frame 0; m.phase == 0 && rmAsid w == asid && rgGran e (rmVgn w))

/-- The frames of a base die that hold resident granules of an ASID's range. -/
def Die.rangeFrames (x : Die) (asid : Nat) (e : BitVec 256) : List Nat :=
  (x.resmap.filter fun p => rmV p.2 && !rmBusy p.2 && rmAsid p.2 == asid && rgGran e (rmVgn p.2)).map (·.1)

/-- Start to evict a frame: it is busy until its granule is home. -/
def Die.startEvict (x : Die) (f : Nat) : Die :=
  let old := x.resmap.at f 0
  { x with resmap := x.resmap.put f (rmWord false (rmDirty old) true (rmAsid old) (rmVgn old)),
           migr := x.migr ++ [{ frame := f, asid := 0, vgn := 0, incoming := false, phase := 0 }] }

/-- Write an entry of an ASID's range table: an entry with V clear holds nothing. -/
def State.putRange (s : State) (asid idx : Nat) (e : BitVec 256) : State :=
  { s with ranges := if rgV e then s.ranges.put (asid * 64 + idx) e else s.ranges.del (asid * 64 + idx) }

/-- RWRITE once it is not refused (R438): what is resident of an old migratable range is evicted first. -/
def State.rangeWrite (s : State) (asid idx : Nat) (e : BitVec 256) : Option State × State :=
  let old := s.range asid idx
  if !(rgV old && rgMig old) then (some (s.putRange asid idx e), s)
  else if [0, 1, 2, 3].any fun d => (s.die d).rangeBusy asid old then (none, s)
  else if [0, 1, 2, 3].all fun d => ((s.die d).rangeFrames asid old).isEmpty then (some (s.putRange asid idx e), s)
  else
    (none, [0, 1, 2, 3].foldl (fun s d => ((s.die d).rangeFrames asid old).foldl (fun s f => s.modDie d fun x => x.startEvict f) s) s)

/-- RWRITE (R437, R438): V = 0 clears the entry; while a role change is open, an entry of layer memory of its stack is refused STATE (R442). -/
def execRwrite (s : State) : Out :=
  if s.cport.busy && s.cport.op == 5 then
    let a := s.cport.asid
    let i := s.cport.ridx
    let e : BitVec 256 := if nbit s.cport.rangeArg.toNat 63 then s.cport.rangeArg else 0
    let lm := fun (q : BitVec 256) => rgV q && rgTgt q == 3 && rgTstk q == s.roles.rstk
    if s.roles.closing && (lm e || lm (s.range a i)) then .next (s.cmdDone eState)
    else
      match (if rgV e then s.rangeRefused a i e else none) with
      | some st => .next (s.cmdDone st)
      | none =>
        match s.rangeWrite a i e with
        | (some s', _) => .next (s'.cmdDone 0)
        | (none, s') => .next s'
  else .next s

/-! ## ATTEST (R444) -/

/-- Word i of a court table entry as scan and an attestation report show it (R430). -/
def Court.shown (c : Court) (i : Nat) : Nat :=
  match i with
  | 0 => bnat c.v * 2 ^ 63 + place (fld (c.word 0) 62 61) 61 2 + bnat c.unpl * 2 ^ 60 + place c.st 58 2 + place c.curasid 47 11
      + fld (c.word 0) 46 31 * 2 ^ 31 + c.pairmap
  | 12 => c.frtail * 2 ^ 32 + c.frhead
  | 13 => c.dltail * 2 ^ 32 + c.dlhead
  | 14 => c.dldrop * 2 ^ 32 + c.frdrop
  | 15 => c.sseq
  | i => if i < 9 then (c.word i).toNat else 0

/-- The scan address of a node's output (R147, R381). -/
def outputScan (n : Node) (o : Nat) : Nat :=
  match n with
  | .tile t => tileStk t * 2 ^ 42 + tileLyr t * 2 ^ 40 + tileRow t * 2 ^ 37 + tileCol t * 2 ^ 34 + 9 * 2 ^ 28 + 2 ^ 24 + o * 2 ^ 20
  | .die d => d * 2 ^ 42 + 2 ^ 33 + 5 * 2 ^ 28 + o * 2 ^ 18

/-- The pair of an output's VC map that names a court of this package: its 19 bits (R380). -/
def OutPort.pairFor (o : OutPort) (pkg n : Nat) : Option Nat :=
  (o.vcmap.find? fun p => p.2 == mapEntry pkg n).map (·.2)

/-- Insert into a list that rises in its first component. -/
def insScan {α : Type} (k : Nat) (v : α) : List (Nat × α) → List (Nat × α)
  | [] => [(k, v)]
  | (j, w) :: t => if k < j then (k, v) :: (j, w) :: t else (j, w) :: insScan k v t

/-- The outputs whose VC map names a court, in ascending scan address: each with its slot table and its pair. A court that is not placed has none. -/
def State.courtOutputs (s : State) (n : Nat) : List (Nat × (Nat × Nat)) :=
  let of_ := fun (acc : List (Nat × (Nat × Nat))) (nd : Node) =>
    (s.router nd).outs.foldl (fun acc p =>
      match p.2.pairFor s.pkg.pkgid.toNat n with
      | some w => insScan (outputScan nd p.1) (p.2.slots.toNat, w) acc
      | none => acc) acc
  if (s.court n).placed then ([0, 1, 2, 3].map Node.die).foldl of_ ((s.tiles.keys.map Node.tile).foldl of_ []) else []

/-- The number of pseudo-channels on which a court owns exactly its WMASK; none for a court that is not placed, unless its WMASK is 0. -/
def State.wheelsExact (s : State) (n : Nat) : Nat :=
  let m := (s.court n).wmask
  if !(s.court n).placed && m != 0 then 0 else ((List.range 512).filter fun q =>
    let x := s.die (q / 128)
    (List.range 64).foldl (fun a k => a + bnat (x.slotOf (q / 64) (q % 64) k == 128 + n) * 2 ^ k) 0 == m).length

/-- Do all tiles of a court stand at its locked divisors. -/
def State.lockedExact (s : State) (n : Nat) : Bool :=
  let c := s.court n
  !c.lock || (c.placed && c.tiles.all fun t => let r := (s.tile t).reg; r.lock && r.tccm1 == c.lockDiv 0 && r.colm1 == c.lockDiv 1 && r.cpym1 == c.lockDiv 2)

/-- Bytes 0x000 to 0x1BF of a report (R444). -/
def State.report (s : State) (n : Nat) (nonce : List Byte) : List Byte :=
  let q := fun (v : Nat) => toBytes 8 v
  let outs := s.courtOutputs n
  q (0x4B573941 + 2 ^ 32) ++ q s.pkg.reports ++ q s.time ++ q (s.pkg.pkgid.toNat + n * 2 ^ 16) ++ nonce ++ toBytes 64 s.pkg.measure.toNat
    ++ (List.range 16).flatMap (fun i => q ((s.court n).shown i))
    ++ sha3 (outs.flatMap fun p => toBytes 2 (Config.outputIdentity p.1).toNat ++ q p.2.1 ++ toBytes 4 p.2.2)
    ++ q outs.length ++ q (s.wheelsExact n) ++ q (bnat (s.lockedExact n)) ++ q s.roles.roles.toNat
    ++ sha3 (akPublic s.pkg.measure)

/-- Clean bytes. -/
def cleanBytes (bs : List Byte) : List MByte := bs.map fun b => { val := b }

/-- ATTEST (R444): the report, then the signature. -/
def execAttest (s : State) : Out :=
  courtCmd 6 (fun s =>
    let n := s.cport.crt
    let nonceAt := (s.cport.arg 0).toNat
    let at_ := (s.cport.arg 1).toNat
    if !(s.court n).v then .error eState
    else if !isMult at_ 64 || decide (2 ^ 39 < at_ + 0x1C0 + 4627) || decide (2 ^ 39 < nonceAt + 64) then .error eField
    else
      let body := s.report n (s.mem.read (hbmBase + nonceAt) 64)
      let sig := (List.range 4627).map (Config.akSignature (akSeed s.pkg.measure) s.pkg.reports body)
      let s := s.writeUnits 32 (hbmBase + at_) (cleanBytes body) 20
      let s := s.writeUnits 32 (hbmBase + at_ + 0x1C0) (cleanBytes sig) 200
      .ok (some { s with pkg := { s.pkg with reports := s.pkg.reports + 1 } })) s

/-! ## Tails of the record rings (R439) -/

/-- Is a tail in order: HEAD - TAIL is not negative and at most 2^L, modulo 2^32. -/
def tailOk (head tail lg : Nat) : Bool := decide ((head + 2 ^ 32 - tail) % 2 ^ 32 ≤ 2 ^ lg)

/-- A write of FRTAIL or DLTAIL. -/
def Court.setTail (c : Court) (dirty : Bool) (v : Nat) : Court :=
  if dirty then (if tailOk c.dlhead v c.dlLog then { c with dltail := v } else c)
  else if tailOk c.frhead v c.frLog then { c with frtail := v } else c

/-- RING_TAIL_WRITE (R439). -/
def execRingTailWrite (n : Nat) (dirty : Bool) (v : BitVec 32) (s : State) : Out :=
  if n < 64 then .next (s.modCourt n fun c => c.setTail dirty v.toNat) else .fault .noSuchUnit

end Sys2Proof.Machine
end

