-- ==== Sys2Proof/Machine/Roles.lean ====
section
/-! DEFINITION. Layer roles: the command register, the steps of a role change, and what a part that loses its power keeps (spec/01_machine.md R15, R16;
spec/16_t_system.md R441, R442; spec/23_package.md R475, R480). -/

namespace Sys2Proof.Machine

/-! ## The command register (R441, R442) -/

/-- May step n start (R442): each step follows the one before it in an open sequence; ABORT stands after step 1 or 2. -/
def Roles.inOrder (r : Roles) (n : Nat) : Bool :=
  if n = 1 then !r.closing
  else if n = 7 then r.closing && (r.rdone == 1 || r.rdone == 2)
  else r.closing && r.rdone + 1 == n

/-- A write of RCMD (R442): 0, and any write while a step runs, is ignored; a step out of order gives ORDER. -/
def Roles.command (r : Roles) (n : Nat) : Roles :=
  if n = 0 ∨ r.busy then r
  else if r.inOrder n then { r with busy := true, step := n }
  else { r with rstat := 2 }

/-- The running step ends well. -/
def Roles.ended (r : Roles) (n : Nat) : Roles := { r with busy := false, rdone := n, rstat := 0 }

/-- The running step ends with an error status. -/
def Roles.failed (r : Roles) (st : Nat) : Roles := { r with busy := false, rstat := st }

/-- Step n acts while it is the running one; none in a package that is held in reset (R477). -/
def roleStep (n : Nat) (f : State → State) (s : State) : Out :=
  .next (if !s.held && s.roles.busy && s.roles.step == n then f s else s)

/-! ## DRAIN -/

/-- ROLES with the role of one layer changed. -/
def setRole (roles stk lyr role : Nat) : Nat := roles - roleIn roles stk lyr * 2 ^ (8 * stk + 2 * lyr) + role % 4 * 2 ^ (8 * stk + 2 * lyr)

/-- Are a stack's roles permitted (R16): at most two compute layers, and neither y0 with y1 nor y1 with y2; no role 3. -/
def stackOk (roles stk : Nat) : Bool :=
  let comp := (List.range 4).filter fun y => roleIn roles stk y == 1
  (List.range 4).all (fun y => roleIn roles stk y != 3) && decide (comp.length ≤ 2) && comp != [0, 1] && comp != [1, 2]

/-- Does a ROLES value pass step 1: R16, and equal to one of the patterns in use. -/
def Roles.permits (r : Roles) (roles : Nat) : Bool :=
  (List.range 4).all (stackOk roles) && (List.range r.tpcnt).any fun i => (r.tpat.at i 0).toNat == roles

/-- The placed courts that a change of (RSTK, RLYR) pre-empts. -/
def State.roleCourts (s : State) : List Nat :=
  s.courtNos.filter fun n => (s.court n).placed && (s.court n).touchedBy s.roles.rstk s.roles.rlyr

/-- A fatal failure of bring-up (R482): it overwrites a non-fatal one, and none overwrites it. -/
def Pkg.fatalFail (p : Pkg) (cause detail : Nat) : Pkg :=
  if p.fatal then p else { p with fatal := true, prior := p.fail != 0, fail := cause, detail := detail }

/-- Step 1: the check, then the pre-emptions with REASON 3; it ends when no affected court is placed any more. A refusal in phase 5 ends bring-up (R480). -/
def State.roleDrain (s : State) : State :=
  let r := s.roles
  if !r.closing then
    let new := setRole r.roles.toNat r.rstk r.rlyr r.rrole
    if !r.permits new then
      { s with roles := r.failed 1, pkg := if s.pkg.phase = 5 then s.pkg.fatalFail 7 (4 * r.rstk + r.rlyr) else s.pkg }
    else
      let s := { s with roles := { r with closing := true, newRoles := BitVec.ofNat 32 new } }
      s.roleCourts.foldl (fun s n => (s.requestPreempt n 3).beginStop n) s
  else if s.roleCourts.isEmpty then { s with roles := r.ended 1 }
  else s.roleCourts.foldl (fun s n => (s.requestPreempt n 3).beginStop n) s

/-- ROLE_DRAIN (R442 step 1). -/
def execRoleDrain (s : State) : Out := roleStep 1 State.roleDrain s

/-! ## FLUSH -/

/-- Copy n bytes of a scratchpad to HBM; a latent error in the words read is corrected or poisons its word (R152), and poison goes to the granules written. -/
def State.flushPiece (s : State) (src dst n : Nat) : State :=
  let inS := fun (a : Nat) => decide (src / 8 * 8 ≤ a) && decide (a < src + n)
  let s := ((s.soft.filter inS) ++ (s.hard.filter inS)).foldl (fun s a => s.scrub a 1) s
  let bad := s.marks.filter inS
  let moved := (s.mem.filter fun c => decide (src ≤ c.1) && decide (c.1 < src + n)).map fun c => (c.1 - src + dst, c.2)
  let marks := s.marks.filter fun a => decide (a < dst) || decide (dst + n ≤ a)
  { s with mem := (s.mem.filter fun c => decide (c.1 < dst)) ++ moved ++ s.mem.filter (fun c => decide (dst + n ≤ c.1)),
           marks := bad.foldl (fun m a => ((m.setTo (max a src - src + dst) true).setTo (min (a + 7) (src + n - 1) - src + dst) true)) marks }

/-- Copy n bytes from a stack offset on to their backing address, page by page; offsets that hold no layer memory are skipped. A copy that passes the end of
HBM completes FAIL and is the last (notes/assumptions/58.md). -/
def State.flushRange (s : State) (stk : Nat) : Nat → Nat → Nat → Nat → State × Bool
  | 0, _, _, _ => (s, false)
  | fuel + 1, u, dst, n =>
    if n = 0 then (s, false)
    else
      let m := min n (4096 - u % 4096)
      match s.layerAt stk u with
      | some (t, o) => if 2 ^ 39 < dst + m then (s, true) else State.flushRange (s.flushPiece (scratchKey t o) (hbmBase + dst) m) stk fuel (u + m) (dst + m) (n - m)
      | none => State.flushRange s stk fuel (u + m) (dst + m) (n - m)

/-- Step 2: every write-back range of layer memory of RSTK, in order of ASID and index; a copy that fails ends the step with FLUSHFAIL. -/
def State.roleFlush (s : State) : State :=
  let r := s.ranges.foldl (fun (a : State × Bool) p =>
    if !a.2 && rgV p.2 && rgTgt p.2 == 3 && rgTstk p.2 == s.roles.rstk && rgWb p.2 then
      a.1.flushRange s.roles.rstk (rgLen p.2 / 4096 + 2) (rgToff p.2) (rgWbaddr p.2) (rgLen p.2)
    else a) (s, false)
  { r.1 with roles := if r.2 then s.roles.failed 3 else s.roles.ended 2 }

/-- ROLE_FLUSH (R442 step 2). -/
def execRoleFlush (s : State) : Out := roleStep 2 State.roleFlush s

/-! ## GATE -/

/-- The tile whose memory holds a place of the address line. -/
def keyTile (k : Nat) : Option Nat :=
  if ctxBase ≤ k then some ((k - ctxBase) / 2 ^ 18)
  else if istoreBase ≤ k then some ((k - istoreBase) / 2 ^ 18)
  else if spillBase ≤ k then some ((k - spillBase) / 2 ^ 16)
  else if scratchBase ≤ k then some ((k - scratchBase) / 2 ^ 22)
  else none

/-- The state with every memory byte, mark and latent error that satisfies p taken away. -/
def State.dropKeys (s : State) (p : Nat → Bool) : State :=
  { s with mem := s.mem.filter (fun c => !p c.1), marks := s.marks.filter (fun a => !p a), soft := s.soft.filter (fun a => !p a),
           hard := s.hard.filter (fun a => !p a) }

/-- A tile of a layer whose role changes (R15, R478): the parts that were or are without power start from their reset values; the router, the interface and its
sequence counters stay, but of a layer that is or was off the vertical links alone. -/
def Tile.repowered (x : Tile) (old role : Nat) : Tile :=
  let vert := fun (p : Nat) => p == 4 || p == 5
  if old = 0 ∨ role = 0 then
    { rt := { ins := x.rt.ins.filter fun e => vert (e.1 / 16), outs := x.rt.outs.filter fun e => vert e.1 }, ni := { seqs := x.ni.seqs } }
  else { rt := x.rt, ni := x.ni }

/-- The tiles of a layer. -/
def layerTiles (stk lyr : Nat) : List Nat := (List.range 48).map fun k => (stk * 4 + lyr) * 48 + k

/-- A layer changes from one role to another: its tiles lose what lost its power, and their memories are lost or zeroed. -/
def State.regate (s : State) (stk lyr old role : Nat) : State :=
  let ts := layerTiles stk lyr
  let s := s.dropKeys fun k => match keyTile k with | some t => ts.contains t | none => false
  { s with tiles := s.tiles.map fun p => if ts.contains p.1 then (p.1, p.2.repowered old role) else p }

/-- Step 3: LYEN follows the new roles; tiles whose role changes are powered or unpowered; those that have the memory role before or after are zeroed. -/
def State.roleGate (s : State) : State :=
  let old := s.roles.roles.toNat
  let new := s.roles.newRoles.toNat
  let lyen := (List.range 16).foldl (fun a i => a + bnat (roleIn new (i / 4) (i % 4) != 0) * 2 ^ i) 0
  let s := (List.range 16).foldl (fun s i =>
    if roleIn old (i / 4) (i % 4) != roleIn new (i / 4) (i % 4) then s.regate (i / 4) (i % 4) (roleIn old (i / 4) (i % 4)) (roleIn new (i / 4) (i % 4)) else s) s
  let zeroed := (List.range 4).filter fun y => roleIn old s.roles.rstk y == 2 || roleIn new s.roles.rstk y == 2
  let s := s.dropKeys fun k =>
    decide (scratchBase ≤ k) && decide (k < spillBase) && (match keyTile k with | some t => tileStk t == s.roles.rstk && zeroed.contains (tileLyr t) | none => false)
  { s with pkg := { s.pkg with lyen := BitVec.ofNat 16 lyen }, roles := s.roles.ended 3 }

/-- ROLE_GATE (R442 step 3). -/
def execRoleGate (s : State) : Out := roleStep 3 State.roleGate s

/-! ## ENUM, CHECK, RELEASE, ABORT -/

/-- LMSIZE of every stack (R441). -/
def lmSizes (roles : Nat) : AMap Nat := (List.range 4).map fun k => (k, lmSizeIn roles k)

/-- ROLES and LMSIZE are written. -/
def State.setRoles (s : State) (roles : Nat) : State := { s with roles := { s.roles with roles := BitVec.ofNat 32 roles, lmsize := lmSizes roles } }

/-- Step 4: ROLES and LMSIZE, and UNPL of every court entry, a free one too. -/
def State.roleEnum (s : State) : State :=
  let new := s.roles.newRoles.toNat
  let s := s.setRoles new
  let s := (List.range 64).foldl (fun s n => if (s.court n).unpl == !(s.court n).fits new then s else s.modCourt n fun c => { c with unpl := !c.fits new }) s
  { s with roles := s.roles.ended 4 }

/-- ROLE_ENUM (R442 step 4). -/
def execRoleEnum (s : State) : Out := roleStep 4 State.roleEnum s

/-- Step 5: a layer whose power-good state differs from its role gives POWER, and is set off. -/
def State.roleCheck (powerGood : BitVec 16) (s : State) : State :=
  let roles := s.roles.roles.toNat
  let bad := (List.range 16).filter fun i => (roleIn roles (i / 4) (i % 4) != 0) != powerGood.getLsbD i
  if bad.isEmpty then { s with roles := s.roles.ended 5 }
  else
    let s := bad.foldl (fun s i =>
      if roleIn s.roles.roles.toNat (i / 4) (i % 4) = 0 then s
      else (s.regate (i / 4) (i % 4) (roleIn s.roles.roles.toNat (i / 4) (i % 4)) 0).setRoles (setRole s.roles.roles.toNat (i / 4) (i % 4) 0)) s
    let lyen := bad.foldl (fun a i => nsetBit a i false) s.pkg.lyen.toNat
    { s with roles := s.roles.failed 4, pkg := { s.pkg with lyen := BitVec.ofNat 16 lyen } }

/-- ROLE_CHECK (R442 step 5): the power-good inputs of the layer rails, bit 4s + y. -/
def execRoleCheck (powerGood : BitVec 16) (s : State) : Out := roleStep 5 (State.roleCheck powerGood) s

/-- ROLE_RELEASE (R442 step 6): CLOSING is cleared; dispatch resumes onto the stack. -/
def execRoleRelease (s : State) : Out := roleStep 6 (fun s => { s with roles := { s.roles.ended 6 with closing := false } }) s

/-- The places of n bytes of layer memory from a stack offset on: scratchpad places and lengths, page by page. -/
def State.layerPieces (s : State) (stk : Nat) : Nat → Nat → Nat → List (Nat × Nat)
  | 0, _, _ => []
  | fuel + 1, u, n =>
    if n = 0 then []
    else
      let m := min n (4096 - u % 4096)
      (match s.layerAt stk u with | some (t, o) => [(scratchKey t o, m)] | none => []) ++ State.layerPieces s stk fuel (u + m) (n - m)

/-- What step 2 did not copy is lost: the layer memory of the stack outside every write-back range reads as memory that nothing has written (R442; DESIGN CHOICE,
notes/assumptions/119.md). -/
def State.discardLayers (s : State) (stk : Nat) : State :=
  let kept := s.ranges.flatMap fun p =>
    if rgV p.2 && rgTgt p.2 == 3 && rgTstk p.2 == stk && rgWb p.2 then s.layerPieces stk (rgLen p.2 / 4096 + 2) (rgToff p.2) (rgLen p.2) else []
  s.dropKeys fun k =>
    decide (scratchBase ≤ k) && decide (k < spillBase) && (match keyTile k with | some t => tileStk t == stk && (s.memLayers stk).contains (tileLyr t) | none => false)
      && !kept.any fun q => decide (q.1 ≤ k) && decide (k < q.1 + q.2)

/-- ROLE_ABORT (R442): CLOSING is cleared and ROLES stays; after step 2 the discarded layer memory is lost. -/
def execRoleAbort (s : State) : Out :=
  roleStep 7 (fun s =>
    let s := if s.roles.rdone = 2 then s.discardLayers s.roles.rstk else s
    { s with roles := { s.roles with busy := false, closing := false, rstat := 0 } }) s

end Sys2Proof.Machine
end

