-- ==== Sys2Proof/Machine/BringUp.lean ====
section
/-! DEFINITION. Package reset, bring-up and the thermal trip (spec/23_package.md R475 to R482), and bit errors (spec/06_mem_spaces.md R152). -/

namespace Sys2Proof.Machine

/-! ## Reset (R10, R475, R477) -/

/-- The package at its reset values: what lies outside it (TIME's passing, the host's memory, the second tier's devices, the schedule) goes on. -/
def State.packageReset (s : State) : State :=
  { State.reset with
    mem := s.mem.filter fun c => decide (secondBase ≤ c.1) && decide (c.1 < scratchBase),
    marks := s.marks.filter fun a => decide (secondBase ≤ a) && decide (a < scratchBase),
    agenda := s.agenda }

/-- PACKAGE_RESET (R475): RSTN is driven low. -/
def execPackageReset (s : State) : Out := .next s.packageReset

/-- THERMTRIP (R477, R482): the layer rails drop, and the package is as after reset, but for its status, until RSTN is cycled. -/
def execThermtrip (s : State) : Out :=
  let p := s.pkg.fatalFail 8 0
  .next { s.packageReset with
    time := s.time,
    pkg := { rstn := p.rstn, pkgid := p.pkgid, phase := p.phase, fatal := true, prior := p.prior, fail := p.fail, detail := p.detail, msAt := p.msAt,
             riseAt := p.riseAt, thermtrip := true } }

/-! ## Phases (R478, R482) -/

/-- Bring-up goes on to the next phase. -/
def State.toPhase (s : State) (n : Nat) : State := { s with pkg := { s.pkg with phase := n, msAt := s.time } }

/-- A phase event acts in the phase before its own, while bring-up has not stopped. -/
def phaseEvent (before : Nat) (f : State → State) (s : State) : Out :=
  .next (if s.pkg.rstn && !s.pkg.fatal && s.pkg.phase == before then f (s.toPhase (before + 1)) else s)

/-- RSTN_RISE (R475 to R478): PKGID is sampled; the ROM phase begins, when the rails have been good for long enough and no thermal trip stands. -/
def execRstnRise (pkgid : BitVec 12) (railsGood : Bool) (s : State) : Out :=
  .next
    (if s.pkg.rstn then s
     else
       let s := { s with pkg := { s.pkg with rstn := true, pkgid := pkgid, riseAt := s.time, msAt := s.time } }
       if railsGood && !s.pkg.thermtrip then s.toPhase 1 else { s with pkg := s.pkg.fatalFail 9 0 })

/-- PHASE_AUTH (R478, R443): the ROM phase ends with an authentic image, whose measurement is set, or stops. -/
def execPhaseAuth (fw : FwResult) (s : State) : Out :=
  match fw with
  | .ok image => phaseEvent 1 (fun s => { s with pkg := { s.pkg with measure := measureOf image } }) s
  | .badSignature => .next (if s.pkg.rstn && !s.pkg.fatal && s.pkg.phase == 1 then { s with pkg := s.pkg.fatalFail 1 0 } else s)
  | .badFormat => .next (if s.pkg.rstn && !s.pkg.fatal && s.pkg.phase == 1 then { s with pkg := s.pkg.fatalFail 2 0 } else s)

/-- The window of a CXL port in 256 MiB units (R160): the capacity reported, rounded down, at most 768 GiB. -/
def cxlWindow (cap : Nat) : Nat := min (cap / 2 ^ 28) 3072

/-- The control items of base die d as bring-up writes them (R153, R160). -/
def Die.control (x : Die) (d : Nat) (cxl : List Nat) (base : List Word) : Die :=
  let win := fun (i : Nat) => cxlWindow (cxl.getD i 0)
  let at_ := fun (i : Nat) => (List.range i).foldl (fun a j => a + win j) 0
  let w := fun (i v : Nat) => BitVec.ofNat 64 ((base.getD i 0).toNat % v)
  { x with hwbase := w 0 (2 ^ 11), swbase := w 1 (2 ^ 15), mpbase := base.getD 2 0, mpframes := BitVec.ofNat 64 (min (base.getD 3 0).toNat 262144),
           cxlwin0 := BitVec.ofNat 64 (win (2 * d)), cxlwin1 := BitVec.ofNat 64 (win (2 * d + 1)),
           cxlbase0 := BitVec.ofNat 64 (at_ (2 * d)), cxlbase1 := BitVec.ofNat 64 (at_ (2 * d + 1)) }

/-- The base phase: HBM test results, the capacities that the CXL ports report in bytes (0 for none), and the control items of the base dies. -/
def State.phaseBase (s : State) (hbm : BitVec 8) (cxl : List Nat) (base : List (List Word)) : State :=
  let live := fun (i : Nat) => cxl.getD i 0 != 0
  let ok := hbm.toNat + (List.range 8).foldl (fun a i => a + bnat (live i) * 2 ^ (8 + i)) 0
  let s := (List.range 4).foldl (fun s d => s.modDie d fun x => x.control d cxl (base.getD d [])) s
  let p := { s.pkg with devok := BitVec.ofNat 17 ok }
  let p := match (List.range 8).find? fun i => !live i with | some i => p.mildFail 4 i | none => p
  { s with pkg := match (List.range 8).find? fun i => !hbm.getLsbD i with | some i => p.fatalFail 3 i | none => p }

/-- PHASE_BASE (R478 phase 3). -/
def execPhaseBase (hbmOk : BitVec 8) (cxl : List Nat) (base : List (List (BitVec 64))) (s : State) : Out :=
  phaseEvent 2 (fun s => s.phaseBase hbmOk cxl base) s

/-- Every package port of every base die changed. -/
def State.modPorts (s : State) (f : PortLink → PortLink) : State :=
  (List.range 4).foldl (fun s d => s.modDie d fun x => { x with ports := (List.range 24).map fun p => (p, f (x.ports.at p {})) }) s

/-- The Ngambi link is up or down (R379, R479). -/
def State.setCard (s : State) (up : Bool) : State :=
  s.modDie 0 fun x => { x with ports := x.ports.upd 76 {} fun l => l.fresh (if up then 0 else 3) }

/-- PHASE_LINKS (R478 phase 4): every package port trains, and the Ngambi link has trained or failed. -/
def execPhaseLinks (ngambiOk : Bool) (s : State) : Out :=
  phaseEvent 3 (fun s =>
    let s := (s.modPorts fun l => { l with st := 2 }).setCard ngambiOk
    { s with pkg := if ngambiOk then { s.pkg with devok := BitVec.ofNat 17 (s.pkg.devok.toNat % 2 ^ 16 + 2 ^ 16) } else s.pkg.fatalFail 6 0 }) s

/-! ## Package ports (R479) -/

/-- The torus neighbour of a package in a direction (R360, R376). -/
def torusNext (pkg dir : Nat) : Nat :=
  let c := nfld pkg (4 * (dir / 2) + 3) (4 * (dir / 2))
  let c' := if dir % 2 = 0 then (c + 1) % 16 else (c + 15) % 16
  pkg - c * 2 ^ (4 * (dir / 2)) + c' * 2 ^ (4 * (dir / 2))

/-- The opposite direction. -/
def torusBack (dir : Nat) : Nat := if dir % 2 = 0 then dir + 1 else dir - 1

/-- Does a training word name the right partner of port k in direction dir. -/
def partnerOk (pkg dir k : Nat) (w : TrainWord) : Bool := w.package.toNat == torusNext pkg dir && w.dir == torusBack dir && w.port == k

/-- Port k of direction dir changed, and its bit of PORTUP. -/
def State.setPort (s : State) (dir k : Nat) (up : Bool) : State :=
  let d := k / 4
  let q := dir * 4 + k % 4
  let s := s.modDie d fun x => { x with ports := x.ports.upd q {} fun l => l.fresh (if up then 0 else 3) }
  { s with pkg := s.pkg.setUp d q up }

/-- A port goes DOWN (R479, R482). -/
def State.portFails (s : State) (dir k : Nat) : State :=
  let s := s.setPort dir k false
  { s with pkg := s.pkg.mildFail 5 (16 * dir + k) }

/-- The link of port k of direction dir. -/
def State.portLink (s : State) (dir k : Nat) : PortLink := (s.die (k / 4)).ports.at (dir * 4 + k % 4) {}

/-- Has a port in training not come up 100 ms after the start of phase 4 (R479). -/
def State.portLate (s : State) (dir k : Nat) : Bool := (s.portLink dir k).st == 2 && decide (s.pkg.phase = 4) && decide (s.pkg.msAt + 250000000 ≤ s.time)

/-- PORT_TRAINING (R479): the training word that comes from the partner; one that comes too late finds the port DOWN. A port that is DOWN trains again when firmware
retrains it. -/
def execPortTraining (dir port : Nat) (word : TrainWord) (s : State) : Out :=
  if dir < 6 ∧ port < 16 then
    .next (let l := s.portLink dir port
           if 4 ≤ s.pkg.phase ∧ s.pkg.fatal = false ∧ (l.st = 2 ∨ l.st = 3) then
             (if partnerOk s.pkg.pkgid.toNat dir port word && !s.portLate dir port then s.setPort dir port true else s.portFails dir port)
           else s)
  else .fault .noSuchUnit

/-- PORT_TRAINING_TIMEOUT (R479): a port that has not come up 100 ms after the start of phase 4. -/
def execPortTrainingTimeout (dir port : Nat) (s : State) : Out :=
  if dir < 6 ∧ port < 16 then
    .next (if s.pkg.fatal = false ∧ s.portLate dir port = true then s.portFails dir port else s)
  else .fault .noSuchUnit

/-! ## Roles and run (R478, R480, R481) -/

/-- Has every package port come up or gone DOWN: the end of phase 4. -/
def State.portsDone (s : State) : Bool := (List.range 4).all fun d => (s.die d).ports.all fun p => p.2.st != 2

/-- PHASE_ROLES (R478 phase 5): the pattern table is loaded and locked. -/
def execPhaseRoles (pats : List (BitVec 32)) (s : State) : Out :=
  if s.portsDone then
    phaseEvent 4 (fun s =>
      let l := pats.take 32
      { s with roles := { s.roles with tplock := true, tpcnt := l.length, tpat := (List.range l.length).zip l } }) s
  else .next s

/-- Fabric, queue and counter state of a tile at its reset values (R445, R446, R456, R460, R478). -/
def Tile.quieted (x : Tile) : Tile :=
  { x with rt := {}, ni := {}, colq := [], cpyq := [], fifo := [], outbox := [], tccReq := [], cellReq := [], cpyReq := [], netReq := [], gather := [],
           reg := { x.reg with pmcnt := [], mlevel := 64, clevel := 64, ccred := 64 },
           col := { x.col with phaseEnd := 0, cnt := [], acnt := [], given := [], taken := [], reqout := [],
                               mc := x.col.mc.mapVals fun k => { k with spos := 0, dpos := 0, pgev := 0, mcred := 64 } } }

/-- Fabric, queue and counter state of a base die at its reset values: its ports stay up or down. -/
def Die.quieted (x : Die) : Die :=
  { x with rt := {}, ni := {}, reqs := [], slotUsed := [], notices := [], due := [], ports := x.ports.mapVals fun l => { l.fresh l.st with txSeq := 0, ret := [], shed := 0, crc := 0 } }

/-- PHASE_RUN (R478 phase 6). -/
def execPhaseRun (s : State) : Out :=
  if s.roles.busy || s.roles.closing then .next s
  else
    phaseEvent 5 (fun s =>
      { s with tiles := s.tiles.mapVals Tile.quieted, dies := s.dies.mapVals Die.quieted, ngambi := {}, dispQ := [], farReads := [] }) s

/-! ## Bit errors (R152) -/

/-- A bit error strikes the word at a place: a single one is corrected at its next read, more cannot be corrected. -/
def State.strike (s : State) (key : Nat) (multi : Bool) : State :=
  if multi then { s with hard := setAdd s.hard key, soft := setDel s.soft key }
  else if s.hard.contains key then s else { s with soft := setAdd s.soft key }

/-- SOFT_ERROR (R152, R161, R177): an error strikes a word of a tile's memory, or a 32-byte granule of HBM or of the second tier. In those two one that can
be corrected leaves no trace; one that cannot, or poison that a device reports, poisons the granule. -/
def execSoftError (place : ErrPlace) (multi : Bool) (s : State) : Out :=
  let hit := fun (t w n key : Nat) => if t < numTiles ∧ w < n then Host.Outcome.next (s.strike key multi) else .fault .noSuchUnit
  match place with
  | .spill t w => hit t w 8192 (spillKey t (8 * w))
  | .scratch t w => hit t w 524288 (scratchKey t (8 * w))
  | .istore t w => hit t w 32768 (istoreKey t (8 * w))
  | .ctx t w => hit t w 32768 (ctxKey t (8 * w))
  | .acc t w =>
    if t < numTiles ∧ w < 131072 then
      .next (if multi then s.modArr t fun a => { a with accBad := setAdd a.accBad w, accSoft := setDel a.accSoft w }
        else if (s.arr t).accBad.contains w then s else s.modArr t fun a => { a with accSoft := setAdd a.accSoft w })
    else .fault .noSuchUnit
  | .hbm g => if g < 2 ^ 34 then .next (if multi then { s with marks := s.marks.setTo (hbmBase + 32 * g) true } else s) else .fault .noSuchUnit
  | .second g => if g < 2 ^ 38 then .next (if multi then { s with marks := s.marks.setTo (secondBase + 32 * g) true } else s) else .fault .noSuchUnit

end Sys2Proof.Machine
end

