-- ==== Sys2Proof/Machine/Engine.lean ====
section
/-! DEFINITION. Engine commands, engine fences and queries as the TCC issues them (spec/09_q_engines.md R233, R242 to R244; spec/10_q_collar.md R285). -/

namespace Sys2Proof.Machine

/-- The court of the issuing task has exhausted its energy quota (R233, R285, R459). -/
def State.quotaOut (s : State) : Bool := (s.court (courtCrt s.curTile.reg.court)).ex

/-- Append a command at the tail of an engine's queue (R233): e = 1 COL, 2 CPY. -/
def State.queueCmd (s : State) (e cmd : Nat) (f : BitVec 4) (a b : Word) : State :=
  let c : Cmd := { uid := s.nextId, cmd := cmd, flags := f.toNat, slot := s.focusS, a := a, b := b, entry := s.curEntry, priv := s.curPriv }
  { s with nextId := s.nextId + 1 }.modTile s.focusT fun x =>
    if e = 1 then { x with colq := x.colq ++ [c] } else { x with cpyq := x.cpyq ++ [c] }

/-- The form of an engine command (R233): both values are consuming reads; it is not ready while its queue is full; a FIRE or COPY under an
exhausted quota traps. -/
def State.cmdForm (s : State) (g : BitVec 4) (e cmd : Nat) (rd : List Nat) (f : BitVec 4) (a b : Word) (metered : Bool) : Out :=
  s.issue { g := g, rd := rd, cls := .cmd } (if !s.curTile.cmdRoom e then .next s else s.consume rd
    (if metered && s.quotaOut then s.trapHere cQuota 0 else (s.queueCmd e cmd f a b).retire id))

/-- CFGLD (R233, R281). -/
def execCfgld (g : BitVec 4) (a : BitVec 6) (f : BitVec 4) (s : State) : Out :=
  s.cmdForm g 1 0 [a.toNat] f (s.reg a.toNat) 0 false

/-- CFGPART (R233, R281). -/
def execCfgpart (g : BitVec 4) (a b : BitVec 6) (f : BitVec 4) (s : State) : Out :=
  s.cmdForm g 1 1 [a.toNat, b.toNat] f (s.reg a.toNat) (s.reg b.toNat) false

/-- FIRE (R233, R281, R285): QUOTA at issue. -/
def execFire (g : BitVec 4) (a b : BitVec 6) (f : BitVec 4) (s : State) : Out :=
  s.cmdForm g 1 2 [a.toNat, b.toNat] f (s.reg a.toNat) (s.reg b.toNat) true

/-- BIND (R233, R281). -/
def execBind (g : BitVec 4) (a b : BitVec 6) (f : BitVec 4) (s : State) : Out :=
  s.cmdForm g 1 3 [a.toNat, b.toNat] f (s.reg a.toNat) (s.reg b.toNat) false

/-- TSET (R233, R281). -/
def execTset (g : BitVec 4) (a b : BitVec 6) (f : BitVec 4) (s : State) : Out :=
  s.cmdForm g 1 4 [a.toNat, b.toNat] f (s.reg a.toNat) (s.reg b.toNat) false

/-- CSTOP (R233, R281). -/
def execCstop (g : BitVec 4) (a : BitVec 6) (f : BitVec 4) (s : State) : Out :=
  s.cmdForm g 1 5 [a.toNat] f (s.reg a.toNat) 0 false

/-- CPYS (R233, R248). -/
def execCpys (g : BitVec 4) (a b : BitVec 6) (f : BitVec 4) (s : State) : Out :=
  s.cmdForm g 2 0 [a.toNat, b.toNat] f (s.reg a.toNat) (s.reg b.toNat) false

/-- CPYD (R233, R248). -/
def execCpyd (g : BitVec 4) (a b : BitVec 6) (f : BitVec 4) (s : State) : Out :=
  s.cmdForm g 2 1 [a.toNat, b.toNat] f (s.reg a.toNat) (s.reg b.toNat) false

/-- COPY (R233, R251): QUOTA at issue. -/
def execCopy (g : BitVec 4) (a b : BitVec 6) (f : BitVec 4) (s : State) : Out :=
  s.cmdForm g 2 2 [a.toNat, b.toNat] f (s.reg a.toNat) (s.reg b.toNat) true

/-- CPYF (R233, R248). -/
def execCpyf (g : BitVec 4) (a b : BitVec 6) (f : BitVec 4) (s : State) : Out :=
  s.cmdForm g 2 3 [a.toNat, b.toNat] f (s.reg a.toNat) (s.reg b.toNat) false

/-- EFENCE (R243): the task stands at it until every command that it queued before to a selected engine has retired. -/
def execEfence (g : BitVec 4) (m : BitVec 2) (s : State) : Out :=
  let own := fun (h : Hold) => match h with | .efence _ _ => true | _ => false
  s.issueOwn own { g := g }
    (let held := match s.cur.task with | some ti => ti.hold | none => .none
     let cmds : List Nat := match held with
       | .efence _ c => c
       | _ => s.curTile.taskCmds s.focusS s.curEntry m.toNat
     let stood := s.cur.held own
     if cmds.any s.curTile.hasCmd then
       (if stood then .next s else s.stand fun sl => sl.modTask fun ti => { ti with hold := .efence m.toNat cmds })
     else s.endIt stood fun sl => sl.modTask fun ti => { ti with hold := .none })

/-- The value of EQRY (R244). -/
def State.eqryValue (s : State) (m : BitVec 2) : Nat :=
  let x := s.curTile
  let e := x.ebusy
  let n := fun (k : Nat) => (x.taskCmds s.focusS s.curEntry k).length
  (if m.getLsbD 0 then place s.cur.lcol.toNat 32 8 + place (n 1) 8 4 + e % 2 else 0)
    + (if m.getLsbD 1 then place s.cur.lcpy.toNat 40 8 + place (n 2) 16 5 + e / 2 % 2 * 2 else 0)

/-- EQRY (R244): it clears the LCAUSE of each selected engine. -/
def execEqry (g : BitVec 4) (d : BitVec 6) (m : BitVec 2) (s : State) : Out :=
  s.issue { g := g, wr := [d.toNat] } (s.retire fun sl =>
    let sl := { sl with lcol := if m.getLsbD 0 then 0 else sl.lcol, lcpy := if m.getLsbD 1 then 0 else sl.lcpy }
    sl.modRf fun r => r.set d.toNat { val := BitVec.ofNat 64 (s.eqryValue m) })

end Sys2Proof.Machine
end

