-- ==== Sys2Proof/Machine/FloatOps.lean ====
section
/-! DEFINITION. Floating instructions on W36 (spec/04_reg_arith.md R124 to R132). -/

namespace Sys2Proof.Machine

/-- The form of a floating instruction with a scalar result (R124, R126). -/
def State.fpForm (s : State) (g : BitVec 4) (d : BitVec 6) (rd : List Nat) (fdiv : Bool) (r : W36 × Flags) : Out :=
  s.issue { g := g, rd := rd, wr := [d.toNat], fdiv := fdiv } (s.consume rd
    (s.flyFp { dst := d.toNat, val := ofW36 r.1, flags := r.2, isFdiv := fdiv }))

/-- The W36 operand in a scalar register of the issuing task. -/
def State.fop (s : State) (a : BitVec 6) : W36 := toW36 (s.reg a.toNat)

/-- FADD (R126 to R128). -/
def execFadd (g : BitVec 4) (d a b : BitVec 6) (s : State) : Out :=
  s.fpForm g d [a.toNat, b.toNat] false (w36Add (s.fop a) (s.fop b))

/-- FSUB (R126 to R128). -/
def execFsub (g : BitVec 4) (d a b : BitVec 6) (s : State) : Out :=
  s.fpForm g d [a.toNat, b.toNat] false (w36Sub (s.fop a) (s.fop b))

/-- FMUL (R126 to R128). -/
def execFmul (g : BitVec 4) (d a b : BitVec 6) (s : State) : Out :=
  s.fpForm g d [a.toNat, b.toNat] false (w36Mul (s.fop a) (s.fop b))

/-- FMIN (R126 to R128). -/
def execFmin (g : BitVec 4) (d a b : BitVec 6) (s : State) : Out :=
  s.fpForm g d [a.toNat, b.toNat] false (w36Min (s.fop a) (s.fop b))

/-- FMAX (R126 to R128). -/
def execFmax (g : BitVec 4) (d a b : BitVec 6) (s : State) : Out :=
  s.fpForm g d [a.toNat, b.toNat] false (w36Max (s.fop a) (s.fop b))

/-- FMA (R126, R127): the addend s[d] is a consuming read. -/
def execFma (g : BitVec 4) (d a b : BitVec 6) (s : State) : Out :=
  s.fpForm g d [a.toNat, b.toNat, d.toNat] false (w36Fma (s.fop a) (s.fop b) (s.fop d))

/-- FDIV (R126, R127): it takes the tile's float divider (R125). -/
def execFdiv (g : BitVec 4) (d a b : BitVec 6) (s : State) : Out :=
  s.fpForm g d [a.toNat, b.toNat] true (w36Div (s.fop a) (s.fop b))

/-- FSQRT (R126, R127): it takes the tile's float divider (R125). -/
def execFsqrt (g : BitVec 4) (d a : BitVec 6) (s : State) : Out := s.fpForm g d [a.toNat] true (w36Sqrt (s.fop a))

/-- FABS (R128). -/
def execFabs (g : BitVec 4) (d a : BitVec 6) (s : State) : Out := s.fpForm g d [a.toNat] false (w36Abs (s.fop a), fNone)

/-- FNEG (R128). -/
def execFneg (g : BitVec 4) (d a : BitVec 6) (s : State) : Out := s.fpForm g d [a.toNat] false (w36Flip (s.fop a), fNone)

/-- FCLASS (R128). -/
def execFclass (g : BitVec 4) (d a : BitVec 6) (s : State) : Out :=
  s.fpForm g d [a.toNat] false (BitVec.ofNat 36 (w36Class (s.fop a)), fNone)

/-- FCVT (R129 to R131): x is DFMT, y is SFMT, r is RM. -/
def execFcvt (g : BitVec 4) (d a : BitVec 6) (x y : BitVec 3) (r : BitVec 2) (s : State) : Out :=
  s.issue { g := g, rd := [a.toNat], wr := [d.toNat] } (s.consume [a.toNat]
    (let v := fcvt x.toNat y.toNat (RMode.ofCode r.toNat) (s.reg a.toNat)
     s.flyFp { dst := d.toNat, val := { val := v.1 }, flags := v.2 }))

/-- FCMP (R132). -/
def execFcmp (g : BitVec 4) (p c : BitVec 3) (a b : BitVec 6) (s : State) : Out :=
  s.issue { g := g, rd := [a.toNat, b.toNat], wp := [p.toNat] } (s.consume [a.toNat, b.toNat]
    (let v := w36Cmp c.toNat (s.fop a) (s.fop b)
     s.flyFp { isPred := true, dst := p.toNat, val := { val := BitVec.ofNat 64 (bnat v.1) }, flags := v.2 }))

end Sys2Proof.Machine
end

