-- ==== Sys2Proof/Machine/Integer.lean ====
section
/-! DEFINITION. Integer instructions: ALU, multiply and divide, bit operations, immediates, constants and shift-add
(spec/03_reg_core.md R91 to R96). -/

namespace Sys2Proof.Machine

/-- The form of a two-source ALU instruction (R91): both reads are consuming, the result is written with poison clear. -/
def State.alu2 (s : State) (g : BitVec 4) (d a b : BitVec 6) (f : Word → Word → Word) : Out :=
  s.issue { g := g, rd := [a.toNat, b.toNat], wr := [d.toNat] } (s.consume [a.toNat, b.toNat]
    (s.retire fun sl => sl.modRf fun r => r.set d.toNat { val := f (s.reg a.toNat) (s.reg b.toNat) }))

/-- The form of a one-source instruction (R93, R94). -/
def State.alu1 (s : State) (g : BitVec 4) (d a : BitVec 6) (f : Word → Word) : Out :=
  s.issue { g := g, rd := [a.toNat], wr := [d.toNat] } (s.consume [a.toNat]
    (s.retire fun sl => sl.modRf fun r => r.set d.toNat { val := f (s.reg a.toNat) }))

/-- The form of a multiply (R92): the result is in flight until it completes. -/
def State.mulForm (s : State) (g : BitVec 4) (d : BitVec 6) (rd : List Nat) (v : Word) : Out :=
  s.issue { g := g, rd := rd, wr := [d.toNat] } (s.consume rd
    (s.retire fun sl => { sl with infl := sl.infl ++ [{ dst := d.toNat, val := { val := v } }] }))

/-- The form of a divide (R86, R92): it takes the tile's one divider until it completes. -/
def State.divForm (s : State) (g : BitVec 4) (d a b : BitVec 6) (v : Word) : Out :=
  s.issue { g := g, rd := [a.toNat, b.toNat], wr := [d.toNat], div := true } (s.consume [a.toNat, b.toNat]
    (s.retire fun sl => { sl with infl := sl.infl ++ [{ dst := d.toNat, val := { val := v }, isDiv := true }] }))

/-- Rotate left by y[5:0] (R91). -/
def rol64 (x y : Word) : Word := x.rotateLeft (y.toNat % 64)

/-- MULH: bits [127:64] of the signed product (R92). -/
def mulh64 (x y : Word) : Word := BitVec.ofNat 64 (wrapInt 64 (x.toInt * y.toInt / 2 ^ 64))
/-- MULHU: bits [127:64] of the unsigned product (R92). -/
def mulhu64 (x y : Word) : Word := BitVec.ofNat 64 (x.toNat * y.toNat / 2 ^ 64)
/-- DIV (R92). -/
def div64 (x y : Word) : Word :=
  if y = 0 then 0xFFFFFFFFFFFFFFFF#64
  else if x = 0x8000000000000000#64 ∧ y = 0xFFFFFFFFFFFFFFFF#64 then x
  else int64 (Int.tdiv x.toInt y.toInt)
/-- DIVU (R92). -/
def divu64 (x y : Word) : Word := if y = 0 then 0xFFFFFFFFFFFFFFFF#64 else BitVec.ofNat 64 (x.toNat / y.toNat)
/-- REM (R92). -/
def rem64 (x y : Word) : Word :=
  if y = 0 then x
  else if x = 0x8000000000000000#64 ∧ y = 0xFFFFFFFFFFFFFFFF#64 then 0
  else int64 (x.toInt - y.toInt * Int.tdiv x.toInt y.toInt)
/-- REMU (R92). -/
def remu64 (x y : Word) : Word := if y = 0 then x else BitVec.ofNat 64 (x.toNat % y.toNat)

/-- ADD (R91). -/
def execAdd (g : BitVec 4) (d a b : BitVec 6) (s : State) : Out := s.alu2 g d a b fun x y => x + y

/-- SUB (R91). -/
def execSub (g : BitVec 4) (d a b : BitVec 6) (s : State) : Out := s.alu2 g d a b fun x y => x - y

/-- AND (R91). -/
def execAnd (g : BitVec 4) (d a b : BitVec 6) (s : State) : Out := s.alu2 g d a b fun x y => x &&& y

/-- OR (R91): a move, poison and all, when exactly one source is s0 (R82). -/
def execOr (g : BitVec 4) (d a b : BitVec 6) (s : State) : Out :=
  if a = 0 ∨ b = 0 then
    let m := if a = 0 then b else a
    s.issue { g := g, rd := [m.toNat], wr := [d.toNat] }
      (s.retire fun sl => sl.modRf fun r => r.set d.toNat (r.get m.toNat))
  else s.alu2 g d a b fun x y => x ||| y

/-- XOR (R91). -/
def execXor (g : BitVec 4) (d a b : BitVec 6) (s : State) : Out := s.alu2 g d a b fun x y => x ^^^ y

/-- ANDN (R91). -/
def execAndn (g : BitVec 4) (d a b : BitVec 6) (s : State) : Out := s.alu2 g d a b fun x y => x &&& ~~~y

/-- SHL (R91). -/
def execShl (g : BitVec 4) (d a b : BitVec 6) (s : State) : Out := s.alu2 g d a b fun x y => x <<< (y.toNat % 64)

/-- SHR (R91). -/
def execShr (g : BitVec 4) (d a b : BitVec 6) (s : State) : Out := s.alu2 g d a b fun x y => x >>> (y.toNat % 64)

/-- SRA (R91). -/
def execSra (g : BitVec 4) (d a b : BitVec 6) (s : State) : Out := s.alu2 g d a b fun x y => x.sshiftRight (y.toNat % 64)

/-- ROL (R91). -/
def execRol (g : BitVec 4) (d a b : BitVec 6) (s : State) : Out := s.alu2 g d a b fun x y => rol64 x y

/-- MIN (R91). -/
def execMin (g : BitVec 4) (d a b : BitVec 6) (s : State) : Out := s.alu2 g d a b fun x y => if x.toInt < y.toInt then x else y

/-- MAX (R91). -/
def execMax (g : BitVec 4) (d a b : BitVec 6) (s : State) : Out := s.alu2 g d a b fun x y => if y.toInt < x.toInt then x else y

/-- MINU (R91). -/
def execMinu (g : BitVec 4) (d a b : BitVec 6) (s : State) : Out := s.alu2 g d a b fun x y => if x.toNat < y.toNat then x else y

/-- MAXU (R91). -/
def execMaxu (g : BitVec 4) (d a b : BitVec 6) (s : State) : Out := s.alu2 g d a b fun x y => if y.toNat < x.toNat then x else y

/-- MUL (R92). -/
def execMul (g : BitVec 4) (d a b : BitVec 6) (s : State) : Out :=
  s.mulForm g d [a.toNat, b.toNat] (s.reg a.toNat * s.reg b.toNat)

/-- MULH (R92). -/
def execMulh (g : BitVec 4) (d a b : BitVec 6) (s : State) : Out :=
  s.mulForm g d [a.toNat, b.toNat] (mulh64 (s.reg a.toNat) (s.reg b.toNat))

/-- MULHU (R92). -/
def execMulhu (g : BitVec 4) (d a b : BitVec 6) (s : State) : Out :=
  s.mulForm g d [a.toNat, b.toNat] (mulhu64 (s.reg a.toNat) (s.reg b.toNat))

/-- MADD (R92): the addend s[d] is a consuming read. -/
def execMadd (g : BitVec 4) (d a b : BitVec 6) (s : State) : Out :=
  s.mulForm g d [a.toNat, b.toNat, d.toNat] (s.reg d.toNat + s.reg a.toNat * s.reg b.toNat)

/-- DIV (R92). -/
def execDiv (g : BitVec 4) (d a b : BitVec 6) (s : State) : Out :=
  s.divForm g d a b (div64 (s.reg a.toNat) (s.reg b.toNat))

/-- DIVU (R92). -/
def execDivu (g : BitVec 4) (d a b : BitVec 6) (s : State) : Out :=
  s.divForm g d a b (divu64 (s.reg a.toNat) (s.reg b.toNat))

/-- REM (R92). -/
def execRem (g : BitVec 4) (d a b : BitVec 6) (s : State) : Out :=
  s.divForm g d a b (rem64 (s.reg a.toNat) (s.reg b.toNat))

/-- REMU (R92). -/
def execRemu (g : BitVec 4) (d a b : BitVec 6) (s : State) : Out :=
  s.divForm g d a b (remu64 (s.reg a.toNat) (s.reg b.toNat))

/-- CLZ (R93). -/
def execClz (g : BitVec 4) (d a : BitVec 6) (s : State) : Out := s.alu1 g d a fun x => BitVec.ofNat 64 (clz64 x)

/-- CTZ (R93). -/
def execCtz (g : BitVec 4) (d a : BitVec 6) (s : State) : Out := s.alu1 g d a fun x => BitVec.ofNat 64 (ctz64 x)

/-- POPC (R93). -/
def execPopc (g : BitVec 4) (d a : BitVec 6) (s : State) : Out := s.alu1 g d a fun x => BitVec.ofNat 64 (popc64 x)

/-- BREV (R93). -/
def execBrev (g : BitVec 4) (d a : BitVec 6) (s : State) : Out := s.alu1 g d a fun x => brev64 x

/-- BSWAP (R93). -/
def execBswap (g : BitVec 4) (d a : BitVec 6) (s : State) : Out := s.alu1 g d a fun x => bswap64 x

/-- SEXTB (R93). -/
def execSextb (g : BitVec 4) (d a : BitVec 6) (s : State) : Out := s.alu1 g d a fun x => (x.setWidth 8).signExtend 64

/-- SEXTH (R93). -/
def execSexth (g : BitVec 4) (d a : BitVec 6) (s : State) : Out := s.alu1 g d a fun x => (x.setWidth 16).signExtend 64

/-- SEXTW (R93). -/
def execSextw (g : BitVec 4) (d a : BitVec 6) (s : State) : Out := s.alu1 g d a fun x => (x.setWidth 32).signExtend 64

/-- ZEXTB (R93). -/
def execZextb (g : BitVec 4) (d a : BitVec 6) (s : State) : Out := s.alu1 g d a fun x => (x.setWidth 8).setWidth 64

/-- ZEXTH (R93). -/
def execZexth (g : BitVec 4) (d a : BitVec 6) (s : State) : Out := s.alu1 g d a fun x => (x.setWidth 16).setWidth 64

/-- ZEXTW (R93). -/
def execZextw (g : BitVec 4) (d a : BitVec 6) (s : State) : Out := s.alu1 g d a fun x => (x.setWidth 32).setWidth 64

/-- ADDI (R94). -/
def execAddi (g : BitVec 4) (d a : BitVec 6) (i : BitVec 10) (s : State) : Out := s.alu1 g d a fun x => x + simm10 i

/-- ANDI (R94). -/
def execAndi (g : BitVec 4) (d a : BitVec 6) (i : BitVec 10) (s : State) : Out := s.alu1 g d a fun x => x &&& simm10 i

/-- ORI (R94). -/
def execOri (g : BitVec 4) (d a : BitVec 6) (i : BitVec 10) (s : State) : Out := s.alu1 g d a fun x => x ||| zimm10 i

/-- XORI (R94). -/
def execXori (g : BitVec 4) (d a : BitVec 6) (i : BitVec 10) (s : State) : Out := s.alu1 g d a fun x => x ^^^ zimm10 i

/-- SHLI (R94). -/
def execShli (g : BitVec 4) (d a n : BitVec 6) (s : State) : Out := s.alu1 g d a fun x => x <<< n.toNat

/-- SHRI (R94). -/
def execShri (g : BitVec 4) (d a n : BitVec 6) (s : State) : Out := s.alu1 g d a fun x => x >>> n.toNat

/-- SRAI (R94). -/
def execSrai (g : BitVec 4) (d a n : BitVec 6) (s : State) : Out := s.alu1 g d a fun x => x.sshiftRight n.toNat

/-- MOVI (R95): reads no register. -/
def execMovi (g : BitVec 4) (d : BitVec 6) (i : BitVec 16) (s : State) : Out :=
  s.issue { g := g, wr := [d.toNat] } (s.retire fun sl => sl.modRf fun r => r.set d.toNat { val := simm16 i })

/-- MOVH (R95): its read of s[d] is consuming. -/
def execMovh (g : BitVec 4) (d : BitVec 6) (i : BitVec 16) (s : State) : Out :=
  s.alu1 g d d fun x => (x <<< 16) ||| i.setWidth 64

/-- ADDS (R96). -/
def execAdds (g : BitVec 4) (d a b : BitVec 6) (k : BitVec 4) (s : State) : Out :=
  s.alu2 g d a b fun x y => x + (y <<< k.toNat)

end Sys2Proof.Machine
end

