-- ==== Sys2Proof/Machine/Power.lean ====
section
/-! DEFINITION. The power controller and the energy quota (spec/17_counters.md R456, R458, R459). -/

namespace Sys2Proof.Machine

/-- A meter level after a controller step that measured e watts under a grant of pwr (R458). -/
def levelStep (e pwr level : Nat) : Nat :=
  if pwr < e then max 1 (level - 8) else if 8 * e ≤ 7 * pwr then min 64 (level + 8) else level

/-- The quota counter after a controller step (R459). -/
def Court.spend (c : Court) (e : Nat) : Court :=
  let c := { c with lastE := e % 2 ^ 16 }
  if c.equota = 0 then c
  else if c.eqrem ≤ e then { c with eqrem := 0, ex := true }
  else { c with eqrem := c.eqrem - e }

/-- The controller's step for one court. -/
def State.powerCourt (s : State) (n e : Nat) : State :=
  let c := s.court n
  let pwr := grantPwr c.grant
  let s := (c.tiles.foldl (fun s t => s.settleMeters t) s).modCourt n fun c => c.spend e
  c.tiles.foldl (fun s t => s.modTile t fun x =>
    { x with reg := { x.reg with mlevel := levelStep e pwr x.reg.mlevel, clevel := levelStep e pwr x.reg.clevel } }) s

/-- The energy measured on a court, in whole microjoules; none listed is 0 (notes/assumptions/12.md). -/
def energyOf (l : List (Nat × Nat)) (n : Nat) : Nat := match l.find? fun p => p.1 == n with | some p => p.2 | none => 0

/-- POWER_CONTROLLER_STEP (R458, R459): once for every multiple of 2,500 reference cycles; powerAt counts the steps taken. -/
def execPowerControllerStep (energy : List (Nat × Nat)) (s : State) : Out :=
  .next
    (if s.time < 2500 * (s.powerAt + 1) then s
     else
       let s := { s with powerAt := s.powerAt + 1 }
       (s.courtNos.filter fun n => (s.court n).placed).foldl (fun s n => s.powerCourt n (energyOf energy n)) s)

end Sys2Proof.Machine
end

