-- ==== Sys2Proof/Machine/Predicate.lean ====
section
/-! DEFINITION. Compare, predicate logic and select (spec/03_reg_core.md R97 to R99). -/

namespace Sys2Proof.Machine

/-- The form of an instruction that writes one predicate from predicates (R98). -/
def State.plog (s : State) (g : BitVec 4) (d : BitVec 3) (ps : List Nat) (v : Bool) : Out :=
  s.issue { g := g, rp := ps, wp := [d.toNat] } (s.retire fun sl => sl.modRf fun r => r.setPred d.toNat v)

/-- CMP (R97). -/
def execCmp (g : BitVec 4) (p c : BitVec 3) (a b : BitVec 6) (s : State) : Out :=
  s.issue { g := g, rd := [a.toNat, b.toNat], wp := [p.toNat] } (s.consume [a.toNat, b.toNat]
    (s.retire fun sl => sl.modRf fun r => r.setPred p.toNat (intCond c.toNat (s.reg a.toNat) (s.reg b.toNat))))

/-- CMPI (R97). -/
def execCmpi (g : BitVec 4) (p c : BitVec 3) (a : BitVec 6) (i : BitVec 10) (s : State) : Out :=
  s.issue { g := g, rd := [a.toNat], wp := [p.toNat] } (s.consume [a.toNat]
    (s.retire fun sl => sl.modRf fun r => r.setPred p.toNat (intCond c.toNat (s.reg a.toNat) (simm10 i))))

/-- PAND (R98). -/
def execPand (g : BitVec 4) (d a b : BitVec 3) (s : State) : Out :=
  s.plog g d [a.toNat, b.toNat] (s.cur.rf.pred a.toNat && s.cur.rf.pred b.toNat)

/-- POR (R98). -/
def execPor (g : BitVec 4) (d a b : BitVec 3) (s : State) : Out :=
  s.plog g d [a.toNat, b.toNat] (s.cur.rf.pred a.toNat || s.cur.rf.pred b.toNat)

/-- PXOR (R98). -/
def execPxor (g : BitVec 4) (d a b : BitVec 3) (s : State) : Out :=
  s.plog g d [a.toNat, b.toNat] (s.cur.rf.pred a.toNat != s.cur.rf.pred b.toNat)

/-- PANDN (R98). -/
def execPandn (g : BitVec 4) (d a b : BitVec 3) (s : State) : Out :=
  s.plog g d [a.toNat, b.toNat] (s.cur.rf.pred a.toNat && !s.cur.rf.pred b.toNat)

/-- PNOT (R98). -/
def execPnot (g : BitVec 4) (d a : BitVec 3) (s : State) : Out := s.plog g d [a.toNat] (!s.cur.rf.pred a.toNat)

/-- PMOV (R98). -/
def execPmov (g : BitVec 4) (d a : BitVec 3) (s : State) : Out := s.plog g d [a.toNat] (s.cur.rf.pred a.toNat)

/-- SEL (R99): the selected operand moves with its poison, the other one is read consuming but does not trap (R82, R83). -/
def execSel (g : BitVec 4) (d a b : BitVec 6) (n : BitVec 1) (p : BitVec 3) (s : State) : Out :=
  let pick := if s.cur.rf.pred p.toNat != (n = 1) then a else b
  s.issue { g := g, rd := [a.toNat, b.toNat], wr := [d.toNat], rp := [p.toNat] }
    (s.retire fun sl => sl.modRf fun r => r.set d.toNat (r.get pick.toNat))

end Sys2Proof.Machine
end

