-- ==== Sys2Proof/Machine/FabricScan.lean ====
section
/-! DEFINITION. The scan items of the fabric and of the base dies (spec/06_mem_spaces.md R153; spec/13_q_fabric.md R362, R363, R380, R381; spec/15_t_launch.md R405,
R406; spec/16_t_system.md R429, R430, R437, R441, R443; spec/17_counters.md R459, R462, R463; spec/23_package.md R482). A read answers none where no item is
assigned. -/

namespace Sys2Proof.Machine

/-- 64-bit word w of a wider value. -/
def quad (v w : Nat) : Nat := v / 2 ^ (64 * w) % 2 ^ 64

/-! ## Packets as words (R362, R363) -/

/-- A header as its 256 bits. -/
def Hdr.bits (h : Hdr) : Nat :=
  place h.dpkg 244 12 + place h.dtile 234 10 + place h.spkg 222 12 + place h.stile 212 10 + place h.vc 208 4 + place h.kind 205 3
    + place (bnat h.trim) 204 1 + place (bnat h.ord) 203 1 + place h.depoff 197 6 + place h.stream 189 8 + place h.seq 157 32 + place h.lowoff 151 6
    + place h.len 147 4 + place h.asid 136 11 + place h.tslot 132 4 + place h.unit 126 6 + place h.status 123 3 + place h.aop 119 4
    + place (bnat h.cen) 118 1 + place h.nbm1 110 8 + place h.coff 88 22 + place h.rtag 80 8 + place (bnat h.ded) 79 1 + place h.crt 73 6
    + place (bnat h.bd) 72 1 + place (bnat h.mig) 71 1 + place h.tgt 69 2 + place h.rsv 56 13 + place h.addr 0 56

/-- The value of payload bytes. -/
def payBits (bs : List MByte) : Nat := ofBytes (bs.map (·.val))

/-- The data of a flit. -/
def Flit.bits (f : Flit) : Nat := match f with | .head h _ => h.bits | .body bs _ => payBits bs

/-- The sideband of a flit: the byte enables and the poison bits of its bytes (R363), as the device packs them. -/
def Flit.side (f : Flit) : Nat :=
  match f with
  | .head _ _ => (Config.scanPack 2 []).toNat
  | .body bs _ => (Config.scanPack 2 (bs.map fun b => bnat b.en + 2 * bnat b.poi)).toNat

/-- Word w of a packet: its header flit, then its payload. -/
def Packet.word (p : Packet) (w : Nat) : Nat := if w < 4 then quad p.h.bits w else payBits ((p.pay.drop (8 * (w - 4))).take 8)

/-! ## Routers and interfaces (R380, R381) -/

/-- A VC buffer entry: words 0 to 3 the data, 4 the sideband. -/
def Router.vcItem (r : Router) (port vc e w : Nat) : Option Nat :=
  if 4 < w then none
  else match (r.ins.at (port * 16 + vc) [])[e]? with
  | some f => some (if w = 4 then f.side else quad f.bits w)
  | none => some 0

/-- The VC map of an output, pair by pair. -/
def OutPort.vcBits (o : OutPort) : Nat := o.vcmap.foldl (fun a p => a + place p.2 (19 * p.1) 19) 0

/-- The VC map that a value of 95 bits holds. -/
def vcMapOf (v : Nat) : AMap Nat :=
  (List.range 5).filterMap fun q => let e := nfld v (19 * q + 18) (19 * q); if e = 0 then none else some (q, e)

/-- An output control item: 0 TRIMTH, 1 the slot table, 2 word w of the VC map. -/
def OutPort.item (o : OutPort) (i w : Nat) : Option Nat :=
  match i with
  | 0 => some o.trimth
  | 1 => some o.slots.toNat
  | 2 => some (quad o.vcBits w)
  | _ => none

/-- An output control item written (R366, R380): a slot table with more than 14 owned entries is refused. -/
def OutPort.setItem (o : OutPort) (i w v : Nat) : OutPort :=
  match i with
  | 0 => { o with trimth := v % 2 ^ 16 }
  | 1 => o.load (BitVec.ofNat 64 v)
  | _ => { o with vcmap := vcMapOf (o.vcBits - quad o.vcBits w * 2 ^ (64 * w) + v % 2 ^ 64 * 2 ^ (64 * w)) }

/-- An interface item (R381 structure 2): o is OFFSET [15:0]. The bucket's level reads in word 1 of a let queue entry (R380; DESIGN CHOICE,
notes/assumptions/118.md). -/
def NetIf.item (n : NetIf) (o : Nat) : Option Nat :=
  let i := o / 256
  let lo := o % 256
  if i < 0x80 then
    match n.win[i]? with
    | some e =>
      if lo = 0 then some (Config.scanPack 0 [e.pkg, e.tile, e.stream]).toNat else if lo = 1 then some e.base else if lo = 2 then some e.mask.toNat else none
    | none => if lo < 3 then some 0 else none
  else if i = 0x80 then
    let kept := n.outst.filter fun q => !q.h.ded && (q.h.kind == kWR || q.h.kind == kPUT || q.h.kind == kATM || q.h.kind == kMSG)
    let flits := kept.flatMap fun q => (List.range (payFlits q.pay.length)).map fun k => payBits ((q.pay.drop (32 * k)).take 32)
    some (quad (flits.getD (lo % 64) 0) (lo / 64))
  else if i = 0x81 then some (match n.reseq[lo % 64]? with | some p => quad p.h.bits (lo / 64) | none => 0)
  else if i = 0x82 then
    some (match n.letq[lo % 64]? with
      | some q => if lo / 64 = 0 then (Config.scanPack 1 [q.pkg, q.tile, q.stream, q.seq]).toNat else if lo / 64 = 1 then n.bucket else 0
      | none => if lo / 64 = 1 then n.bucket else 0)
  else if i = 0x83 then (if lo = 0 then some n.nictl.toNat else none)
  else none

/-- An item of tile unit 9. -/
def Tile.item9 (x : Tile) (off : Nat) : Option Nat :=
  let o := off % 2 ^ 24
  match off / 2 ^ 24 with
  | 0 => if nbit o 23 || decide (6 < nfld o 22 20) || nfld o 7 3 != 0 || nfld o 15 14 != 0 then none else x.rt.vcItem (nfld o 22 20) (nfld o 19 16) (nfld o 13 8) (nfld o 2 0)
  | 1 =>
    if nbit o 23 || decide (6 < nfld o 22 20) || nfld o 19 8 != 0 || (nfld o 5 0 != 2 && nfld o 7 6 != 0) then none
    else (x.rt.out (nfld o 22 20)).item (nfld o 5 0) (nfld o 7 6)
  | 2 => if nfld o 23 16 != 0 then none else x.ni.item o
  | 3 => if nfld o 23 8 != 0 then none else some (x.ni.seqs.at o 0)
  | _ => none

/-- The tile with an item of unit 9 written: the items that SCNW changes (R380). -/
def Tile.setItem9 (x : Tile) (off v : Nat) : Tile :=
  let o := off % 2 ^ 24
  match off / 2 ^ 24 with
  | 1 => { x with rt := x.rt.modOut (nfld o 22 20) fun q => q.setItem (nfld o 5 0) (nfld o 7 6) v }
  | 2 => if o / 256 = 0x83 then { x with ni := { x.ni with nictl := BitVec.ofNat 32 (v % 2 ^ 23) } } else x
  | _ => x

/-! ## The launch dependence table (R405, R406) -/

/-- Word i of a launch entry. -/
def Entry.shown (en : Entry) (i : Nat) : Nat :=
  let refs := fun (lo : Nat) => (List.range 4).foldl (fun a q => a + place (en.fields.getD (lo + q) 0) (16 * q) 16) 0
  match i with
  | 3 => refs 0
  | 4 => refs 4
  | 14 => place (bnat en.fdrop) 63 1 + place en.cause 40 8 + place en.live 32 8 + place en.eclass 28 2 + place en.age 20 8 + place en.succ.length 16 4
      + place en.gen 12 4 + place en.extcnt 8 4 + place en.predcnt 4 4 + place en.st 0 3
  | 15 => place en.tpost 32 32 + place en.fseq 0 32
  | i => (en.word i).toNat

/-- The entry with word i written; it is not checked (R405). -/
def Entry.setShown (en : Entry) (i v : Nat) : Entry :=
  let one := fun (lo q : Nat) => if lo ≤ q ∧ q < lo + 4 then nfld v (16 * (q - lo) + 15) (16 * (q - lo)) else en.fields.getD q 0
  let refs := fun (lo : Nat) => en.withFields en.succ.length ((List.range 8).map (one lo))
  match i with
  | 3 => refs 0
  | 4 => refs 4
  | 14 => { en.withFields (nfld v 19 16) en.fields with
              fdrop := nbit v 63, cause := nfld v 47 40, live := nfld v 39 32, eclass := nfld v 29 28, age := nfld v 27 20,
              gen := nfld v 15 12, extcnt := nfld v 11 8, predcnt := nfld v 7 4, st := nfld v 2 0 }
  | 15 => { en with tpost := nfld v 63 32, fseq := nfld v 31 0 }
  | i => { en with w := en.w.put i (BitVec.ofNat 64 v) }

/-- An item of base die unit 7. -/
def State.item7 (s : State) (o : Nat) : Option Nat :=
  if o < 2 ^ 16 then some ((s.entry (o / 16)).shown (o % 16))
  else if o = 2 ^ 16 then some s.agelim
  else if o = 2 ^ 16 + 1 then some ((List.range 4).foldl (fun a c => a + place (s.clsPtr.at c 0) (12 * c) 12) 0)
  else none

/-- The state with an item of base die unit 7 written. -/
def State.setItem7 (s : State) (o v : Nat) : State :=
  if o < 2 ^ 16 then s.modEntry (o / 16) fun en => en.setShown (o % 16) v
  else if o = 2 ^ 16 then (if v % 256 = 0 then s else { s with agelim := v % 256 })
  else { s with clsPtr := (List.range 4).map fun c => (c, nfld v (12 * c + 11) (12 * c)) }

/-! ## Courts, ranges, roles, keys, status -/

/-- An item of base die unit 8 (R429, R430). -/
def State.item8 (s : State) (o : Nat) : Option Nat :=
  if o < 2 ^ 14 then (if nfld o 7 4 != 0 then none else some ((s.court (nfld o 13 8)).shown (nfld o 3 0)))
  else
    let i := o - 2 ^ 14
    if i < 16 then some (s.cport.stage.at i 0).toNat
    else if i = 16 then some 0
    else if i = 17 then some (place (bnat s.cport.busy) 63 1 + place (bnat s.cport.miss) 62 1 + place s.cport.status 0 8)
    else none

/-- The state with an item of base die unit 8 written. -/
def State.setItem8 (s : State) (o v : Nat) : State :=
  if o < 2 ^ 14 then
    if nfld o 3 0 = 12 then s.modCourt (nfld o 13 8) fun c => c.setTail false (nfld v 63 32)
    else if nfld o 3 0 = 13 then s.modCourt (nfld o 13 8) fun c => c.setTail true (nfld v 63 32)
    else s
  else
    let i := o - 2 ^ 14
    if i < 16 then { s with cport := { s.cport with stage := s.cport.stage.put i (BitVec.ofNat 64 v) } }
    else if i = 16 then { s with cport := s.cport.start (BitVec.ofNat 64 v) }
    else { s with cport := { s.cport with miss := s.cport.miss && !nbit v 62 } }

/-- An item of base die unit 10 (R441). -/
def Roles.item (r : Roles) (o : Nat) : Option Nat :=
  match o with
  | 0 => some r.roles.toNat
  | 1 => some (place r.rstk 4 2 + place r.rlyr 2 2 + place r.rrole 0 2)
  | 2 => some 0
  | 3 => some (place (bnat r.busy) 63 1 + place (bnat r.closing) 62 1 + place r.rdone 8 3 + place r.rstat 0 8)
  | 4 => some ((List.range 4).foldl (fun a k => a + place (r.lmsize.at k 0) (16 * k) 16) 0)
  | 5 => some (place (bnat r.tplock) 31 1 + place r.tpcnt 0 6)
  | o => if 0x20 ≤ o ∧ o < 0x40 then some (r.tpat.at (o - 0x20) 0).toNat else none

/-- The role state with an item written. -/
def Roles.setItem (r : Roles) (o v : Nat) : Roles :=
  match o with
  | 1 => { r with rstk := nfld v 5 4, rlyr := nfld v 3 2, rrole := nfld v 1 0 }
  | 2 => r.command (nfld v 2 0)
  | 5 => if r.tplock then r else { r with tpcnt := if nfld v 5 0 ≤ 32 then nfld v 5 0 else r.tpcnt, tplock := nbit v 31 }
  | o => if 0x20 ≤ o ∧ o < 0x40 ∧ r.tplock = false then { r with tpat := r.tpat.put (o - 0x20) (BitVec.ofNat 32 v) } else r

/-- Eight bytes of a key or signature of n bytes from byte o on; past its end they read as zero. -/
def keyWord (f : Nat → BitVec 8) (n o : Nat) : Nat := ofBytes ((List.range 8).map fun i => if o + i < n then f (o + i) else 0)

/-- An item of base die unit 11 (R443). -/
def State.item11 (s : State) (o : Nat) : Option Nat :=
  if o < 0x1000 then some (keyWord Config.dikPublicKey 2592 o)
  else if o < 0x2000 then some (keyWord (Config.akPublicKey (akSeed s.pkg.measure)) 2592 (o - 0x1000))
  else if o < 0x4000 then some (keyWord (akEndorsement s.pkg.measure) 4627 (o - 0x2000))
  else if o < 0x4040 then some (s.pkg.measure.toNat / 2 ^ (8 * (o - 0x4000)) % 2 ^ 64)
  else none

/-- BSTAT (R482). -/
def Pkg.bstat (p : Pkg) : Nat :=
  place p.phase 60 4 + place (bnat p.fatal) 59 1 + place (bnat p.prior) 58 1 + place p.fail 48 8 + place p.detail 32 16 + place ((p.msAt - p.riseAt) / 2500000) 0 32

/-- An item of base die unit 13 (R482). -/
def Pkg.item (p : Pkg) (o : Nat) : Option Nat :=
  match o with
  | 0 => some p.bstat
  | 1 => some (quad p.portup.toNat 0)
  | 2 => some (quad p.portup.toNat 1)
  | 3 => some p.devok.toNat
  | _ => none

/-! ## A base die's own items -/

/-- A control item (R153 unit 0). -/
def Die.item0 (x : Die) (o : Nat) : Option Nat :=
  match o with
  | 0 => some x.hwbase.toNat
  | 1 => some x.swbase.toNat
  | 2 => some x.mpbase.toNat
  | 3 => some x.mpframes.toNat
  | 4 => some x.cxlwin0.toNat
  | 5 => some x.cxlwin1.toNat
  | 6 => some x.cxlbase0.toNat
  | 7 => some x.cxlbase1.toNat
  | _ => none

/-- A control item written: HWBASE, SWBASE, MPBASE and MPFRAMES. -/
def Die.setItem0 (x : Die) (o v : Nat) : Die :=
  match o with
  | 0 => { x with hwbase := BitVec.ofNat 64 (v % 2 ^ 11) }
  | 1 => { x with swbase := BitVec.ofNat 64 (v % 2 ^ 15) }
  | 2 => { x with mpbase := BitVec.ofNat 64 v }
  | 3 => { x with mpframes := BitVec.ofNat 64 (min v 262144) }
  | _ => x

/-- A wheel slot as an item (R153 unit 4): [7] V, [5:0] court. -/
def Die.item4 (x : Die) (o : Nat) : Option Nat := if o < 8192 then some (x.wheel.at o 0) else none

/-- A wheel slot written. -/
def Die.setItem4 (x : Die) (o v : Nat) : Die :=
  { x with wheel := if nbit v 7 || nfld v 5 0 != 0 then x.wheel.put o (place (v / 128) 7 1 + nfld v 5 0) else x.wheel.del o }

/-- A router or link item of a base die (R381 unit 5): ports 0 to 26 in [22:18], the VC of a buffer in [17:14]; 27 the interface's tables. -/
def Die.item5 (x : Die) (off : Nat) : Option Nat :=
  let o := off % 2 ^ 24
  let p := nfld o 22 18
  if nbit o 23 then none
  else match off / 2 ^ 24 with
  | 0 => if decide (26 < p) || nfld o 7 3 != 0 then none else x.rt.vcItem p (nfld o 17 14) (nfld o 13 8) (nfld o 2 0)
  | 1 =>
    if decide (26 < p) || nfld o 17 8 != 0 || (nfld o 5 0 != 2 && nfld o 7 6 != 0) then none
    else if nfld o 5 0 = 3 then (if p < 24 then let l := x.ports.at p {}; some (place l.lanes 0 2 + place l.st 2 2) else none)
    else (x.rt.out p).item (nfld o 5 0) (nfld o 7 6)
  | 2 => if p = 27 ∧ nfld o 17 16 = 0 ∧ (nfld o 15 8 < 0x80 ∨ nfld o 15 8 = 0x81) then x.ni.item (o % 2 ^ 16) else none
  | _ => none

/-- A router or link item written; a LANES of 1 or 2 that differs asks for the other width (R377). -/
def Die.setItem5 (x : Die) (off v : Nat) : Die :=
  let o := off % 2 ^ 24
  let p := nfld o 22 18
  if off / 2 ^ 24 != 1 then x
  else if nfld o 5 0 = 3 then
    { x with ports := x.ports.upd p {} fun l => if (v % 4 = 1 ∨ v % 4 = 2) ∧ v % 4 ≠ l.lanes then { l with want := v % 4 } else l }
  else { x with rt := x.rt.modOut p fun q => q.setItem (nfld o 5 0) (nfld o 7 6) v }

/-- A fabric counter of a base die (R463 unit 12 structure 0): 0 TRIMS, 1 BORDER, 2 SHED, 3 CRCRETRY; the latter two at package ports. -/
def Die.item12 (x : Die) (o : Nat) : Option Nat :=
  let p := nfld o 22 18
  if nbit o 23 || nfld o 17 2 != 0 || decide (26 < p) then none
  else match o % 4 with
  | 0 => some (x.rt.out p).trims
  | 1 => some (x.rt.out p).border
  | 2 => if p < 24 then some (x.ports.at p {}).shed else none
  | _ => if p < 24 then some (x.ports.at p {}).crc else none

/-- A fabric counter written. -/
def Die.setItem12 (x : Die) (o v : Nat) : Die :=
  let p := nfld o 22 18
  let n := v % 2 ^ 32
  match o % 4 with
  | 0 => { x with rt := x.rt.modOut p fun q => { q with trims := n } }
  | 1 => { x with rt := x.rt.modOut p fun q => { q with border := n } }
  | 2 => { x with ports := x.ports.upd p {} fun l => { l with shed := n } }
  | _ => { x with ports := x.ports.upd p {} fun l => { l with crc := n } }

/-- The notices in NQ, oldest first; later ones wait to enter it (R379, R428). -/
def Ngambi.queued (g : Ngambi) : List Notice := g.nq.take 256

/-- Word w of entry e of a Ngambi queue (R379, R381 unit 6): 0 HQ, 1 LQ, 2 NQ, 3 DQ; an absent entry reads 0. -/
def State.item6 (s : State) (q e w : Nat) : Nat :=
  match q with
  | 0 => match s.ngambi.hq[e]? with
    | some r => ({ h := { s.hostHdr r.asid with kind := if r.wr then kWR else kRD, addr := r.addr, nbm1 := (r.n + 255) % 256 }, pay := r.data } : Packet).word w
    | none => 0
  | 1 => match s.ngambi.lq[e]? with | some p => (p.getD w 0).toNat | none => 0
  | 2 => match s.ngambi.queued[e]? with | some p => (p.w.getD w 0).toNat | none => 0
  | _ => match s.ngambi.dq[e]? with | some p => p.word w | none => 0

/-- The place in the address line of a byte of the HBM window (R153). -/
def Die.hbmAt (x : Die) (o : Nat) : Nat := hbmBase + x.hwbase.toNat * 2 ^ 28 + o

/-- The place of a byte of the second-tier window. -/
def Die.secondAt (x : Die) (o : Nat) : Nat := secondBase + x.swbase.toNat * 2 ^ 28 + o

/-- An item of base die d by unit and offset; memory words are read as they stand. -/
def State.dieItem (s : State) (d u o : Nat) : Option Nat :=
  let x := s.die d
  let s0 := fun (r : Option Nat) => if d = 0 then r else none
  match u with
  | 0 => x.item0 o
  | 1 => some (s.mem.readN (x.hbmAt o) 8)
  | 2 => if (s.cxlPort (x.swbase.toNat * 2 ^ 28 + o)).isNone then none else some (s.mem.readN (x.secondAt o) 8)
  | 3 => if o < 262144 then some (x.resmap.at o 0).toNat else none
  | 4 => x.item4 o
  | 5 => x.item5 o
  | 6 => s0 (if 2 ^ 18 ≤ o ∨ nfld o 7 6 ≠ 0 then none else some (s.item6 (nfld o 17 16) (nfld o 15 8) (nfld o 5 0)))
  | 7 => s0 (s.item7 o)
  | 8 => s0 (s.item8 o)
  | 9 => if o < 2 ^ 19 then some (quad (s.range (nfld o 18 8) (nfld o 7 2)).toNat (o % 4)) else none
  | 10 => s0 (s.roles.item o)
  | 11 => s0 (s.item11 o)
  | 12 =>
    if o < 2 ^ 24 then x.item12 o
    else if o < 2 ^ 25 then
      s0 (if nfld o 23 14 != 0 || nfld o 7 1 != 0 then none
          else let c := s.court (nfld o 13 8); some (if nbit o 0 then place (bnat c.ex) 63 1 + c.lastE else c.eqrem))
    else none
  | 13 => s0 (s.pkg.item o)
  | _ => none

/-- The state with an item of base die d written; an item that SCNW does not change stays (R2, R149). -/
def State.setDieItem (s : State) (d u o : Nat) (v : PWord) : State :=
  let n := v.val.toNat
  let bytes := (toBytes 8 n).map fun b => ({ val := b, poi := v.poi } : MByte)
  match u with
  | 0 => s.modDie d fun x => x.setItem0 o n
  | 1 => s.writeUnits 32 ((s.die d).hbmAt o) bytes 2
  | 2 => s.writeUnits 32 ((s.die d).secondAt o) bytes 2
  | 3 => s.modDie d fun x => { x with resmap := let n := n - place (nfld n 60 46) 46 15; if n = 0 then x.resmap.del o else x.resmap.put o (BitVec.ofNat 64 n) }
  | 4 => s.modDie d fun x => x.setItem4 o n
  | 5 => s.modDie d fun x => x.setItem5 o n
  | 7 => s.setItem7 o n
  | 8 => s.setItem8 o n
  | 10 => { s with roles := s.roles.setItem o n }
  | 12 => if o < 2 ^ 24 then s.modDie d fun x => x.setItem12 o n else s
  | _ => s

end Sys2Proof.Machine
end

