-- ==== Sys2Proof/Machine/Scan.lean ====
section
/-! DEFINITION. Scan: addresses and their checks, the items of a tile, SCNR, SCNW and their completion, TRAPSET (spec/00_scope.md R2, R3; spec/01_machine.md R15;
spec/03_reg_core.md R80 to R82; spec/05_reg_state.md R134, R135, R142, R147 to R150; spec/06_mem_spaces.md R151 to R153; spec/09_q_engines.md R239). -/

namespace Sys2Proof.Machine

/-! ## Addresses (R147) -/

/-- The part, unit and offset that a scan address names. -/
inductive ScanAt where
  | tile (t unit off : Nat)
  | die (d unit off : Nat)
deriving DecidableEq, Repr

/-- A scan address of a task on tile `self`; none for a must-be-zero field that is not zero, and for a row that no tile has. -/
def scanAt (self : Nat) (a : Word) : Option ScanAt :=
  let unit_ := fld a 32 28
  let off := fld a 27 0
  if fld a 63 45 != 0 then none
  else if bitOf a 44 then (if fld a 43 33 != 0 then none else some (.tile self unit_ off))
  else if bitOf a 33 then (if fld a 41 34 != 0 then none else some (.die (fld a 43 42) unit_ off))
  else if 5 < fld a 39 37 then none
  else some (.tile (tileNo (fld a 43 42) (fld a 41 40) (fld a 39 37) (fld a 36 34)) unit_ off)

/-- Is the part that holds a tile's item powered by its layer's role (R15, R149): a memory layer keeps its scratchpads, memory cells, routers and interfaces,
a layer that is off its vertical links. -/
def partOn (role unit_ off : Nat) : Bool :=
  let str := off / 2 ^ 24
  if role = 1 then true
  else if role = 2 then
    unit_ == 3 || unit_ == 9 || (unit_ == 7 && str == 6) || (unit_ == 8 && (str == 3 || str == 7 || str == 8))
  else
    let vert := nfld off 22 20 == 4 || nfld off 22 20 == 5
    vert && ((unit_ == 9 && decide (str < 2)) || (unit_ == 8 && str == 8))

/-! ## Unit 0: task slot state (R148) -/

/-- An item of a slot. -/
def Tile.unit0 (x : Tile) (now off : Nat) : Option Nat :=
  let k := off / 2 ^ 24
  let i := off % 2 ^ 24
  let rf := (x.slot k).rf
  if i < 0x400 then (if selectorAssigned (BitVec.ofNat 10 i) then some (x.item k now i) else none)
  else if i < 0x440 then some (rf.get (i - 0x400)).val.toNat
  else if i < 0x480 then some (bnat (rf.get (i - 0x440)).poi)
  else if i < 0x488 then some (bnat (rf.pred (i - 0x480)))
  else none

/-- The tile with an item of a slot written, TRAPSET apart: s0 and p0 keep their values, and items with no field that SCNW writes stay; HANDLER is changed by
PUTS and EXIT alone (R134). -/
def Tile.setUnit0 (x : Tile) (off : Nat) (v : PWord) : Tile :=
  let k := off / 2 ^ 24
  let i := off % 2 ^ 24
  let rf := fun (f : RegFile → RegFile) => x.modSlot k fun sl => sl.modRf f
  let sr := fun (f : TaskRegs → TaskRegs) => x.modSlot k fun sl => { sl with sr := f sl.sr }
  match i with
  | 0x001 => sr fun r => { r with tcause := v.val.setWidth 8 }
  | 0x002 => sr fun r => { r with tval := v.val }
  | 0x003 => sr fun r => { r with tepc := wordAddr v.val }
  | 0x030 => x
  | 0x010 => rf fun r => { r with lc0 := { r.lc0 with count := v.val } }
  | 0x011 => rf fun r => { r with lc0 := { r.lc0 with start := wordAddr v.val } }
  | 0x012 => rf fun r => { r with lc0 := { r.lc0 with stop := wordAddr v.val } }
  | 0x014 => rf fun r => { r with lc1 := { r.lc1 with count := v.val } }
  | 0x015 => rf fun r => { r with lc1 := { r.lc1 with start := wordAddr v.val } }
  | 0x016 => rf fun r => { r with lc1 := { r.lc1 with stop := wordAddr v.val } }
  | i =>
    if i < 0x400 then x.putItem k i v.val
    else if i < 0x440 then rf fun r => r.set (i - 0x400) v
    else if i < 0x480 then rf fun r => r.set (i - 0x440) { (r.get (i - 0x440)) with poi := bitOf v.val 0 }
    else rf fun r => r.setPred (i - 0x480) (bitOf v.val 0)

/-- The register that the instruction or the scan of a task is still to write: s[d] of a CLKDIV or a LAUNCH that has issued, and of an SCNR. -/
def TaskInfo.writes (ti : TaskInfo) (own : Bool) (r : Nat) : Bool :=
  (!ti.halted && (match ti.hold with | .clkdiv _ d _ | .launch d _ _ => d == r | _ => false))
    || (!own && (match ti.scan with | some o => !o.isWrite && o.dst == r | none => false))

/-- Has the register that an item of a slot names an outstanding write (R80): a result in flight, a load, a CLKDIV, a LAUNCH or the SCNR of another scan
than the task's own; for TFLAGS, a floating instruction in flight (R121). self is the slot whose scan asks. -/
def Tile.unit0Busy (x : Tile) (self : Option Nat) (off : Nat) : Bool :=
  let sl := x.slot (off / 2 ^ 24)
  let i := off % 2 ^ 24
  let own := self == some (off / 2 ^ 24)
  let reg := fun (r : Nat) => r != 0 && (sl.infl.any (fun w => !w.isPred && w.dst == r) || sl.accs.any (fun a => a.dst == r)
    || (match sl.task with | some ti => ti.writes own r | none => false))
  if i = 0x004 then !sl.flagsStable
  else if i < 0x400 then false
  else if i < 0x440 then reg (i - 0x400)
  else if i < 0x480 then reg (i - 0x440)
  else sl.busyPred (i - 0x480)

/-! ## TRAPSET (R142) -/

/-- The slots of a mask whose bits a write sets, of live tasks that are not stopped; a task that is taking a trap or that an abort has stopped counts as
stopped. -/
def Tile.toStop (x : Tile) (v : Nat) : List Nat :=
  (List.range 16).filter fun j => nbit v j && !nbit x.reg.trapset.toNat j &&
    (match (x.slot j).task with | some ti => !ti.stopped && !ti.halted && ti.trap.isNone | none => false)

/-- Does a task stand in the middle of an instruction that must end first: a LAUNCH, a CLKDIV, or a floating instruction issued with FEN nonzero. -/
def Tile.midway (x : Tile) (k : Nat) : Bool :=
  (match (x.slot k).task with
   | none => false
   | some ti => (match ti.hold with | .launch _ _ _ | .clkdiv _ _ _ => true | _ => false)) || (x.slot k).infl.any (·.late)

/-- A write of TRAPSET, bit by bit. -/
def State.writeTrapset (s : State) (t v : Nat) : State :=
  let x := s.tile t
  let s := (x.toStop v).foldl (fun s k => s.modTile t fun x =>
    (x.modSlot k fun sl => { sl with sr := { sl.sr with tepc := sl.rf.pc } }).setTrapBit k) s
  ((List.range 16).filter fun j => !nbit v j && nbit x.reg.trapset.toNat j).foldl (fun s k =>
    if (s.slot t k).live then s.resumeTrapped t k false
    else s.modTile t fun x => { x with reg := { x.reg with trapset := BitVec.ofNat 16 (nsetBit x.reg.trapset.toNat k false) } }) s

/-- Does a write of TRAPSET wait: a task that it would stop stands in the middle of an instruction. -/
def State.trapsetWaits (s : State) (t v : Nat) : Bool := ((s.tile t).toStop v).any (s.tile t).midway

/-- TRAPSET_WRITE (R142). -/
def execTrapsetWrite (t : Nat) (v : BitVec 16) (s : State) : Out :=
  if t < numTiles then .next (if s.trapsetWaits t v.toNat then s else s.writeTrapset t v.toNat) else .fault .noSuchUnit

/-! ## Memories (R148, R151) -/

/-- The place of a byte of a tile's memory by unit, and the memory's size; spill memory and scratchpad have poison bits behind OFFSET bit 27. -/
def tileMem (t unit_ off : Nat) : Option (Nat × Nat) :=
  match unit_ with
  | 1 => some (istoreKey t off, 2 ^ 18)
  | 2 => some (spillKey t (off % 2 ^ 27), 2 ^ 16)
  | 3 => some (scratchKey t (off % 2 ^ 27), 2 ^ 22)
  | 5 => some (ctxKey t off, 2 ^ 18)
  | _ => none

/-- Is a poison bit named, not a word. -/
def memPoison (unit_ off : Nat) : Bool := (unit_ == 2 || unit_ == 3) && decide (2 ^ 27 ≤ off)

/-- The byte offset within the memory. -/
def memOff (unit_ off : Nat) : Nat := if unit_ = 2 ∨ unit_ = 3 then off % 2 ^ 27 else off

/-! ## Items of a tile -/

/-- An item of a tile by unit and offset. -/
def State.tileItem (s : State) (t u o : Nat) : Option Nat :=
  let x := s.tile t
  match u with
  | 0 => x.unit0 s.time o
  | 4 => x.item4 s.time o
  | 6 =>
    if nfld o 27 21 != 0 || nfld o 18 17 != 0 then none
    else (frameOf (nfld o 15 0)).map fun i => quad ((if nbit o 16 then x.col.deck else x.col.active).at i 0#256).toNat (nfld o 20 19)
  | 7 => x.item7 o
  | 8 => ((s.settleMeters t).tile t).item8 s.time o
  | 9 => x.item9 o
  | u =>
    match tileMem t u o with
    | some (key, n) =>
      if n ≤ memOff u o then none else some (if memPoison u o then bnat (s.marks.has key) else s.mem.readN key 8)
    | none => none

/-- Engine reset mask of an ERST item, if the item is ERST (R239). -/
def isErst (u o : Nat) : Bool := u == 7 && o == 14 * 2 ^ 24

/-- The state with an item of a tile written; frames are read only. -/
def State.setTileItem (s : State) (t u o : Nat) (v : PWord) : State :=
  let n := v.val.toNat
  match u with
  | 0 => if o % 2 ^ 24 = 0x032 then s.writeTrapset t n else s.modTile t fun x => x.setUnit0 o v
  | 4 => s.modTile t fun x => { x with col := { x.col with arr := x.col.arr.setItem (x.cyc 1 s.time) o n } }
  | 6 => s
  | 7 =>
    if isErst u o then (if n % 4 = 0 then s else s.engineReset t (n % 4))
    else { s.modTile t fun x => x.setItem7 false s.nextId o n with nextId := s.nextId + 16 }
  | 8 => (s.settleMeters t).modTile t fun x => x.setItem8 s.time o n
  | 9 => s.modTile t fun x => x.setItem9 o n
  | u =>
    match tileMem t u o with
    | some (key, _) =>
      if memPoison u o then { s with marks := s.marks.setTo key (nbit n 0) }
      else
        let poi := v.poi && (u == 2 || u == 3)
        let s := s.writeM key ((toBytes 8 n).map fun b => { val := b, poi := poi })
        if u = 3 then s.touched t (memOff u o) 8 else s
    | none => s

/-! ## The checks of R149 -/

/-- The value of the item at a scan place; none when it is unassigned or its part has no power. -/
def State.scanValue (s : State) (a : ScanAt) : Option Nat :=
  match a with
  | .tile t u o => if partOn (s.role t) u o then s.tileItem t u o else none
  | .die d u o => s.dieItem d u o

/-- Is it a word of a memory at an offset that is no multiple of 8. -/
def ScanAt.misaligned (a : ScanAt) : Bool :=
  match a with
  | .tile _ u o => (u == 1 || u == 2 || u == 3 || u == 5) && !isMult o 8
  | .die _ u o => (u == 1 || u == 2 || u == 11) && !isMult o 8

/-- Is it a frame of the active plane while a rally runs. -/
def State.frozenFrame (s : State) (a : ScanAt) : Bool :=
  match a with
  | .tile t u o => u == 6 && !nbit o 16 && (s.tile t).col.rallyRuns
  | .die _ _ _ => false

/-- The checks of a scan in their order: a cause, or the place. `wr` is the data of an SCNW. -/
def State.scanCheck (s : State) (self : Nat) (addr : Word) (wr : Option Word) : Except (BitVec 8) ScanAt :=
  match scanAt self addr with
  | none => .error cRange
  | some a =>
    if (s.scanValue a).isNone then .error cRange
    else if a.misaligned then .error cAlign
    else
      match wr with
      | none => .ok a
      | some v =>
        let erst : Bool := match a with | .tile _ u o => isErst u o && fld v 63 2 != 0 | .die _ _ _ => false
        if erst then .error cRange else if s.frozenFrame a then .error cPerm else .ok a

/-! ## Issue (R149) -/

/-- A scan that passes its checks is outstanding from its issue. -/
def State.startScan (s : State) (o : ScanOp) : Out := s.retire fun sl => sl.modTask fun ti => { ti with scan := some o }

/-- SCNR (R149). -/
def execScnr (g : BitVec 4) (d a : BitVec 6) (s : State) : Out :=
  let w := (encode (.scnr g d a)).getD 0
  s.issuePriv w { g := g, rd := [a.toNat], wr := [d.toNat] }
    (if !s.cur.scanFree then .next s
     else s.consume [a.toNat]
      (let addr := s.reg a.toNat
       match s.scanCheck s.focusT addr none with
       | .error c => s.trapHere c addr
       | .ok _ =>
         s.startScan { isWrite := false, addr := addr, data := {}, dst := d.toNat, pc := s.cur.rf.pc, since := s.curTile.cyc 0 s.time }))

/-- SCNW (R149): the read of s[d] is a move. -/
def execScnw (g : BitVec 4) (d a : BitVec 6) (s : State) : Out :=
  let w := (encode (.scnw g d a)).getD 0
  s.issuePriv w { g := g, rd := [a.toNat, d.toNat] }
    (if !s.cur.scanFree then .next s
     else s.consume [a.toNat]
      (let addr := s.reg a.toNat
       let v := s.cur.rf.get d.toNat
       match s.scanCheck s.focusT addr (some v.val) with
       | .error c => s.trapHere c addr
       | .ok _ =>
         s.startScan { isWrite := true, addr := addr, data := v, dst := 0, pc := s.cur.rf.pc, since := s.curTile.cyc 0 s.time }))

/-! ## Completion (R150) -/

/-- A read of a memory word finds its latent errors (R152). -/
def State.scanScrub (s : State) (a : ScanAt) : State :=
  match a with
  | .tile t u o =>
    (match tileMem t u o with
     | some (key, _) =>
       if memPoison u o then s
       else if u = 2 ∨ u = 3 then s.scrub key 1
       else if s.soft.contains key then { s with soft := setDel s.soft key, secded := s.secded + 1 } else s
     | none =>
       if u = 4 ∧ (s.arr t).accSoft.contains o then { s.modArr t fun a => { a with accSoft := setDel a.accSoft o } with secded := s.secded + 1 }
       else s)
  | .die _ _ _ => s

/-- The state with the item at a scan place written. -/
def State.scanPut (s : State) (a : ScanAt) (v : PWord) : State :=
  match a with
  | .tile t u o => s.setTileItem t u o v
  | .die d u o => s.setDieItem d u o v

/-- Must a scan of an item by the task of slot `self` wait (R80, R142): the register has an outstanding write, or a task to be stopped is in the middle of an instruction. DESIGN
CHOICE (notes/assumptions/116.md): a scan of a task's own TFLAGS stands at its moment of effect (R80, R150), so that a floating instruction issued after the scan
and complete before that moment is seen, or its flags are overwritten, though R121 has a GETS and PUTS of TFLAGS see none of any later one. -/
def State.scanWaits (s : State) (self : Option (Nat × Nat)) (a : ScanAt) (o : ScanOp) : Bool :=
  match a with
  | .tile t u off => u == 0 && ((s.tile t).unit0Busy (self.bind fun p => if p.1 = t then some p.2 else none) off || (o.isWrite && off % 2 ^ 24 == 0x032 && s.trapsetWaits t o.data.val.toNat))
  | .die _ _ _ => false

/-- A scan takes effect: at least 40 TCC cycles after its issue. An item that has become unassigned or unpowered since reads 0 and is not written. -/
def State.scanDone (s : State) (t k : Nat) (o : ScanOp) : State :=
  match scanAt t o.addr with
  | none => s
  | some a =>
    if (s.tile t).cyc 0 s.time < o.since + 40 || s.scanWaits (some (t, k)) a o then s
    else
      let over_ := fun (s : State) => (s.modSlot t k fun sl => sl.modTask fun ti => { ti with scan := none }).settleEnd t k
      if o.isWrite then over_ (if (s.scanValue a).isNone then s else s.scanPut a o.data)
      else
        let s := s.scanScrub a
        over_ (s.modSlot t k fun sl => sl.modRf fun r => r.set o.dst { val := BitVec.ofNat 64 ((s.scanValue a).getD 0) })

/-- SCAN_COMPLETION (R150). -/
def execScanCompletion (t k : Nat) (s : State) : Out :=
  if t < numTiles ∧ k < 16 then
    .next (match (s.slot t k).task with
      | some ti => (match ti.scan with | some o => s.scanDone t k o | none => s)
      | none => s)
  else .fault .noSuchUnit

/-- REGISTER_WRITE (R2): a write of the item at a scan address by an agent outside the tiles applies the field access codes; SELF names no tile there. A package in reset
takes no write. -/
def execRegisterWrite (addr value : BitVec 64) (s : State) : Out :=
  .next
    (if s.held || bitOf addr 44 then s
     else
       match s.scanCheck 0 addr (some value) with
       | .error _ => s
       | .ok a =>
         let o : ScanOp := { isWrite := true, addr := addr, data := { val := value }, dst := 0, pc := 0, since := 0 }
         if s.scanWaits none a o then s else s.scanPut a { val := value })

end Sys2Proof.Machine
end

