-- ==== Sys2Proof/Machine/Dispatch.lean ====
section
/-! DEFINITION. The dispatch of every step to its meaning, one arm per constructor of Instr. -/

namespace Sys2Proof.Machine

/-- The effect of one instruction or event. -/
def exec (i : Instr) (s : State) : Host.Outcome State Fault Refusal :=
  match i with
  | .add g d a b => Sys2Proof.Machine.execAdd g d a b s
  | .sub g d a b => Sys2Proof.Machine.execSub g d a b s
  | .and g d a b => Sys2Proof.Machine.execAnd g d a b s
  | .or g d a b => Sys2Proof.Machine.execOr g d a b s
  | .xor g d a b => Sys2Proof.Machine.execXor g d a b s
  | .andn g d a b => Sys2Proof.Machine.execAndn g d a b s
  | .shl g d a b => Sys2Proof.Machine.execShl g d a b s
  | .shr g d a b => Sys2Proof.Machine.execShr g d a b s
  | .sra g d a b => Sys2Proof.Machine.execSra g d a b s
  | .rol g d a b => Sys2Proof.Machine.execRol g d a b s
  | .min g d a b => Sys2Proof.Machine.execMin g d a b s
  | .max g d a b => Sys2Proof.Machine.execMax g d a b s
  | .minu g d a b => Sys2Proof.Machine.execMinu g d a b s
  | .maxu g d a b => Sys2Proof.Machine.execMaxu g d a b s
  | .mul g d a b => Sys2Proof.Machine.execMul g d a b s
  | .mulh g d a b => Sys2Proof.Machine.execMulh g d a b s
  | .mulhu g d a b => Sys2Proof.Machine.execMulhu g d a b s
  | .madd g d a b => Sys2Proof.Machine.execMadd g d a b s
  | .div g d a b => Sys2Proof.Machine.execDiv g d a b s
  | .divu g d a b => Sys2Proof.Machine.execDivu g d a b s
  | .rem g d a b => Sys2Proof.Machine.execRem g d a b s
  | .remu g d a b => Sys2Proof.Machine.execRemu g d a b s
  | .clz g d a => Sys2Proof.Machine.execClz g d a s
  | .ctz g d a => Sys2Proof.Machine.execCtz g d a s
  | .popc g d a => Sys2Proof.Machine.execPopc g d a s
  | .brev g d a => Sys2Proof.Machine.execBrev g d a s
  | .bswap g d a => Sys2Proof.Machine.execBswap g d a s
  | .sextb g d a => Sys2Proof.Machine.execSextb g d a s
  | .sexth g d a => Sys2Proof.Machine.execSexth g d a s
  | .sextw g d a => Sys2Proof.Machine.execSextw g d a s
  | .zextb g d a => Sys2Proof.Machine.execZextb g d a s
  | .zexth g d a => Sys2Proof.Machine.execZexth g d a s
  | .zextw g d a => Sys2Proof.Machine.execZextw g d a s
  | .addi g d a im => Sys2Proof.Machine.execAddi g d a im s
  | .andi g d a im => Sys2Proof.Machine.execAndi g d a im s
  | .ori g d a im => Sys2Proof.Machine.execOri g d a im s
  | .xori g d a im => Sys2Proof.Machine.execXori g d a im s
  | .shli g d a n => Sys2Proof.Machine.execShli g d a n s
  | .shri g d a n => Sys2Proof.Machine.execShri g d a n s
  | .srai g d a n => Sys2Proof.Machine.execSrai g d a n s
  | .movi g d im => Sys2Proof.Machine.execMovi g d im s
  | .movh g d im => Sys2Proof.Machine.execMovh g d im s
  | .cmp g p c a b => Sys2Proof.Machine.execCmp g p c a b s
  | .cmpi g p c a im => Sys2Proof.Machine.execCmpi g p c a im s
  | .pand g d a b => Sys2Proof.Machine.execPand g d a b s
  | .por g d a b => Sys2Proof.Machine.execPor g d a b s
  | .pxor g d a b => Sys2Proof.Machine.execPxor g d a b s
  | .pandn g d a b => Sys2Proof.Machine.execPandn g d a b s
  | .pnot g d a => Sys2Proof.Machine.execPnot g d a s
  | .pmov g d a => Sys2Proof.Machine.execPmov g d a s
  | .sel g d a b n p => Sys2Proof.Machine.execSel g d a b n p s
  | .adds g d a b k => Sys2Proof.Machine.execAdds g d a b k s
  | .fadd g d a b => Sys2Proof.Machine.execFadd g d a b s
  | .fsub g d a b => Sys2Proof.Machine.execFsub g d a b s
  | .fmul g d a b => Sys2Proof.Machine.execFmul g d a b s
  | .fma g d a b => Sys2Proof.Machine.execFma g d a b s
  | .fdiv g d a b => Sys2Proof.Machine.execFdiv g d a b s
  | .fsqrt g d a => Sys2Proof.Machine.execFsqrt g d a s
  | .fmin g d a b => Sys2Proof.Machine.execFmin g d a b s
  | .fmax g d a b => Sys2Proof.Machine.execFmax g d a b s
  | .fabs g d a => Sys2Proof.Machine.execFabs g d a s
  | .fneg g d a => Sys2Proof.Machine.execFneg g d a s
  | .fclass g d a => Sys2Proof.Machine.execFclass g d a s
  | .fcvt g d a x y r => Sys2Proof.Machine.execFcvt g d a x y r s
  | .fcmp g p c a b => Sys2Proof.Machine.execFcmp g p c a b s
  | .br g d => Sys2Proof.Machine.execBr g d s
  | .call g d => Sys2Proof.Machine.execCall g d s
  | .jmpr g a => Sys2Proof.Machine.execJmpr g a s
  | .callr g a => Sys2Proof.Machine.execCallr g a s
  | .ret g => Sys2Proof.Machine.execRet g s
  | .loop g n a im => Sys2Proof.Machine.execLoop g n a im s
  | .ldb g d b im => Sys2Proof.Machine.execLdb g d b im s
  | .ldh g d b im => Sys2Proof.Machine.execLdh g d b im s
  | .ldw g d b im => Sys2Proof.Machine.execLdw g d b im s
  | .ldd g d b im => Sys2Proof.Machine.execLdd g d b im s
  | .ldbu g d b im => Sys2Proof.Machine.execLdbu g d b im s
  | .ldhu g d b im => Sys2Proof.Machine.execLdhu g d b im s
  | .ldwu g d b im => Sys2Proof.Machine.execLdwu g d b im s
  | .stb g d b im => Sys2Proof.Machine.execStb g d b im s
  | .sth g d b im => Sys2Proof.Machine.execSth g d b im s
  | .stw g d b im => Sys2Proof.Machine.execStw g d b im s
  | .std g d b im => Sys2Proof.Machine.execStd g d b im s
  | .amo g d a b o => Sys2Proof.Machine.execAmo g d a b o s
  | .amoAcq g d a b o => Sys2Proof.Machine.execAmoAcq g d a b o s
  | .amoRel g d a b o => Sys2Proof.Machine.execAmoRel g d a b o s
  | .amoAr g d a b o => Sys2Proof.Machine.execAmoAr g d a b o s
  | .fence g sc => Sys2Proof.Machine.execFence g sc s
  | .fenceAcq g sc => Sys2Proof.Machine.execFenceAcq g sc s
  | .fenceRel g sc => Sys2Proof.Machine.execFenceRel g sc s
  | .bpost g a b => Sys2Proof.Machine.execBpost g a b s
  | .bwait g a => Sys2Proof.Machine.execBwait g a s
  | .tokw g e => Sys2Proof.Machine.execTokw g e s
  | .toks g e => Sys2Proof.Machine.execToks g e s
  | .send g a b => Sys2Proof.Machine.execSend g a b s
  | .recv g d => Sys2Proof.Machine.execRecv g d s
  | .trap g c => Sys2Proof.Machine.execTrap g c s
  | .svc g c => Sys2Proof.Machine.execSvc g c s
  | .eret g => Sys2Proof.Machine.execEret g s
  | .exit g => Sys2Proof.Machine.execExit g s
  | .yield g => Sys2Proof.Machine.execYield g s
  | .wait g d a => Sys2Proof.Machine.execWait g d a s
  | .gets g d sc => Sys2Proof.Machine.execGets g d sc s
  | .scnr g d a => Sys2Proof.Machine.execScnr g d a s
  | .puts g a sc => Sys2Proof.Machine.execPuts g a sc s
  | .scnw g d a => Sys2Proof.Machine.execScnw g d a s
  | .clkdiv g d a e => Sys2Proof.Machine.execClkdiv g d a e s
  | .launch g d a => Sys2Proof.Machine.execLaunch g d a s
  | .depdone g a => Sys2Proof.Machine.execDepdone g a s
  | .cfgld g a f => Sys2Proof.Machine.execCfgld g a f s
  | .cfgpart g a b f => Sys2Proof.Machine.execCfgpart g a b f s
  | .fire g a b f => Sys2Proof.Machine.execFire g a b f s
  | .bind g a b f => Sys2Proof.Machine.execBind g a b f s
  | .tset g a b f => Sys2Proof.Machine.execTset g a b f s
  | .cstop g a f => Sys2Proof.Machine.execCstop g a f s
  | .cpys g a b f => Sys2Proof.Machine.execCpys g a b f s
  | .cpyd g a b f => Sys2Proof.Machine.execCpyd g a b f s
  | .copy g a b f => Sys2Proof.Machine.execCopy g a b f s
  | .cpyf g a b f => Sys2Proof.Machine.execCpyf g a b f s
  | .efence g m => Sys2Proof.Machine.execEfence g m s
  | .eqry g d m => Sys2Proof.Machine.execEqry g d m s
  | .instructionCompletion tile slot k => Sys2Proof.Machine.execInstructionCompletion tile slot k s
  | .trapEntry tile slot => Sys2Proof.Machine.execTrapEntry tile slot s
  | .waitTimerExpiry tile slot => Sys2Proof.Machine.execWaitTimerExpiry tile slot s
  | .taskState2Stop tile slot => Sys2Proof.Machine.execTaskState2Stop tile slot s
  | .taskState1Stop tile slot => Sys2Proof.Machine.execTaskState1Stop tile slot s
  | .preemptOverrun tile slot => Sys2Proof.Machine.execPreemptOverrun tile slot s
  | .courtWindowCompletion tile slot => Sys2Proof.Machine.execCourtWindowCompletion tile slot s
  | .scanCompletion tile slot => Sys2Proof.Machine.execScanCompletion tile slot s
  | .clkdivEffect tile => Sys2Proof.Machine.execClkdivEffect tile s
  | .trapsetWrite tile value => Sys2Proof.Machine.execTrapsetWrite tile value s
  | .engineReset tile mask => Sys2Proof.Machine.execEngineReset tile mask s
  | .registerWrite addr value => Sys2Proof.Machine.execRegisterWrite addr value s
  | .commandStart tile eng => Sys2Proof.Machine.execCommandStart tile eng s
  | .commandRetire tile eng => Sys2Proof.Machine.execCommandRetire tile eng s
  | .cfgldCheck tile => Sys2Proof.Machine.execCfgldCheck tile s
  | .cfgpartWrite tile => Sys2Proof.Machine.execCfgpartWrite tile s
  | .bindPlace tile => Sys2Proof.Machine.execBindPlace tile s
  | .copyComplete tile k => Sys2Proof.Machine.execCopyComplete tile k s
  | .busyResend node k => Sys2Proof.Machine.execBusyResend node k s
  | .bankGrant tile bank => Sys2Proof.Machine.execBankGrant tile bank s
  | .changeNotice tile word => Sys2Proof.Machine.execChangeNotice tile word s
  | .bwaitRepoll tile slot => Sys2Proof.Machine.execBwaitRepoll tile slot s
  | .baseDieRequest die k => Sys2Proof.Machine.execBaseDieRequest die k s
  | .rmwWritePhase die k => Sys2Proof.Machine.execRmwWritePhase die k s
  | .hbmWheelSlot hbm pch => Sys2Proof.Machine.execHbmWheelSlot hbm pch s
  | .baseDieReply tile => Sys2Proof.Machine.execBaseDieReply tile s
  | .granuleEviction die frame => Sys2Proof.Machine.execGranuleEviction die frame s
  | .granuleMigration die frame => Sys2Proof.Machine.execGranuleMigration die frame s
  | .residentNotice tile => Sys2Proof.Machine.execResidentNotice tile s
  | .mcellReply tile m => Sys2Proof.Machine.execMcellReply tile m s
  | .decodeTableLoad tile m => Sys2Proof.Machine.execDecodeTableLoad tile m s
  | .xboxTokenMove tile net xbox port => Sys2Proof.Machine.execXboxTokenMove tile net xbox port s
  | .whistleWave tile => Sys2Proof.Machine.execWhistleWave tile s
  | .statusRecordWrite tile => Sys2Proof.Machine.execStatusRecordWrite tile s
  | .cellAdd tile cell slot => Sys2Proof.Machine.execCellAdd tile cell slot s
  | .cellSub tile cell slot => Sys2Proof.Machine.execCellSub tile cell slot s
  | .cellMul tile cell slot => Sys2Proof.Machine.execCellMul tile cell slot s
  | .cellMulh tile cell slot => Sys2Proof.Machine.execCellMulh tile cell slot s
  | .cellMac tile cell slot => Sys2Proof.Machine.execCellMac tile cell slot s
  | .cellAnd tile cell slot => Sys2Proof.Machine.execCellAnd tile cell slot s
  | .cellOr tile cell slot => Sys2Proof.Machine.execCellOr tile cell slot s
  | .cellXor tile cell slot => Sys2Proof.Machine.execCellXor tile cell slot s
  | .cellShl tile cell slot => Sys2Proof.Machine.execCellShl tile cell slot s
  | .cellShr tile cell slot => Sys2Proof.Machine.execCellShr tile cell slot s
  | .cellSra tile cell slot => Sys2Proof.Machine.execCellSra tile cell slot s
  | .cellMin tile cell slot => Sys2Proof.Machine.execCellMin tile cell slot s
  | .cellMax tile cell slot => Sys2Proof.Machine.execCellMax tile cell slot s
  | .cellAbs tile cell slot => Sys2Proof.Machine.execCellAbs tile cell slot s
  | .cellSat tile cell slot => Sys2Proof.Machine.execCellSat tile cell slot s
  | .cellClamp tile cell slot => Sys2Proof.Machine.execCellClamp tile cell slot s
  | .cellCmp tile cell slot => Sys2Proof.Machine.execCellCmp tile cell slot s
  | .cellSel tile cell slot => Sys2Proof.Machine.execCellSel tile cell slot s
  | .cellFadd tile cell slot => Sys2Proof.Machine.execCellFadd tile cell slot s
  | .cellFsub tile cell slot => Sys2Proof.Machine.execCellFsub tile cell slot s
  | .cellFmul tile cell slot => Sys2Proof.Machine.execCellFmul tile cell slot s
  | .cellFma tile cell slot => Sys2Proof.Machine.execCellFma tile cell slot s
  | .cellFmin tile cell slot => Sys2Proof.Machine.execCellFmin tile cell slot s
  | .cellFmax tile cell slot => Sys2Proof.Machine.execCellFmax tile cell slot s
  | .cellFabs tile cell slot => Sys2Proof.Machine.execCellFabs tile cell slot s
  | .cellFneg tile cell slot => Sys2Proof.Machine.execCellFneg tile cell slot s
  | .cellFcmp tile cell slot => Sys2Proof.Machine.execCellFcmp tile cell slot s
  | .rcp tile cell slot => Sys2Proof.Machine.execRcp tile cell slot s
  | .rsqrt tile cell slot => Sys2Proof.Machine.execRsqrt tile cell slot s
  | .exp2 tile cell slot => Sys2Proof.Machine.execExp2 tile cell slot s
  | .log2 tile cell slot => Sys2Proof.Machine.execLog2 tile cell slot s
  | .scale tile cell slot => Sys2Proof.Machine.execScale tile cell slot s
  | .rsum tile cell slot => Sys2Proof.Machine.execRsum tile cell slot s
  | .rmax tile cell slot => Sys2Proof.Machine.execRmax tile cell slot s
  | .rmin tile cell slot => Sys2Proof.Machine.execRmin tile cell slot s
  | .acc tile cell slot => Sys2Proof.Machine.execAcc tile cell slot s
  | .shuf tile cell slot => Sys2Proof.Machine.execShuf tile cell slot s
  | .rot tile cell slot => Sys2Proof.Machine.execRot tile cell slot s
  | .bcast tile cell slot => Sys2Proof.Machine.execBcast tile cell slot s
  | .pack tile cell slot => Sys2Proof.Machine.execPack tile cell slot s
  | .unpack tile cell slot => Sys2Proof.Machine.execUnpack tile cell slot s
  | .reord tile cell slot => Sys2Proof.Machine.execReord tile cell slot s
  | .pass tile cell slot => Sys2Proof.Machine.execPass tile cell slot s
  | .fifo tile cell slot => Sys2Proof.Machine.execFifo tile cell slot s
  | .steer tile cell slot => Sys2Proof.Machine.execSteer tile cell slot s
  | .merge tile cell slot => Sys2Proof.Machine.execMerge tile cell slot s
  | .gate tile cell slot => Sys2Proof.Machine.execGate tile cell slot s
  | .tagget tile cell slot => Sys2Proof.Machine.execTagget tile cell slot s
  | .tagput tile cell slot => Sys2Proof.Machine.execTagput tile cell slot s
  | .cellCnt tile cell slot => Sys2Proof.Machine.execCellCnt tile cell slot s
  | .join tile cell slot => Sys2Proof.Machine.execJoin tile cell slot s
  | .sink tile cell slot => Sys2Proof.Machine.execSink tile cell slot s
  | .aff tile acell => Sys2Proof.Machine.execAff tile acell s
  | .idx tile acell => Sys2Proof.Machine.execIdx tile acell s
  | .acellCnt tile acell => Sys2Proof.Machine.execAcellCnt tile acell s
  | .lds tile m => Sys2Proof.Machine.execLds tile m s
  | .sts tile m => Sys2Proof.Machine.execSts tile m s
  | .gath tile m => Sys2Proof.Machine.execGath tile m s
  | .scat tile m => Sys2Proof.Machine.execScat tile m s
  | .atom tile m => Sys2Proof.Machine.execAtom tile m s
  | .tas tile m => Sys2Proof.Machine.execTas tile m s
  | .dcmp tile m => Sys2Proof.Machine.execDcmp tile m s
  | .qnt tile m => Sys2Proof.Machine.execQnt tile m s
  | .rld tile m => Sys2Proof.Machine.execRld tile m s
  | .rst tile m => Sys2Proof.Machine.execRst tile m s
  | .ramo tile m => Sys2Proof.Machine.execRamo tile m s
  | .counterPort tile m => Sys2Proof.Machine.execCounterPort tile m s
  | .wld tile => Sys2Proof.Machine.execWld tile s
  | .scaleRowTake tile => Sys2Proof.Machine.execScaleRowTake tile s
  | .arrayPass tile => Sys2Proof.Machine.execArrayPass tile s
  | .accw tile => Sys2Proof.Machine.execAccw tile s
  | .mma tile => Sys2Proof.Machine.execMma tile s
  | .mmaG tile => Sys2Proof.Machine.execMmaG tile s
  | .accr tile => Sys2Proof.Machine.execAccr tile s
  | .pairTimeout tile => Sys2Proof.Machine.execPairTimeout tile s
  | .flitSend node out => Sys2Proof.Machine.execFlitSend node out s
  | .trim node out => Sys2Proof.Machine.execTrim node out s
  | .requestArrival node => Sys2Proof.Machine.execRequestArrival node s
  | .reseqRelease node => Sys2Proof.Machine.execReseqRelease node s
  | .responseArrival node => Sys2Proof.Machine.execResponseArrival node s
  | .buntHeaderArrival node => Sys2Proof.Machine.execBuntHeaderArrival node s
  | .letSend node => Sys2Proof.Machine.execLetSend node s
  | .letBucketRefill node => Sys2Proof.Machine.execLetBucketRefill node s
  | .letReceive node => Sys2Proof.Machine.execLetReceive node s
  | .ackTimeout node k => Sys2Proof.Machine.execAckTimeout node k s
  | .linkReplay die port n => Sys2Proof.Machine.execLinkReplay die port n s
  | .laneShed die port lanes => Sys2Proof.Machine.execLaneShed die port lanes s
  | .linkRetrain die port ok => Sys2Proof.Machine.execLinkRetrain die port ok s
  | .hostRequest asid addr n data => Sys2Proof.Machine.execHostRequest asid addr n data s
  | .launchPacketArrival words => Sys2Proof.Machine.execLaunchPacketArrival words s
  | .post => Sys2Proof.Machine.execPost s
  | .abort => Sys2Proof.Machine.execAbort s
  | .cancel => Sys2Proof.Machine.execCancel s
  | .preempt => Sys2Proof.Machine.execPreempt s
  | .resume => Sys2Proof.Machine.execResume s
  | .intervalBoundary => Sys2Proof.Machine.execIntervalBoundary s
  | .imageHeaderRead entry img => Sys2Proof.Machine.execImageHeaderRead entry img s
  | .imageReadComplete entry img => Sys2Proof.Machine.execImageReadComplete entry img s
  | .taskStart entry => Sys2Proof.Machine.execTaskStart entry s
  | .launchEnd entry => Sys2Proof.Machine.execLaunchEnd entry s
  | .launchAbort entry => Sys2Proof.Machine.execLaunchAbort entry s
  | .preemptRequest court reason => Sys2Proof.Machine.execPreemptRequest court reason s
  | .drainTimeout tile => Sys2Proof.Machine.execDrainTimeout tile s
  | .scanOut court => Sys2Proof.Machine.execScanOut court s
  | .preemptRelease => Sys2Proof.Machine.execPreemptRelease s
  | .create => Sys2Proof.Machine.execCreate s
  | .destroy => Sys2Proof.Machine.execDestroy s
  | .grant => Sys2Proof.Machine.execGrant s
  | .courtPreempt => Sys2Proof.Machine.execCourtPreempt s
  | .rwrite => Sys2Proof.Machine.execRwrite s
  | .attest => Sys2Proof.Machine.execAttest s
  | .ringTailWrite court dirty value => Sys2Proof.Machine.execRingTailWrite court dirty value s
  | .roleDrain => Sys2Proof.Machine.execRoleDrain s
  | .roleFlush => Sys2Proof.Machine.execRoleFlush s
  | .roleGate => Sys2Proof.Machine.execRoleGate s
  | .roleEnum => Sys2Proof.Machine.execRoleEnum s
  | .roleCheck powerGood => Sys2Proof.Machine.execRoleCheck powerGood s
  | .roleRelease => Sys2Proof.Machine.execRoleRelease s
  | .roleAbort => Sys2Proof.Machine.execRoleAbort s
  | .powerControllerStep energy => Sys2Proof.Machine.execPowerControllerStep energy s
  | .rstnRise pkgid railsGood => Sys2Proof.Machine.execRstnRise pkgid railsGood s
  | .phaseAuth fw => Sys2Proof.Machine.execPhaseAuth fw s
  | .phaseBase hbmOk cxl base => Sys2Proof.Machine.execPhaseBase hbmOk cxl base s
  | .phaseLinks ngambiOk => Sys2Proof.Machine.execPhaseLinks ngambiOk s
  | .portTraining dir port word => Sys2Proof.Machine.execPortTraining dir port word s
  | .portTrainingTimeout dir port => Sys2Proof.Machine.execPortTrainingTimeout dir port s
  | .phaseRoles pats => Sys2Proof.Machine.execPhaseRoles pats s
  | .phaseRun => Sys2Proof.Machine.execPhaseRun s
  | .thermtrip => Sys2Proof.Machine.execThermtrip s
  | .illegal w => Sys2Proof.Machine.execIllegal w s
  | .packageReset => Sys2Proof.Machine.execPackageReset s
  | .softError place multi => Sys2Proof.Machine.execSoftError place multi s

end Sys2Proof.Machine
end

