-- ==== Sys2Proof/Machine/Time.lean ====
section
/-! DEFINITION. The passing of TIME (spec/05_reg_state.md R134; spec/14_q_stop.md R391; spec/17_counters.md R460, R461). -/

namespace Sys2Proof.Machine

/-- Does the passing of time count anything at the tile: a stop in progress, or a performance counter. -/
def Tile.counts (x : Tile) : Bool := x.stopAt.isSome || !x.reg.pmsel.isEmpty

/-- The memory cells of a tile that wait for a bank grant. -/
def Tile.bankWaiters (x : Tile) : Nat := (x.cellReq.filter fun p => !p.2.isEmpty).length

/-- The ports of a tile that have a request to issue and no tag (R175): memory cells and the copy engine. -/
def Tile.tagStalls (x : Tile) : Nat :=
  (x.col.mc.filter fun p => p.2.tags == 0xFF#8 && p.2.ret.any fun e => e.accs.any fun a => a.st == 0 || a.st == 4).length
    + bnat (x.ctags == 0xFF#8 && x.copies.any fun r => r.reqs.any fun q => q.st == 0)

/-- The metered cells of a tile that have an address and lack the credits for it (R356). -/
def State.creditWaits (s : State) (t : Nat) : Nat :=
  let x := s.tile t
  (x.col.mc.filter fun p =>
    let q := x.col.active.mcell p.1
    q.av && q.metered && p.2.addr.isSome && x.col.rallyRuns && decide (s.mcredNow t p.1 < 64)).length

/-- The counts of a tile over n reference cycles in which nothing else changes. -/
def State.countTile (s : State) (n t : Nat) : State :=
  let x := s.tile t
  let cycles := fun (e : Nat) => x.cyc e (s.time + n) - x.cyc e s.time
  let idle := !(List.range 16).any fun k => s.ready t k
  let rally := x.col.rallyRuns
  let evs : List (Nat × Nat) :=
    [(0x0001, n), (0x0002, cycles 0), (0x0004, if idle then cycles 0 else 0), (0x0005, if rally then cycles 1 else 0),
     (0x000B, x.bankWaiters * cycles 1), (0x000F, if x.copies.isEmpty then 0 else cycles 2), (0x0011, x.tagStalls * n), (0x0014, s.creditWaits t * cycles 1)]
  let seen := fun (k : Nat) (sl : Slot) =>
    if x.stopAt.isNone || cycles 0 == 0 then sl
    else { sl with stop := { sl.stop with notReady := if s.ready t k then 0 else sl.stop.notReady + cycles 0 } }
  s.modTile t fun x =>
    { x with reg := evs.foldl (fun r e => if e.2 = 0 then r else r.pm e.1 e.2) x.reg, slots := x.slots.map fun p => (p.1, seen p.1 p.2) }

/-- n reference cycles pass. -/
def State.advance (s : State) (n : Nat) : State :=
  let ts := (s.tiles.filter fun p => p.2.counts).map (·.1)
  let s' := ts.foldl (fun s t => s.countTile n t) s
  { s' with time := s.time + n }

end Sys2Proof.Machine
end

