-- ==== Sys2Proof/Machine/Sched.lean ====
section
/-! DEFINITION. Who moves next when the environment's agenda is empty: the choice of a task to issue (spec/01_machine.md R30; notes/assumptions/3.md). -/

namespace Sys2Proof.Machine

/-- The first slot, at or after the pointer, that satisfies p (R30). -/
def fromPtr (ptr : Nat) (p : Nat → Bool) : Option Nat := ((List.range 16).map fun i => (ptr + i) % 16).find? p

/-- The slot that the TCC of tile t selects (R30): the highest priority that has one, round-robin from the priority's pointer. -/
def State.pickSlot (s : State) (t : Nat) (ok : Nat → Bool) : Option Nat :=
  let x := s.tile t
  let live := x.slots.keys.filter fun k => (x.slot k).live && ok k
  if live.isEmpty then none
  else
    [3, 2, 1, 0].findSome? fun pr => fromPtr (x.reg.ptr.at pr 0) fun k => live.contains k && (x.slot k).sr.prio.toNat == pr

/-- The tiles in the order the schedule looks at them: after the one that issued last. -/
def State.tileOrder (s : State) : List Nat :=
  let ks := s.tiles.keys
  (ks.filter fun t => s.lastTile ≤ t) ++ ks.filter fun t => t < s.lastTile

/-- The task that issues next: a ready one; when no task is ready, one that stands at an instruction it cannot yet issue, slot by slot as TIME passes. -/
def State.pickIssue (s : State) : Option (Nat × Nat) :=
  let go := fun (ok : Nat → Nat → Bool) => s.tileOrder.findSome? fun t => (s.pickSlot t (ok t)).map fun k => (t, k)
  match go s.ready with
  | some r => some r
  | none => go fun _ k => k == s.time % 16

/-- The instruction at the focused task's PC (R44, R54, R152): a word that is no instruction is the row ILLEGAL. -/
def State.atPc (s : State) : Instr :=
  match s.fetch with
  | none => .illegal 0
  | some w =>
    if s.hard.contains (istoreKey s.focusT (s.cur.rf.pc.toNat / 8 * 8)) then .illegal w
    else
      match decodeWord w with
      | .ok i => i
      | .error _ => .illegal w

/-- A single-bit error in the word that a task fetches is corrected and counted (R152). -/
def State.scrubFetch (s : State) (t k : Nat) : State :=
  let w := istoreKey t ((s.slot t k).rf.pc.toNat / 8 * 8)
  if s.soft.contains w then { s with soft := setDel s.soft w, secded := s.secded + 1 } else s

/-- The schedule turns to a task. -/
def State.focusOn (s : State) (t k : Nat) : State := { s.scrubFetch t k with focusT := t, focusS := k, lastTile := t + 1 }

/-- Is this step an event, and no instruction word. -/
def isEvent (i : Instr) : Bool :=
  match i with
  | .illegal _ => false
  | i => (encode i).isNone

/-- The last touch to a step in which the focused task issued: the pointer of its priority moves to the slot after it (R30), and the performance counter
of issues counts (R461). -/
def State.afterIssue (s0 s : State) : State :=
  if s0.cur.issues = (s.slot s0.focusT s0.focusS).issues then s
  else
    (s.pm s0.focusT 0x0003 1).modTile s0.focusT fun x =>
      { x with reg := { x.reg with ptr := x.reg.ptr.put s0.cur.sr.prio.toNat ((s0.focusS + 1) % 16) } }

end Sys2Proof.Machine
end

