-- ==== Sys2Proof/Machine/Agenda.lean ====
section
/-! DEFINITION. The default schedule of the agents that are not the TCCs (notes/assumptions/3.md): the events that the state makes candidates, looked at in turn, and the
first that changes anything. Events that only the environment brings about are not among them. -/

namespace Sys2Proof.Machine

/-- What a turn of the schedule may do. -/
abbrev Event := State → Out

/-- Events by their names. -/
def events (l : List Instr) : List Event := l.map exec

/-- The event of a compute cell's operation. -/
def cellInstr (op t cell k : Nat) : Option Instr :=
  match op with
  | 0x01 => some (.cellAdd t cell k)
  | 0x02 => some (.cellSub t cell k)
  | 0x03 => some (.cellMul t cell k)
  | 0x04 => some (.cellMulh t cell k)
  | 0x05 => some (.cellMac t cell k)
  | 0x06 => some (.cellAnd t cell k)
  | 0x07 => some (.cellOr t cell k)
  | 0x08 => some (.cellXor t cell k)
  | 0x09 => some (.cellShl t cell k)
  | 0x0A => some (.cellShr t cell k)
  | 0x0B => some (.cellSra t cell k)
  | 0x0C => some (.cellMin t cell k)
  | 0x0D => some (.cellMax t cell k)
  | 0x0E => some (.cellAbs t cell k)
  | 0x0F => some (.cellSat t cell k)
  | 0x10 => some (.cellClamp t cell k)
  | 0x11 => some (.cellCmp t cell k)
  | 0x12 => some (.cellSel t cell k)
  | 0x20 => some (.cellFadd t cell k)
  | 0x21 => some (.cellFsub t cell k)
  | 0x22 => some (.cellFmul t cell k)
  | 0x23 => some (.cellFma t cell k)
  | 0x24 => some (.cellFmin t cell k)
  | 0x25 => some (.cellFmax t cell k)
  | 0x26 => some (.cellFabs t cell k)
  | 0x27 => some (.cellFneg t cell k)
  | 0x28 => some (.cellFcmp t cell k)
  | 0x29 => some (.rcp t cell k)
  | 0x2A => some (.rsqrt t cell k)
  | 0x2B => some (.exp2 t cell k)
  | 0x2C => some (.log2 t cell k)
  | 0x2D => some (.scale t cell k)
  | 0x40 => some (.rsum t cell k)
  | 0x41 => some (.rmax t cell k)
  | 0x42 => some (.rmin t cell k)
  | 0x43 => some (.acc t cell k)
  | 0x50 => some (.shuf t cell k)
  | 0x51 => some (.rot t cell k)
  | 0x52 => some (.bcast t cell k)
  | 0x53 => some (.pack t cell k)
  | 0x54 => some (.unpack t cell k)
  | 0x55 => some (.reord t cell k)
  | 0x60 => some (.pass t cell k)
  | 0x61 => some (.fifo t cell k)
  | 0x62 => some (.steer t cell k)
  | 0x63 => some (.merge t cell k)
  | 0x64 => some (.gate t cell k)
  | 0x65 => some (.tagget t cell k)
  | 0x66 => some (.tagput t cell k)
  | 0x67 => some (.cellCnt t cell k)
  | 0x68 => some (.join t cell k)
  | 0x69 => some (.sink t cell k)
  | _ => none

/-- The event of a memory cell's operation. -/
def mcellInstr (mop t m : Nat) : Instr :=
  match mop with
  | 1 => .lds t m
  | 2 => .sts t m
  | 3 => .gath t m
  | 4 => .scat t m
  | 5 => .atom t m
  | 6 => .tas t m
  | 7 => .dcmp t m
  | 8 => .qnt t m
  | 9 => .rld t m
  | 10 => .rst t m
  | 11 => .ramo t m
  | _ => .counterPort t m

/-- The events of a task slot. -/
def Slot.candidates (sl : Slot) (t k : Nat) : List Event :=
  if !sl.live then []
  else
    events ([.trapEntry t k, .waitTimerExpiry t k, .taskState1Stop t k, .preemptOverrun t k, .taskState2Stop t k, .courtWindowCompletion t k, .scanCompletion t k,
      .bwaitRepoll t k] ++ (List.range sl.infl.length).map fun j => .instructionCompletion t k j)

/-- The events of a tile's engines, banks and notices. -/
def Tile.engineCandidates (x : Tile) (t : Nat) : List Event :=
  events ([.clkdivEffect t, .commandRetire t .col, .cfgldCheck t, .cfgpartWrite t, .bindPlace t, .commandStart t .col, .commandRetire t .cpy, .commandStart t .cpy]
     ++ (List.range x.copies.length).map (fun k => .copyComplete t k)
     ++ [.baseDieReply t, .residentNotice t]
     ++ (List.range 32).map (fun b => .bankGrant t b)
     ++ x.notice.map (fun w => .changeNotice t w)) ++ [execDrainTimeout t]

/-- The events of a tile's rally, its units in ascending frame address (R384). -/
def Tile.rallyCandidates (x : Tile) (t : Nat) : List Event :=
  if x.col.rally.isNone then []
  else
    events (((List.range 384).filterMap fun k =>
        let q := x.col.active.slot (k / 4) (k % 4)
        if q.v then cellInstr q.op t (k / 4) (k % 4) else none)
      ++ ((List.range 32).flatMap fun m => [.mcellReply t m, mcellInstr (x.col.active.mcell m).mop t m, .decodeTableLoad t m])
      ++ ((List.range 16).flatMap fun a => [.aff t a, .idx t a, .acellCnt t a])
      ++ ((List.range 128).flatMap fun c => (List.range 12).flatMap fun p => [.xboxTokenMove t .data c p, .xboxTokenMove t .control c p])
      ++ [.wld t, .scaleRowTake t, .arrayPass t, .accw t, .mma t, .mmaG t, .accr t, .whistleWave t, .statusRecordWrite t]) ++ [execPairTimeout t]

/-- The events of a router and its interface: an output has its turns while some flit waits for it, or is to be sent again, or its tables change. -/
def State.nodeCandidates (s : State) (n : Node) : List Event :=
  let ni := s.netIf n
  let outs := List.range (match n with | .tile _ => 7 | .die _ => 77)
  events (((outs ++ [outQueue, outSwallow, outDrop]).filter (fun o => isOut n o && (let s' := s.feed n o; !(s'.offers n o).isEmpty || s'.resending n o || ((s'.router n).out o).changing))).map (fun o => .flitSend n o)
     ++ (outs.filter (fun o => (s.trimAt n o).isSome)).map (fun o => .trim n o)
     ++ [.requestArrival n, .reseqRelease n, .responseArrival n, .buntHeaderArrival n, .letSend n, .letBucketRefill n, .letReceive n])
    ++ (List.range ni.outst.length).flatMap fun k => [execAckTimeout n k, execBusyResend n k]

/-- The events of a base die. -/
def Die.candidates (x : Die) (d : Nat) : List Event :=
  (x.migr.flatMap fun m => [execGranuleEviction d m.frame, execGranuleMigration d m.frame])
    ++ ((List.range x.reqs.length).flatMap fun k => [execBaseDieRequest d k, execRmwWritePhase d k])
    ++ (x.reqs.filterMap fun r => r.burstAt.map fun a => execHbmWheelSlot (nfld a 10 8) (nfld a 16 11))
    ++ (x.ports.filterMap fun p => if p.2.st == 2 then some (execPortTrainingTimeout (p.1 / 4) (d * 4 + p.1 % 4)) else none)
    ++ (x.ports.filterMap fun p => if p.2.want != 0 then some (execLaneShed d p.1 p.2.want) else if p.2.st == 1 then some (execLinkRetrain d p.1 true) else none)

/-- The events of the dispatcher, the courts and the roles; launches that end together end in the order of R418 (R427). -/
def State.tableCandidates (s : State) : List Event :=
  [execPost, execAbort, execCancel, execPreempt, execResume]
    ++ ([1, 2].flatMap fun r => (s.entries.keys.filter fun e => (s.entry e).st == 3 && s.endRank e == r).map execLaunchEnd) ++ [execIntervalBoundary]
    ++ (s.entries.keys.flatMap fun e => if (s.entry e).st = 2 ∨ (s.entry e).st = 3 ∨ (s.entry e).aborting then
          ((List.range 4).flatMap fun i => [execImageHeaderRead e i, execImageReadComplete e i]) ++ [execTaskStart e, execLaunchAbort e] else [])
    ++ (s.courtNos.flatMap fun n => match (s.court n).stop with
          | some p => [execPreemptRequest n p.reason, execScanOut n]
          | none => [])
    ++ [execPreemptRelease, execCreate, execDestroy, execGrant, execCourtPreempt, execRwrite, execAttest, execRoleDrain, execRoleFlush, execRoleGate,
        execRoleEnum, execRoleCheck s.pkg.lyen, execRoleRelease, execRoleAbort, execPowerControllerStep []]

/-- The events that may happen. -/
def State.candidates (s : State) : List Event :=
  (s.tiles.flatMap fun p => p.2.slots.flatMap fun q => q.2.candidates p.1 q.1)
    ++ (s.tiles.flatMap fun p => p.2.engineCandidates p.1) ++ (s.tiles.flatMap fun p => p.2.rallyCandidates p.1)
    ++ (s.tiles.flatMap fun p => s.nodeCandidates (.tile p.1))
    ++ (s.dies.flatMap fun p => s.nodeCandidates (.die p.1) ++ p.2.candidates p.1)
    ++ s.tableCandidates

/-- Does an event change the state. -/
def State.changedBy (s : State) (f : Event) : Bool :=
  match f s with
  | .next s' => decide (s' ≠ s)
  | _ => false

/-- The event that happens next: the first that changes the state. In one cycle the faults of a tile so come in the order of R384: its tasks by slot, COL, CPY,
the collar's units, the array. -/
def State.nextEvent (s : State) : Option Event := s.candidates.find? s.changedBy

end Sys2Proof.Machine
end

