-- ==== Sys2Proof/Machine/Step.lean ====
section
/-! DEFINITION. One step of the machine (spec/01_machine.md R30; notes/assumptions/3.md): the head of the environment's agenda, or else the default
schedule: in each cycle a TCC issues, and then the other agents' events happen, one a step, until none is left that changes anything. -/

namespace Sys2Proof.Machine

/-- The focused task tries its next instruction. -/
def issueStep (s : State) : Host.Outcome State Fault Refusal :=
  match exec s.atPc s with
  | .next s' => .next (State.afterIssue s s')
  | o => o

/-- The turn of the TCCs. -/
def tccTurn (s : State) : Host.Outcome State Fault Refusal :=
  match s.pickIssue with
  | some (t, k) => issueStep (s.focusOn t k)
  | none => .next s

/-- The most events of one cycle: a bound that keeps the TCCs going, beyond what a cycle holds. -/
def evMost : Nat := 65536

/-- The event that the other agents still have in this cycle. -/
def State.dueEvent (s : State) : Option Event := if s.evTurn && decide (s.evNo < evMost) then s.nextEvent else none

/-- The turn of the environment: TIME passes, what is sent to the package comes in, and the event happens. -/
def agendaTurn (t : Turn) (s : State) : Host.Outcome State Fault Refusal :=
  let s := s.advance t.dt
  let s := match t.inp with | some i => s.inbound i | none => s
  match t.act with
  | some i => if isEvent i then exec i s else .next s
  | none => .next s

/-- One step. -/
def step (s : State) : Host.Outcome State Fault Refusal :=
  match s.agenda with
  | t :: rest => agendaTurn t { s with agenda := rest }
  | [] =>
    match s.dueEvent with
    | some f => f { s with evNo := s.evNo + 1 }
    | none => tccTurn { s.advance 1 with evTurn := true, evNo := 0 }

/-- The state with an instruction word stored where the next step fetches: slot 0 of tile 0 holds a live task of the highest priority whose next
instruction it is, and the turn is the TCCs' (notes/assumptions/5.md). -/
def State.withFetchWord (s : State) (_nbits w : Nat) : State :=
  let s := { s with mem := s.mem.writeN (istoreKey 0 0x1000) 4 w, agenda := [], evTurn := false, lastTile := 0 }
  s.modTile 0 fun x =>
    let x := x.modSlot 0 fun sl => { sl with
      rf := { sl.rf with pc := 0x1000#32 }, sr := { sl.sr with prio := 3 }, task := some { entry := 0 }, infl := [], accs := [], stop := {} }
    { x with reg := { x.reg with ptr := x.reg.ptr.put 3 0 } }

end Sys2Proof.Machine
end

