-- ==== Sys2Proof/Safety.lean ====
section
/-! DEFINITION. What counts as a safe run, and the words in which the statements about the machine are made: when a task may issue an instruction, what
an instruction leaves alone, how it goes on to the next one, and the exact values to which the results of arithmetic are rounded. -/

namespace Sys2Proof.Safety

open Sys2Proof.Machine

/-! ## Runs -/

/-- The step from a state answers a next state. -/
def StepsOn (s : State) : Prop := ∃ t, step s = .next t

/-- The next n steps from a state all answer a next state. -/
def SafeFor : Nat → State → Prop
  | 0, _ => True
  | n + 1, s => ∃ t, step s = .next t ∧ SafeFor n t

/-- An invariant that a step keeps. -/
def Kept (inv : State → Prop) : Prop := ∀ s t, inv s → step s = .next t → inv t

/-! ## When an instruction runs (R30, R43, R84) -/

/-- The focused task may issue (R30): it is live, nothing holds it, no trap is pending and it does not stop here. -/
def MayIssue (s : State) : Prop := s.cur.mayIssue s.curTile s.time (fun _ => false) = true ∧ s.stopsHere = false

/-- The operands and destinations of an instruction are free, and no fence holds it (R84, R125, R172, R220). -/
def Free (s : State) (n : Need) : Prop := s.cur.operandsFree s.curTile n = true ∧ s.cur.fenced s.curTile n.cls = false

/-- The guard of an instruction is known and true (R43, R84). -/
def Guarded (s : State) (g : BitVec 4) : Prop := s.cur.busyPred (g.toNat % 8) = false ∧ s.cur.rf.guardTrue g = true

/-- The focused task issues an instruction with these needs now. -/
def Runs (s : State) (n : Need) : Prop := MayIssue s ∧ Guarded s n.g ∧ Free s n

/-- None of the registers is poisoned (R83). -/
def Clean (s : State) (rs : List Nat) : Prop := ∀ r ∈ rs, (s.cur.rf.get r).poi = false

/-- The next instruction does not lie past the end of the instruction store (R104). -/
def Stays (s : State) : Prop := s.cur.rf.loopEnd.pc ≠ 0x40000#32

/-! ## What is left alone -/

/-- Nothing but task slot k of tile t differs: no byte of memory, no poison mark, no other slot, nothing else of any tile, nothing of the tables. -/
def OnlySlot (s u : State) (t k : Nat) : Prop :=
  (∀ a, u.mem.get a = s.mem.get a) ∧ { u with tiles := s.tiles } = s
    ∧ (∀ v, { u.tile v with slots := (s.tile v).slots } = s.tile v) ∧ ∀ v j, ¬(v = t ∧ j = k) → u.slot v j = s.slot v j

/-- Of the focused task's slot nothing but its register file and its count of issues differs, and nothing outside the slot: its status, flags, trap
registers, copy settings, accesses and in-flight results stand as they were. -/
def OnlyFile (s u : State) : Prop :=
  OnlySlot s u s.focusT s.focusS ∧ { u.cur with rf := s.cur.rf, issues := s.cur.issues } = s.cur

/-- The links of a register file stand as they were. -/
def SameLinks (r q : RegFile) : Prop := q.lk0 = r.lk0 ∧ q.lk1 = r.lk1 ∧ q.lk2 = r.lk2 ∧ q.lk3 = r.lk3 ∧ q.lkd = r.lkd

/-- The task goes on at the next instruction by the rule of R106, with its loop counters counted by it, and has issued one instruction more. -/
def GoesOn (s u : State) : Prop :=
  u.cur.rf.pc = s.cur.rf.loopEnd.pc ∧ u.cur.rf.lc0 = s.cur.rf.loopEnd.lc0 ∧ u.cur.rf.lc1 = s.cur.rf.loopEnd.lc1 ∧ u.cur.issues = s.cur.issues + 1

/-- The instruction at which the task stood ends, and the task goes on at the next one by the rule of R106. -/
def EndsIt (s u : State) : Prop :=
  u.cur.rf.pc = s.cur.rf.loopEnd.pc ∧ u.cur.rf.lc0 = s.cur.rf.loopEnd.lc0 ∧ u.cur.rf.lc1 = s.cur.rf.loopEnd.lc1 ∧ u.cur.issues = s.cur.issues

/-- Every scalar register but d reads as before, and d reads v; s0 reads 0 with poison clear whatever is written to it (R77). -/
def WritesReg (s u : State) (d : Nat) (v : PWord) : Prop := ∀ r, u.cur.rf.get r = if r = d ∧ d ≠ 0 then v else s.cur.rf.get r

/-- Every predicate but p reads as before, and p reads b; p0 reads 1 whatever is written to it (R77). -/
def WritesPred (s u : State) (p : Nat) (b : Bool) : Prop := ∀ q, q < 8 → u.cur.rf.pred q = if q = p ∧ p ≠ 0 then b else s.cur.rf.pred q

/-- An instruction has completed whose only effect is a scalar register. -/
def RegDone (s u : State) (d : Nat) (v : PWord) : Prop :=
  OnlyFile s u ∧ SameLinks s.cur.rf u.cur.rf ∧ GoesOn s u ∧ WritesReg s u d v ∧ u.cur.rf.p = s.cur.rf.p

/-- An instruction has completed whose only effect is a predicate. -/
def PredDone (s u : State) (p : Nat) (b : Bool) : Prop :=
  OnlyFile s u ∧ SameLinks s.cur.rf u.cur.rf ∧ GoesOn s u ∧ WritesPred s u p b ∧ ∀ r, u.cur.rf.get r = s.cur.rf.get r

/-- An instruction has completed with no effect but the step to the next one. -/
def NothingDone (s u : State) : Prop :=
  OnlyFile s u ∧ SameLinks s.cur.rf u.cur.rf ∧ GoesOn s u ∧ (∀ r, u.cur.rf.get r = s.cur.rf.get r) ∧ u.cur.rf.p = s.cur.rf.p

/-- Executing i in s writes v with poison clear to scalar register d, and has no other effect. -/
def Yields (i : Instr) (s : State) (d : BitVec 6) (v : Word) : Prop := ∃ u, exec i s = .next u ∧ RegDone s u d.toNat { val := v }

/-- Executing i in s writes b to predicate p, and has no other effect. -/
def Decides (i : Instr) (s : State) (p : BitVec 3) (b : Bool) : Prop := ∃ u, exec i s = .next u ∧ PredDone s u p.toNat b

/-- Nothing of a register file but its links and its PC differs. -/
def SameButLinks (r q : RegFile) : Prop :=
  { q with lk0 := r.lk0, lk1 := r.lk1, lk2 := r.lk2, lk3 := r.lk3, lkd := r.lkd, pc := r.pc } = r

/-- Of the focused task's slot nothing but its register file, its count of issues and its results in flight differs, and nothing outside the slot. -/
def OnlyFlight (s u : State) : Prop :=
  OnlySlot s u s.focusT s.focusS ∧ { u.cur with rf := s.cur.rf, issues := s.cur.issues, infl := s.cur.infl } = s.cur

/-- Executing i in s puts the result w in flight behind those in flight already, and has no other effect. -/
def Flies (i : Instr) (s : State) (w : Inflight) : Prop :=
  ∃ u, exec i s = .next u ∧ OnlyFlight s u ∧ u.cur.infl = s.cur.infl ++ [w] ∧ SameLinks s.cur.rf u.cur.rf ∧ GoesOn s u
    ∧ (∀ r, u.cur.rf.get r = s.cur.rf.get r) ∧ u.cur.rf.p = s.cur.rf.p

/-- A floating instruction i issues in s (R121, R122): while FEN is zero its result goes in flight and the task goes on; while FEN is nonzero its
result goes in flight and the task stands at the instruction. -/
def Floats (i : Instr) (s : State) (w : Inflight) : Prop :=
  (s.cur.sr.fen = 0 → Stays s → Flies i s { w with isFp := true })
  ∧ (s.cur.sr.fen ≠ 0 → ∃ u, exec i s = .next u ∧ OnlyFlight s u ∧ u.cur.infl = s.cur.infl ++ [{ w with isFp := true, late := true }]
      ∧ u.cur.rf = s.cur.rf ∧ u.cur.issues = s.cur.issues + 1)

/-! ## Accesses of a task -/

/-- No slot but the focused one differs, in any tile. -/
def OtherSlots (s u : State) : Prop := ∀ v j, ¬(v = s.focusT ∧ j = s.focusS) → u.slot v j = s.slot v j

/-- The register file goes on with no register written. -/
def RegsKept (s u : State) : Prop := (∀ r, u.cur.rf.get r = s.cur.rf.get r) ∧ u.cur.rf.p = s.cur.rf.p ∧ SameLinks s.cur.rf u.cur.rf

/-- Memory and the poison marks are untouched. -/
def MemKept (s u : State) : Prop := (∀ x, u.mem.get x = s.mem.get x) ∧ u.marks = s.marks

/-- No single-bit and no uncorrectable error is latent in the 8-byte word of a place (R152). -/
def NoError (s : State) (key : Nat) : Prop := s.soft.contains (key / 8 * 8) = false ∧ s.hard.contains (key / 8 * 8) = false

/-- The task's access a, of kind and operands as given, is outstanding, and its request stands last in the request queue of the tile (a local place) or last
in the tile's fabric interface, addressed to the scratchpad of the tile that the place names (a court window); its memory, registers and state registers
stand as they were (R168, R169, R362). -/
def Requests (s u : State) (pl : Place) (a : TaskAcc) (op : MemOp) : Prop :=
  MemKept s u ∧ OtherSlots s u ∧ u.nextId = s.nextId + 1 ∧ a.k = s.nextId ∧ u.cur.accs = s.cur.accs ++ [a] ∧ RegsKept s u ∧ u.cur.sr = s.cur.sr
  ∧ u.cur.infl = s.cur.infl
  ∧ (match pl with
     | .spill _ => False
     | .loc off => a.window = false
        ∧ u.curTile.tccReq = s.curTile.tccReq ++ [{ who := .task s.focusT s.focusS s.nextId, off := off, op := op }]
        ∧ u.curTile.ni = s.curTile.ni
     | .window t off => a.window = true ∧ u.curTile.tccReq = s.curTile.tccReq
        ∧ ∃ o, u.curTile.ni.outst = s.curTile.ni.outst ++ [o] ∧ o.who = .task s.focusT s.focusS s.nextId
          ∧ u.curTile.ni.txq = s.curTile.ni.txq ++ [{ h := o.h, pay := o.pay }]
          ∧ o.h.dpkg = s.pkg.pkgid.toNat ∧ o.h.dtile = tileBits t ∧ o.h.unit = 0 ∧ o.h.addr = off ∧ o.h.stream = s.focusS
          ∧ ({ h := o.h, pay := o.pay } : Packet).op = op)

/-- Of the whole package only tile t and the counter of names differ: no byte of memory, no other tile, nothing of the tables. -/
def OnlyTile (s u : State) (t : Nat) : Prop :=
  (∀ a, u.mem.get a = s.mem.get a) ∧ { u with tiles := s.tiles, nextId := s.nextId } = s ∧ ∀ v, v ≠ t → u.tile v = s.tile v

/-- The instruction of a trapping task counts as issued, and the trap is taken with TEPC as given (R139, R140). -/
def Traps (s : State) (cause : BitVec 8) (tval : Word) (tepc : BitVec 32) : State :=
  (s.modCur fun sl => { sl with issues := sl.issues + 1 }).takeTrap s.focusT s.focusS
    { cause := cause, tval := tval, tepc := tepc, ipc := s.cur.rf.pc }

/-- No slot but slot k of tile t differs. -/
def OtherThan (s u : State) (t k : Nat) : Prop := ∀ v j, ¬(v = t ∧ j = k) → u.slot v j = s.slot v j

/-- The keys of a map rise strictly: the form in which every map of the state is kept. -/
def Rising {α : Type} (m : AMap α) : Prop := (m.map Prod.fst).Pairwise (· < ·)

/-! ## Classes of W36 words (R108) -/

/-- A word with exponent 2,047 and a nonzero fraction. -/
def isNaN (w : W36) : Bool := w.extractLsb 34 24 = 0x7FF#11 && w.extractLsb 23 0 != 0#24
/-- A NaN whose fraction bit 23 is 0. -/
def isSNaN (w : W36) : Bool := isNaN w && !w.getLsbD 23
/-- A word with exponent 2,047 and fraction 0. -/
def isInfinity (w : W36) : Bool := w.extractLsb 34 24 = 0x7FF#11 && w.extractLsb 23 0 = 0#24
/-- A word with exponent and fraction 0. -/
def isZero (w : W36) : Bool := w.extractLsb 34 0 = 0#35
/-- A word that is neither a NaN nor an infinity. -/
def isFinite (w : W36) : Bool := w.extractLsb 34 24 != 0x7FF#11

/-! ## Values and roundings by the rules (R108, R110, R113 to R116), in whole numbers -/

/-- The magnitude of a finite W36 word in units of 2^-1046, the smallest subnormal; an infinity counts as the number one step above the largest finite one. -/
def w36Mag (w : W36) : Nat :=
  let e := (w.extractLsb 34 24).toNat
  let f := (w.extractLsb 23 0).toNat
  if e = 0 then f else (2 ^ 24 + f) * 2 ^ (e - 1)

/-- The value of a finite W36 word in units of 2^-1046. -/
def w36Int (w : W36) : Int := if w.getLsbD 35 then -(w36Mag w : Int) else (w36Mag w : Int)

/-- The value of a finite L18 word in units of 2^-262. -/
def l18Int (w : L18) : Int :=
  let e := (w.extractLsb 16 8).toNat
  let f := (w.extractLsb 7 0).toNat
  let m := if e = 0 then f else (2 ^ 8 + f) * 2 ^ (e - 1)
  if w.getLsbD 17 then -(m : Int) else (m : Int)

/-- n is RoundInt of a / m under a mode, neg being the sign of the value that a / m belongs to (R113). -/
def RoundsTo (rm : RMode) (neg : Bool) (a m n : Nat) : Prop :=
  match rm with
  | .rne => 2 * a ≤ (2 * n + 1) * m ∧ 2 * n * m ≤ 2 * a + m ∧ (2 * a = (2 * n + 1) * m ∨ 2 * n * m = 2 * a + m → n % 2 = 0)
  | .rtz => n = a / m
  | .rdn => n = if neg then (a + m - 1) / m else a / m
  | .rup => n = if neg then a / m else (a + m - 1) / m

/-- Does a result that overflows become an infinity, and not the largest finite value (R114). -/
def overflowsToInf (rm : RMode) (neg : Bool) : Bool :=
  match rm with
  | .rne => true
  | .rtz => false
  | .rdn => neg
  | .rup => !neg

/-- The value a / d in units of 2^-1046, of sign neg, lies below the smallest normal when it is rounded to 25 bits with an unbounded exponent (R113). -/
def TinyW36 (rm : RMode) (neg : Bool) (a d : Nat) : Prop := a < 2 ^ 24 * d ∧ ∃ n, n < 2 ^ 25 ∧ RoundsTo rm neg (2 * a) d n

/-- A word with its flags is RoundW36 of the value a / d in units of 2^-1046, of sign neg (R113 to R115): 25 significant bits on a grid of 2^k units; an overflow
gives the infinity or the largest finite value, with OF and NX; an inexact result raises NX, and UF when it is tiny. -/
def Rounds (rm : RMode) (neg : Bool) (a d : Nat) (r : W36 × Flags) : Prop :=
  ∃ k n, (k = 0 ∨ 2 ^ (24 + k) * d ≤ a) ∧ a < 2 ^ (25 + k) * d ∧ RoundsTo rm neg a (2 ^ k * d) n
    ∧ (2 ^ 2070 ≤ n * 2 ^ k → r.2 = 5#5 ∧ r.1 = (if neg then 0x800000000#36 else 0) ||| if overflowsToInf rm neg then 0x7FF000000#36 else 0x7FEFFFFFF#36)
    ∧ (n * 2 ^ k < 2 ^ 2070 → isFinite r.1 = true ∧ r.1.getLsbD 35 = neg ∧ w36Mag r.1 = n * 2 ^ k
        ∧ (n * 2 ^ k * d = a → r.2 = 0) ∧ (n * 2 ^ k * d ≠ a → TinyW36 rm neg a d → r.2 = 3#5) ∧ (n * 2 ^ k * d ≠ a → ¬ TinyW36 rm neg a d → r.2 = 1#5))

/-- A word of 8 exponent bits and mb fraction bits, with its flags, is the F32 or BF16 of a finite value of magnitude a in units of 2^-1046 and sign neg
(R115, R116): mb + 1 significant bits, flushed to zero below 2^-126. -/
def Narrows (mb : Nat) (rm : RMode) (neg : Bool) (a : Nat) (r : Nat × Flags) : Prop :=
  let s := if neg then 2 ^ (mb + 8) else 0
  (a = 0 → r = (s, 0))
  ∧ (a ≠ 0 → ∃ k n, 2 ^ k ≤ a ∧ a < 2 ^ (k + 1) ∧ RoundsTo rm neg (a * 2 ^ mb) (2 ^ k) n
      ∧ (n * 2 ^ k < 2 ^ (920 + mb) → r = (s, 3#5))
      ∧ ((2 ^ (mb + 1) - 1) * 2 ^ 1173 < n * 2 ^ k → r = (s + (if overflowsToInf rm neg then 255 * 2 ^ mb else 255 * 2 ^ mb - 1), 5#5))
      ∧ (2 ^ (920 + mb) ≤ n * 2 ^ k → n * 2 ^ k ≤ (2 ^ (mb + 1) - 1) * 2 ^ 1173 →
          ∃ e m, 1 ≤ e ∧ e ≤ 254 ∧ m < 2 ^ mb ∧ (2 ^ mb + m) * 2 ^ (e - 1) * 2 ^ 920 = n * 2 ^ k
            ∧ r = (s + e * 2 ^ mb + m, if n * 2 ^ k = a * 2 ^ mb then 0 else 1#5)))

/-- The magnitude, in units of 2^-1046, of a positive tapered word of n bits and one exponent bit (R193): m ones or m zeros of regime before bit b and b more bits r;
at b = 0 the exponent bit is cut off. -/
def taperedMag (k : Int) (b r : Nat) : Nat :=
  if b = 0 then 2 ^ (1046 + 2 * k).toNat else 2 ^ (1046 + 2 * k + (r / 2 ^ (b - 1) : Nat) - (b - 1 : Nat)).toNat * (2 ^ (b - 1) + r % 2 ^ (b - 1))

/-! ## Which instructions -/

/-- The privileged instructions (R133, R134, R142, R149): of GETS and PUTS those of a selector that the map marks so. -/
def isPrivileged : Instr → Bool
  | .eret _ | .scnr _ _ _ | .scnw _ _ _ => true
  | .gets _ _ n => n = 0x031 || n = 0x032
  | .puts _ _ n => n = 0x008 || n = 0x009 || n = 0x00A || n = 0x00B || n = 0x00C || n = 0x030 || n = 0x031
  | _ => false

/-- What an instruction waits for before it reads its registers: a release AMO for the accesses before it (R172), an engine command for room in its queue
(R233). -/
def readyToRead (s : State) : Instr → Bool
  | .amoRel _ _ _ _ _ | .amoAr _ _ _ _ _ => s.cur.accs.all fun a => a.kind == .send
  | .cfgld _ _ _ | .cfgpart _ _ _ _ | .fire _ _ _ _ | .bind _ _ _ _ | .tset _ _ _ _ | .cstop _ _ _ => decide (s.curTile.colq.length < 8)
  | .cpys _ _ _ _ | .cpyd _ _ _ _ | .copy _ _ _ _ | .cpyf _ _ _ _ => decide (s.curTile.cpyq.length < 16)
  | _ => true

/-- The consuming reads that trap on poison, in the order a, b, d (R82, R83); WAIT, whose reads depend on its mask, aside. -/
def consumes : Instr → List Nat
  | .add _ _ a b | .sub _ _ a b | .and _ _ a b | .xor _ _ a b | .andn _ _ a b | .shl _ _ a b | .shr _ _ a b | .sra _ _ a b | .rol _ _ a b
  | .min _ _ a b | .max _ _ a b | .minu _ _ a b | .maxu _ _ a b | .mul _ _ a b | .mulh _ _ a b | .mulhu _ _ a b | .div _ _ a b | .divu _ _ a b
  | .rem _ _ a b | .remu _ _ a b | .adds _ _ a b _ | .fadd _ _ a b | .fsub _ _ a b | .fmul _ _ a b | .fdiv _ _ a b | .fmin _ _ a b
  | .fmax _ _ a b | .cmp _ _ _ a b | .fcmp _ _ _ a b | .bpost _ a b | .cfgpart _ a b _ | .fire _ a b _ | .bind _ a b _ | .tset _ a b _
  | .cpys _ a b _ | .cpyd _ a b _ | .copy _ a b _ | .cpyf _ a b _ => [a.toNat, b.toNat]
  | .or _ _ a b => if a = 0 ∨ b = 0 then [] else [a.toNat, b.toNat]
  | .madd _ d a b | .fma _ d a b => [a.toNat, b.toNat, d.toNat]
  | .amo _ d a b o | .amoAcq _ d a b o | .amoRel _ d a b o | .amoAr _ d a b o =>
    if o = 8 then [a.toNat] else if o = 9 then [a.toNat, b.toNat, d.toNat] else [a.toNat, b.toNat]
  | .clz _ _ a | .ctz _ _ a | .popc _ _ a | .brev _ _ a | .bswap _ _ a | .sextb _ _ a | .sexth _ _ a | .sextw _ _ a | .zextb _ _ a
  | .zexth _ _ a | .zextw _ _ a | .addi _ _ a _ | .andi _ _ a _ | .ori _ _ a _ | .xori _ _ a _ | .shli _ _ a _ | .shri _ _ a _
  | .srai _ _ a _ | .cmpi _ _ _ a _ | .fsqrt _ _ a | .fabs _ _ a | .fneg _ _ a | .fclass _ _ a | .fcvt _ _ a _ _ _ | .jmpr _ a | .callr _ a
  | .loop _ _ a _ | .send _ a _ | .depdone _ a | .cfgld _ a _ | .cstop _ a _ | .bwait _ a | .scnr _ _ a | .scnw _ _ a | .puts _ a _
  | .launch _ _ a | .clkdiv _ _ a _ => [a.toNat]
  | .ldb _ _ b _ | .ldh _ _ b _ | .ldw _ _ b _ | .ldd _ _ b _ | .ldbu _ _ b _ | .ldhu _ _ b _ | .ldwu _ _ b _ | .stb _ _ b _ | .sth _ _ b _
  | .stw _ _ b _ | .std _ _ b _ => [b.toNat]
  | .movh _ d _ => [d.toNat]
  | _ => []

end Sys2Proof.Safety
end

