-- ==== Sys2Proof/Certificates/Slice0/Obligations.lean ====
section
/-! DEFINITION. The statements about the machine: what its instructions, its agents and its traps do, by the numbered rules of spec/. -/

open Sys2Proof Sys2Proof.Machine Sys2Proof.Safety

/-! ## Issue: guards, poison, privilege (R30, R43, R54, R55, R83, R104, R133) -/

/-- R43, R55, R106: an instruction of a task whose guard is known and false takes the task to its next instruction by the loop-end check, and has no
other effect; it does not wait for its operands. A privileged instruction is one of a privileged task here: of a user task it traps. -/
def Obligations.FalseGuardGoesOn : Prop :=
  ∀ (s : State) (i : Instr) (n : Need), instrNeed i = some n → (isPrivileged i = true → s.cur.sr.priv = true) → MayIssue s →
    s.cur.busyPred (n.g.toNat % 8) = false → s.cur.rf.guardTrue n.g = false → Stays s → ∃ u, exec i s = .next u ∧ NothingDone s u

/-- R82, R83: an instruction that runs and makes a consuming read of a poisoned register traps POISON_USE before any effect, with the number of the
first poisoned register in the order a, b, d. A release AMO is not ready while an earlier access has not performed (R172), nor an engine command while its
queue is full (R233): there nothing happens yet, poisoned or not. R54, R133: a privileged instruction of a user task traps PRIV with its word, whatever its guard. -/
def Obligations.IssueTraps : Prop :=
  (∀ (s : State) (i : Instr) (n : Need), instrNeed i = some n → Runs s n → consumes i ≠ [] →
    (isPrivileged i = true → s.cur.sr.priv = true ∧ s.cur.scanFree = true) →
    (readyToRead s i = false → exec i s = .next s)
    ∧ (∀ r, readyToRead s i = true → s.cur.rf.firstPoison (consumes i) = some r → exec i s = s.trapHere cPoisonUse (BitVec.ofNat 64 r)))
  ∧ (∀ (s : State) (i : Instr) (w : IWord), isPrivileged i = true → encode i = some w → MayIssue s → s.cur.sr.priv = false →
    exec i s = s.trapHere cPriv (w.setWidth 64))

/-- R104, R105: where the loop-end check leads past the last word of the instruction store, a MOVI that runs, and every instruction that its guard passes over, ends in
the trap RANGE with TEPC 0x0004_0000, nothing of the task being outstanding; so does a LOOP of count zero whose body ends at the last word of the store. R100 to R103, R105, with the order of R90: where the transfers and LOOP trap: CALL_DEPTH, ALIGN, RANGE, each with its trap value. -/
def Obligations.ControlTraps : Prop :=
  (∀ (s : State), s.cur.outstanding = false → s.cur.task.isSome = true →
    let offEnd := fun (i : Instr) => ∃ u, exec i s = .next u ∧ u.cur.sr.tcause = cRange ∧ u.cur.sr.tval = 0x40000#64 ∧ u.cur.sr.tepc = 0x40000#32
      ∧ u.cur.task.map (·.stopped) = some true
    (∀ (g : BitVec 4) (d : BitVec 6) (im : BitVec 16), ¬ Stays s → Runs s { g := g, wr := [d.toNat] } → offEnd (.movi g d im))
    ∧ (∀ (g : BitVec 4) (n : BitVec 1) (a : BitVec 6) (im : BitVec 10), Runs s { g := g, rd := [a.toNat] } → Clean s [a.toNat] → s.reg a.toNat = 0 →
      s.cur.rf.pc.toNat + 4 * im.toNat = 0x3FFFC → offEnd (.loop g n a im))
    ∧ (∀ (i : Instr) (n : Need), ¬ Stays s → instrNeed i = some n → (isPrivileged i = true → s.cur.sr.priv = true) → MayIssue s →
      s.cur.busyPred (n.g.toNat % 8) = false → s.cur.rf.guardTrue n.g = false → offEnd i))
  ∧ (∀ (s : State) (g : BitVec 4) (a : BitVec 6) (disp : BitVec 22) (n : BitVec 1) (im : BitVec 10), Runs s { g := g, rd := [a.toNat] } →
    let rf := s.cur.rf
    let t : Int := rf.pc.toNat + 4 * disp.toInt
    let y := s.reg a.toNat
    (t < 0 ∨ 0x3FFFC < t → exec (.br g disp) s = s.trapHere cRange (BitVec.ofInt 64 t))
    ∧ (rf.lkd = 4 → exec (.call g disp) s = s.trapHere cCallDepth 4)
    ∧ (rf.lkd ≠ 4 → (t < 0 ∨ 0x3FFFC < t) → exec (.call g disp) s = s.trapHere cRange (BitVec.ofInt 64 t))
    ∧ (rf.lkd = 0 → exec (.ret g) s = s.trapHere cCallDepth 0)
    ∧ (rf.lkd ≠ 0 → 0x3FFFC < (rf.lk (rf.lkd.toNat - 1)).toNat → exec (.ret g) s = s.trapHere cRange ((rf.lk (rf.lkd.toNat - 1)).setWidth 64))
    ∧ (Clean s [a.toNat] →
        (y.toNat % 4 ≠ 0 → exec (.jmpr g a) s = s.trapHere cAlign y)
        ∧ (y.toNat % 4 = 0 → 0x3FFFC < y.toNat → exec (.jmpr g a) s = s.trapHere cRange y)
        ∧ (rf.lkd = 4 → exec (.callr g a) s = s.trapHere cCallDepth 4)
        ∧ (rf.lkd ≠ 4 → y.toNat % 4 ≠ 0 → exec (.callr g a) s = s.trapHere cAlign y)
        ∧ (rf.lkd ≠ 4 → y.toNat % 4 = 0 → 0x3FFFC < y.toNat → exec (.callr g a) s = s.trapHere cRange y)
        ∧ (0x3FFFC < rf.pc.toNat + 4 * im.toNat →
            exec (.loop g n a im) s = s.trapHere cRange (BitVec.ofNat 64 (rf.pc.toNat + 4 * im.toNat)))))

/-! ## Integer instructions (R82, R91 to R99) -/

/-- R91 with the move of R82: the fourteen ALU instructions, for every destination (a result for s0 is discarded). -/
def Obligations.AluResults : Prop :=
  ∀ (s : State) (g : BitVec 4) (d a b : BitVec 6), Runs s { g := g, rd := [a.toNat, b.toNat], wr := [d.toNat] } → Stays s →
    (Clean s [a.toNat, b.toNat] →
      let x := s.reg a.toNat
      let y := s.reg b.toNat
      let n := (y &&& 63).toNat
      Yields (.add g d a b) s d (x + y) ∧ Yields (.sub g d a b) s d (x - y) ∧ Yields (.and g d a b) s d (x &&& y)
      ∧ Yields (.or g d a b) s d (x ||| y) ∧ Yields (.xor g d a b) s d (x ^^^ y) ∧ Yields (.andn g d a b) s d (x &&& ~~~y)
      ∧ Yields (.shl g d a b) s d (x <<< n) ∧ Yields (.shr g d a b) s d (x >>> n) ∧ Yields (.sra g d a b) s d (x.sshiftRight n)
      ∧ Yields (.rol g d a b) s d ((x <<< n) ||| (x >>> (64 - n)))
      ∧ Yields (.min g d a b) s d (if x.slt y then x else y) ∧ Yields (.max g d a b) s d (if y.slt x then x else y)
      ∧ Yields (.minu g d a b) s d (if x.ult y then x else y) ∧ Yields (.maxu g d a b) s d (if y.ult x then x else y))
    ∧ (a = 0 → b ≠ 0 → ∃ u, exec (.or g d a b) s = .next u ∧ RegDone s u d.toNat (s.cur.rf.get b.toNat))
    ∧ (b = 0 → a ≠ 0 → ∃ u, exec (.or g d a b) s = .next u ∧ RegDone s u d.toNat (s.cur.rf.get a.toNat))

/-- R92, R85: MUL, MULH, MULHU, MADD and the four divides issue: their result is in flight to s[d], with poison clear, and until it completes the
instruction has no other effect than the step to the next one. The divides take the tile's divider. -/
def Obligations.MulDivIssue : Prop :=
  ∀ (s : State) (g : BitVec 4) (d a b : BitVec 6), Stays s → Clean s [a.toNat, b.toNat] →
    let x := s.reg a.toNat
    let y := s.reg b.toNat
    let big : Bool := x = 0x8000000000000000#64 ∧ y = 0xFFFFFFFFFFFFFFFF#64
    let quo : Word := if y = 0 then 0xFFFFFFFFFFFFFFFF#64 else if big then x else BitVec.ofInt 64 (x.toInt.tdiv y.toInt)
    let rest : Word := if y = 0 then x else if big then 0 else BitVec.ofInt 64 (x.toInt - y.toInt * x.toInt.tdiv y.toInt)
    (Runs s { g := g, rd := [a.toNat, b.toNat], wr := [d.toNat] } →
      Flies (.mul g d a b) s { dst := d.toNat, val := { val := x * y } }
      ∧ Flies (.mulh g d a b) s { dst := d.toNat, val := { val := ((x.signExtend 128 * y.signExtend 128) >>> 64).setWidth 64 } }
      ∧ Flies (.mulhu g d a b) s { dst := d.toNat, val := { val := ((x.setWidth 128 * y.setWidth 128) >>> 64).setWidth 64 } })
    ∧ (Runs s { g := g, rd := [a.toNat, b.toNat, d.toNat], wr := [d.toNat] } → Clean s [d.toNat] →
      Flies (.madd g d a b) s { dst := d.toNat, val := { val := s.reg d.toNat + x * y } })
    ∧ (Runs s { g := g, rd := [a.toNat, b.toNat], wr := [d.toNat], div := true } →
      Flies (.div g d a b) s { dst := d.toNat, val := { val := quo }, isDiv := true }
      ∧ Flies (.divu g d a b) s { dst := d.toNat, val := { val := if y = 0 then 0xFFFFFFFFFFFFFFFF#64 else x / y }, isDiv := true }
      ∧ Flies (.rem g d a b) s { dst := d.toNat, val := { val := rest }, isDiv := true }
      ∧ Flies (.remu g d a b) s { dst := d.toNat, val := { val := if y = 0 then x else x - y * (x / y) }, isDiv := true })

/-- R93: CLZ, CTZ and POPC count bits: the value written is the one number of which the words of the rule are true. R93: BREV, BSWAP, the sign extensions and the zero extensions, bit by bit. -/
def Obligations.BitOperations : Prop :=
  (∀ (s : State) (g : BitVec 4) (d a : BitVec 6), Runs s { g := g, rd := [a.toNat], wr := [d.toNat] } → Clean s [a.toNat] → Stays s →
    let x := s.reg a.toNat
    (∃ n, n ≤ 64 ∧ (∀ i, 64 - n ≤ i → i < 64 → x.getLsbD i = false) ∧ (n < 64 → x.getLsbD (63 - n) = true)
        ∧ Yields (.clz g d a) s d (BitVec.ofNat 64 n))
    ∧ (∃ n, n ≤ 64 ∧ (∀ i, i < n → x.getLsbD i = false) ∧ (n < 64 → x.getLsbD n = true) ∧ Yields (.ctz g d a) s d (BitVec.ofNat 64 n))
    ∧ Yields (.popc g d a) s d (BitVec.ofNat 64 ((List.range 64).countP fun i => x.getLsbD i)))
  ∧ (∀ (s : State) (g : BitVec 4) (d a : BitVec 6), Runs s { g := g, rd := [a.toNat], wr := [d.toNat] } → Clean s [a.toNat] → Stays s →
    let x := s.reg a.toNat
    (∃ r : Word, (∀ i, i < 64 → r.getLsbD i = x.getLsbD (63 - i)) ∧ Yields (.brev g d a) s d r)
    ∧ (∃ r : Word, (∀ j i, j < 8 → i < 8 → r.getLsbD (8 * j + i) = x.getLsbD (56 - 8 * j + i)) ∧ Yields (.bswap g d a) s d r)
    ∧ Yields (.sextb g d a) s d ((x.extractLsb 7 0).signExtend 64) ∧ Yields (.sexth g d a) s d ((x.extractLsb 15 0).signExtend 64)
    ∧ Yields (.sextw g d a) s d ((x.extractLsb 31 0).signExtend 64)
    ∧ Yields (.zextb g d a) s d (x &&& 0xFF#64) ∧ Yields (.zexth g d a) s d (x &&& 0xFFFF#64) ∧ Yields (.zextw g d a) s d (x &&& 0xFFFFFFFF#64))

/-- R94: the immediate forms. R95, R96, R99: MOVI, MOVH, ADDS, and SEL, whose selected operand moves with its poison. -/
def Obligations.ImmediatesAndConstants : Prop :=
  (∀ (s : State) (g : BitVec 4) (d a n : BitVec 6) (im : BitVec 10), Runs s { g := g, rd := [a.toNat], wr := [d.toNat] } → Clean s [a.toNat] →
    Stays s →
    let x := s.reg a.toNat
    Yields (.addi g d a im) s d (x + im.signExtend 64) ∧ Yields (.andi g d a im) s d (x &&& im.signExtend 64)
    ∧ Yields (.ori g d a im) s d (x ||| im.setWidth 64) ∧ Yields (.xori g d a im) s d (x ^^^ im.setWidth 64)
    ∧ Yields (.shli g d a n) s d (x <<< n.toNat) ∧ Yields (.shri g d a n) s d (x >>> n.toNat)
    ∧ Yields (.srai g d a n) s d (x.sshiftRight n.toNat))
  ∧ ((∀ (s : State) (g : BitVec 4) (d : BitVec 6) (im : BitVec 16), Runs s { g := g, wr := [d.toNat] } → Stays s →
    Yields (.movi g d im) s d (im.signExtend 64))
  ∧ (∀ (s : State) (g : BitVec 4) (d : BitVec 6) (im : BitVec 16), Runs s { g := g, rd := [d.toNat], wr := [d.toNat] } → Clean s [d.toNat] →
      Stays s → Yields (.movh g d im) s d ((s.reg d.toNat <<< 16) ||| im.setWidth 64))
  ∧ (∀ (s : State) (g : BitVec 4) (d a b : BitVec 6) (k : BitVec 4), Runs s { g := g, rd := [a.toNat, b.toNat], wr := [d.toNat] } →
      Clean s [a.toNat, b.toNat] → Stays s → Yields (.adds g d a b k) s d (s.reg a.toNat + s.reg b.toNat * 2 ^ k.toNat))
  ∧ (∀ (s : State) (g : BitVec 4) (d a b : BitVec 6) (n : BitVec 1) (p : BitVec 3),
      Runs s { g := g, rd := [a.toNat, b.toNat], wr := [d.toNat], rp := [p.toNat] } → Stays s →
      ∃ u, exec (.sel g d a b n p) s = .next u
        ∧ RegDone s u d.toNat (if (s.cur.rf.pred p.toNat ^^ n.getLsbD 0) = true then s.cur.rf.get a.toNat else s.cur.rf.get b.toNat)))

/-- R48, R97: CMP and CMPI under each condition code. R98: predicate logic; a write to p0 is discarded, and p0 reads 1. -/
def Obligations.PredicateResults : Prop :=
  (∀ (s : State) (g : BitVec 4) (p : BitVec 3) (a b : BitVec 6) (im : BitVec 10), Runs s { g := g, rd := [a.toNat, b.toNat], wp := [p.toNat] } →
    Clean s [a.toNat, b.toNat] → Stays s →
    let x := s.reg a.toNat
    let y := s.reg b.toNat
    let z : Word := im.signExtend 64
    (Decides (.cmp g p 0 a b) s p (x == y) ∧ Decides (.cmp g p 1 a b) s p (x != y) ∧ Decides (.cmp g p 2 a b) s p (x.slt y)
      ∧ Decides (.cmp g p 3 a b) s p (x.sle y) ∧ Decides (.cmp g p 4 a b) s p (x.ult y) ∧ Decides (.cmp g p 5 a b) s p (x.ule y))
    ∧ (Decides (.cmpi g p 0 a im) s p (x == z) ∧ Decides (.cmpi g p 1 a im) s p (x != z) ∧ Decides (.cmpi g p 2 a im) s p (x.slt z)
      ∧ Decides (.cmpi g p 3 a im) s p (x.sle z) ∧ Decides (.cmpi g p 4 a im) s p (x.ult z) ∧ Decides (.cmpi g p 5 a im) s p (x.ule z)))
  ∧ (∀ (s : State) (g : BitVec 4) (d a b : BitVec 3), Runs s { g := g, rp := [a.toNat, b.toNat], wp := [d.toNat] } → Stays s →
    let x := s.cur.rf.pred a.toNat
    let y := s.cur.rf.pred b.toNat
    Decides (.pand g d a b) s d (x && y) ∧ Decides (.por g d a b) s d (x || y) ∧ Decides (.pxor g d a b) s d (x ^^ y)
    ∧ Decides (.pandn g d a b) s d (x && !y) ∧ Decides (.pnot g d a) s d (!x) ∧ Decides (.pmov g d a) s d x)

/-! ## Control flow (R100 to R106) -/

/-- R100 to R103: BR, CALL, JMPR, CALLR and RET that take their transfer: where the PC goes, what the links become, and that nothing else changes. -/
def Obligations.Transfers : Prop :=
  ∀ (s : State) (g : BitVec 4) (a : BitVec 6) (disp : BitVec 22), Runs s { g := g, rd := [a.toNat] } →
    let rf := s.cur.rf
    let t : Int := rf.pc.toNat + 4 * disp.toInt
    let y := s.reg a.toNat
    let k := rf.lkd.toNat
    let back := rf.lk (k - 1)
    let goes := fun (v : BitVec 32) (u : State) => OnlyFile s u ∧ u.cur.rf.pc = v ∧ SameButLinks rf u.cur.rf ∧ u.cur.issues = s.cur.issues + 1
    let called := fun (u : State) => u.cur.rf.lkd.toNat = k + 1 ∧ ∀ j, j < 4 → u.cur.rf.lk j = if j = k then rf.pc + 4 else rf.lk j
    (0 ≤ t → t ≤ 0x3FFFC → ∃ u, exec (.br g disp) s = .next u ∧ goes (BitVec.ofInt 32 t) u ∧ SameLinks rf u.cur.rf)
    ∧ (0 ≤ t → t ≤ 0x3FFFC → k < 4 → ∃ u, exec (.call g disp) s = .next u ∧ goes (BitVec.ofInt 32 t) u ∧ called u)
    ∧ (Clean s [a.toNat] → y.toNat % 4 = 0 → y.toNat ≤ 0x3FFFC →
        ∃ u, exec (.jmpr g a) s = .next u ∧ goes (y.setWidth 32) u ∧ SameLinks rf u.cur.rf)
    ∧ (Clean s [a.toNat] → y.toNat % 4 = 0 → y.toNat ≤ 0x3FFFC → k < 4 → ∃ u, exec (.callr g a) s = .next u ∧ goes (y.setWidth 32) u ∧ called u)
    ∧ (0 < k → k ≤ 4 → back.toNat ≤ 0x3FFFC → ∃ u, exec (.ret g) s = .next u ∧ goes back u ∧ u.cur.rf.lkd.toNat = k - 1
        ∧ ∀ j, u.cur.rf.lk j = rf.lk j)

/-- R105: LOOP sets up the counter that it names and leaves the other; a count of zero skips the body. Where the body that is skipped ends at the last
word of the instruction store, the task runs off it (R104), which this statement leaves to ControlTraps. R106: the loop-end check at an instruction's address: lc1 first; a counter above one counts down and loops back; a counter at one runs out; two loops
that end at one word count as the inner one running out first. -/
def Obligations.Loops : Prop :=
  (∀ (s : State) (g : BitVec 4) (n : BitVec 1) (a : BitVec 6) (im : BitVec 10), Runs s { g := g, rd := [a.toNat] } → Clean s [a.toNat] →
    let rf := s.cur.rf
    let stop := rf.pc.toNat + 4 * im.toNat
    let c : LoopCtr := { count := s.reg a.toNat, start := rf.pc + 4, stop := BitVec.ofNat 32 stop }
    let next := if c.count = 0 then BitVec.ofNat 32 stop + 4 else rf.pc + 4
    stop ≤ 0x3FFFC → next ≠ 0x40000#32 →
    ∃ u, exec (.loop g n a im) s = .next u ∧ OnlyFile s u ∧ u.cur.issues = s.cur.issues + 1 ∧ u.cur.rf.pc = next
      ∧ u.cur.rf.lc0 = (if n = 0 then c else rf.lc0) ∧ u.cur.rf.lc1 = (if n = 1 then c else rf.lc1)
      ∧ SameLinks rf u.cur.rf ∧ u.cur.rf.s = rf.s ∧ u.cur.rf.p = rf.p)
  ∧ (∀ r : RegFile,
    let at1 := r.lc1.count ≠ 0 ∧ r.lc1.stop = r.pc
    let at0 := r.lc0.count ≠ 0 ∧ r.lc0.stop = r.pc
    let q := r.loopEnd
    (at1 → 1 < r.lc1.count.toNat → q = { r with lc1 := { r.lc1 with count := r.lc1.count - 1 }, pc := r.lc1.start })
    ∧ (at1 → r.lc1.count.toNat = 1 → q.lc1 = { r.lc1 with count := 0 })
    ∧ (¬ at1 → q.lc1 = r.lc1)
    ∧ ((at1 → r.lc1.count.toNat = 1) → at0 → 1 < r.lc0.count.toNat → q.lc0 = { r.lc0 with count := r.lc0.count - 1 } ∧ q.pc = r.lc0.start)
    ∧ ((at1 → r.lc1.count.toNat = 1) → at0 → r.lc0.count.toNat = 1 → q.lc0 = { r.lc0 with count := 0 } ∧ q.pc = r.pc + 4)
    ∧ ((at1 → r.lc1.count.toNat = 1) → ¬ at0 → q.lc0 = r.lc0 ∧ q.pc = r.pc + 4)
    ∧ q.s = r.s ∧ q.p = r.p ∧ SameLinks r q)

/-! ## Floating instructions (R108, R109, R113, R117 to R132) -/

/-- R109, R121, R122, R124 to R132: each floating instruction issues: its result, computed on bits [35:0] of its operands, goes in flight with its flags;
it is zero-extended and its poison bit is clear. -/
def Obligations.FpIssue : Prop :=
  ∀ (s : State) (g : BitVec 4) (d a b : BitVec 6), Clean s [a.toNat, b.toNat] →
    let x : W36 := (s.reg a.toNat).setWidth 36
    let y : W36 := (s.reg b.toNat).setWidth 36
    let z : W36 := (s.reg d.toNat).setWidth 36
    let res := fun (r : W36 × Flags) => ({ dst := d.toNat, val := { val := r.1.setWidth 64 }, flags := r.2 } : Inflight)
    (Runs s { g := g, rd := [a.toNat, b.toNat], wr := [d.toNat] } →
      Floats (.fadd g d a b) s (res (w36Add x y)) ∧ Floats (.fsub g d a b) s (res (w36Sub x y)) ∧ Floats (.fmul g d a b) s (res (w36Mul x y))
      ∧ Floats (.fmin g d a b) s (res (w36Min x y)) ∧ Floats (.fmax g d a b) s (res (w36Max x y)))
    ∧ (Runs s { g := g, rd := [a.toNat, b.toNat, d.toNat], wr := [d.toNat] } → Clean s [d.toNat] → Floats (.fma g d a b) s (res (w36Fma x y z)))
    ∧ (Runs s { g := g, rd := [a.toNat, b.toNat], wr := [d.toNat], fdiv := true } →
      Floats (.fdiv g d a b) s { (res (w36Div x y)) with isFdiv := true })
    ∧ (Runs s { g := g, rd := [a.toNat], wr := [d.toNat], fdiv := true } → Floats (.fsqrt g d a) s { (res (w36Sqrt x)) with isFdiv := true })
    ∧ (Runs s { g := g, rd := [a.toNat], wr := [d.toNat] } →
      Floats (.fabs g d a) s (res (x &&& 0x7FFFFFFFF#36, 0)) ∧ Floats (.fneg g d a) s (res (x ^^^ 0x800000000#36, 0))
      ∧ Floats (.fclass g d a) s (res (BitVec.ofNat 36 (w36Class x), 0))
      ∧ ∀ (df sf : BitVec 3) (rm : BitVec 2), let c := fcvt df.toNat sf.toNat (RMode.ofCode rm.toNat) (s.reg a.toNat)
          Floats (.fcvt g d a df sf rm) s { dst := d.toNat, val := { val := c.1 }, flags := c.2 })
    ∧ (∀ p c : BitVec 3, Runs s { g := g, rd := [a.toNat, b.toNat], wp := [p.toNat] } →
      let v := w36Cmp c.toNat x y
      Floats (.fcmp g p c a b) s { isPred := true, dst := p.toNat, val := { val := if v.1 then 1 else 0 }, flags := v.2 })

/-- R117, R118: NaN operands: the first of them in the order a, b, c, quieted, with NV when any operand is signalling; and a fused multiply-add of zero and
infinity with a NaN addend answers that addend quieted, with NV. R127, R129 to R131: the special cases without a NaN operand, and FCVT of NaNs, infinities and zeros in each direction. -/
def Obligations.FpSpecialOperands : Prop :=
  (let quiet := fun w : W36 => w ||| 0x000800000#36
  let nv := fun b : Bool => if b then (16#5 : Flags) else 0#5
  (∀ x y : W36, isNaN x = true → let r := (quiet x, nv (isSNaN x || isSNaN y))
    w36Add x y = r ∧ w36Sub x y = r ∧ w36Mul x y = r ∧ w36Div x y = r ∧ w36Min x y = r ∧ w36Max x y = r)
  ∧ (∀ x y : W36, isNaN x = false → isNaN y = true → let r := (quiet y, nv (isSNaN y))
    w36Add x y = r ∧ w36Sub x y = r ∧ w36Mul x y = r ∧ w36Div x y = r ∧ w36Min x y = r ∧ w36Max x y = r)
  ∧ (∀ x : W36, isNaN x = true → w36Sqrt x = (quiet x, nv (isSNaN x)))
  ∧ (∀ x y z : W36, ((isZero x && isInfinity y) || (isInfinity x && isZero y)) = true → isNaN z = true → w36Fma x y z = (quiet z, 16#5))
  ∧ (∀ x y z : W36, ((isZero x && isInfinity y) || (isInfinity x && isZero y)) = false → (isNaN x || isNaN y || isNaN z) = true →
    w36Fma x y z = (quiet (if isNaN x then x else if isNaN y then y else z), nv (isSNaN x || isSNaN y || isSNaN z))))
  ∧ (let nan : W36 × Flags := (0x7FF800000#36, 16#5)
  let inf := fun n : Bool => if n then 0xFFF000000#36 else (0x7FF000000#36 : W36)
  let zero := fun n : Bool => if n then 0x800000000#36 else (0#36 : W36)
  let neg := fun w : W36 => w.getLsbD 35
  ∀ x y z : W36, isNaN x = false → isNaN y = false → isNaN z = false →
    let s := neg x ^^ neg y
    (isInfinity x = true → isInfinity y = true → w36Add x y = (if neg x = neg y then (x, 0) else nan)
      ∧ w36Sub x y = (if neg x = neg y then nan else (x, 0)))
    ∧ (isInfinity x = true → isFinite y = true → w36Add x y = (x, 0) ∧ w36Sub x y = (x, 0))
    ∧ (isFinite x = true → isInfinity y = true → w36Add x y = (y, 0) ∧ w36Sub x y = (y ^^^ 0x800000000#36, 0))
    ∧ (isZero x = true → isInfinity y = true → w36Mul x y = nan ∧ w36Mul y x = nan ∧ w36Fma x y z = nan ∧ w36Fma y x z = nan)
    ∧ (isInfinity x = true → isZero y = false → w36Mul x y = (inf s, 0) ∧ w36Mul y x = (inf s, 0)
      ∧ w36Fma x y z = (if isInfinity z && (neg z != s) then nan else (inf s, 0)))
    ∧ (isFinite x = true → isFinite y = true → isInfinity z = true → w36Fma x y z = (z, 0))
    ∧ (isZero x = true → isZero y = true → w36Div x y = nan) ∧ (isInfinity x = true → isInfinity y = true → w36Div x y = nan)
    ∧ (isFinite x = true → isZero x = false → isZero y = true → w36Div x y = (inf s, 8#5))
    ∧ (isInfinity x = true → isFinite y = true → w36Div x y = (inf s, 0))
    ∧ (isFinite x = true → isInfinity y = true → w36Div x y = (zero s, 0))
    ∧ (isZero x = true → isFinite y = true → isZero y = false → w36Div x y = (zero s, 0))
    ∧ (isZero x = true → w36Sqrt x = (x, 0)) ∧ (isZero x = false → neg x = true → w36Sqrt x = nan) ∧ (w36Sqrt 0x7FF000000#36 = (0x7FF000000#36, 0))
    ∧ (∀ (rm : RMode) (w : W36), let v : Word := w.setWidth 64
        let nv : Flags := if isSNaN w then 16#5 else 0
        (isNaN w = true →
          fcvt 1 0 rm v = (BitVec.ofNat 64 (((if neg w then 0xFF800000 else 0x7F800000) + (w.extractLsb' 1 23 ||| 0x400000#23).toNat)), nv)
          ∧ fcvt 2 0 rm v = (BitVec.ofNat 64 (((if neg w then 0xFF80 else 0x7F80) + (w.extractLsb' 17 7 ||| 0x40#7).toNat)), nv)
          ∧ fcvt 3 0 rm v = (0x8000#64, nv) ∧ fcvt 4 0 rm v = (0x80#64, nv) ∧ fcvt 5 0 rm v = (0, 16#5) ∧ fcvt 6 0 rm v = (0, 16#5))
        ∧ (isInfinity w = true → fcvt 1 0 rm v = (if neg w then 0xFF800000#64 else 0x7F800000#64, 0) ∧ fcvt 2 0 rm v = (if neg w then 0xFF80#64 else 0x7F80#64, 0)
          ∧ fcvt 3 0 rm v = (0x8000#64, 16#5) ∧ fcvt 4 0 rm v = (0x80#64, 16#5)
          ∧ fcvt 5 0 rm v = (if neg w then 0x8000000000000000#64 else 0x7FFFFFFFFFFFFFFF#64, 16#5) ∧ fcvt 6 0 rm v = (if neg w then 0 else 0xFFFFFFFFFFFFFFFF#64, 16#5)))
    ∧ (∀ (rm : RMode) (v : Word),
        (v.extractLsb' 23 8 = 0xFF#8 → fcvt 0 1 rm v = (if v.extractLsb' 0 23 = 0 then (if v.getLsbD 31 then 0xFFF000000#64 else 0x7FF000000#64)
            else (if v.getLsbD 31 then 0xFFF800000#64 else 0x7FF800000#64) ||| (v.extractLsb' 0 23).setWidth 64 <<< 1,
          if v.extractLsb' 0 23 ≠ 0 ∧ v.getLsbD 22 = false then 16#5 else 0))
        ∧ (v.extractLsb' 7 8 = 0xFF#8 → fcvt 0 2 rm v = (if v.extractLsb' 0 7 = 0 then (if v.getLsbD 15 then 0xFFF000000#64 else 0x7FF000000#64)
            else (if v.getLsbD 15 then 0xFFF800000#64 else 0x7FF800000#64) ||| (v.extractLsb' 0 7).setWidth 64 <<< 17,
          if v.extractLsb' 0 7 ≠ 0 ∧ v.getLsbD 6 = false then 16#5 else 0))
        ∧ (v.extractLsb' 0 16 = 0x8000#16 → fcvt 0 3 rm v = (0x7FF800001#64, 0)) ∧ (v.extractLsb' 0 8 = 0x80#8 → fcvt 0 4 rm v = (0x7FF800001#64, 0))))

/-- R128, R132: FCLASS by the classes of R108, FMIN and FMAX as an order of words in which -0 lies below +0, and FCMP: the order of values, an infinity beyond every
finite value, and its flags. R113: RoundInt of a magnitude man / 2^k under each mode: RNE gives the nearest integer, ties to the even one; RTZ the floor; RDN and RUP the floor or
the ceiling by the sign. R113 to R115, R126: on finite operands FADD, FSUB, FMUL, FMA, FDIV and FSQRT give the exact sum, difference, product, fused product and sum, quotient or root
rounded once under RNE, with the flags of that rounding; a sum of zero is - only where every addend is -0. R113 to R116, R129 to R131, R193, R195, R196: FCVT on finite values: I64 and N64 are rounded to W36 under the mode of the instruction, F32, BF16, T16 and T8 are
W36 values; out of W36, I64 and N64 take the rounded integer, held to their range with NV; F32 and BF16 the rounded value, flushed below their smallest normal; T16 and
T8 the code below or above the value, by the mode, the midpoint of two neighbours being the word of one bit more that lies between them, and never zero or NaR. -/
def Obligations.FpOrderAndRounding : Prop :=
  ((∀ x : W36, w36Class x =
    (if isSNaN x then 2 ^ 8 else if isNaN x then 2 ^ 9
     else if isInfinity x then (if x.getLsbD 35 then 2 ^ 0 else 2 ^ 7)
     else if isZero x then (if x.getLsbD 35 then 2 ^ 3 else 2 ^ 4)
     else if x.extractLsb 34 24 = 0#11 then (if x.getLsbD 35 then 2 ^ 2 else 2 ^ 5)
     else if x.getLsbD 35 then 2 ^ 1 else 2 ^ 6))
  ∧ (∀ x y : W36, isNaN x = false → isNaN y = false →
    let below : Bool := if x.getLsbD 35 then !y.getLsbD 35 || (y.extractLsb 34 0).ult (x.extractLsb 34 0)
      else !y.getLsbD 35 && (x.extractLsb 34 0).ult (y.extractLsb 34 0)
    w36Min y x = (if below then x else y, 0) ∧ w36Max x y = (if below then y else x, 0))
  ∧ (∀ x y : W36,
    let nan := isNaN x || isNaN y
    let quiet : Flags := if isSNaN x || isSNaN y then 16#5 else 0
    let loud : Flags := if nan then 16#5 else 0
    (w36Cmp 0 x y).2 = quiet ∧ (w36Cmp 1 x y).2 = quiet ∧ (w36Cmp 2 x y).2 = loud ∧ (w36Cmp 3 x y).2 = loud
    ∧ w36Cmp 4 x y = (nan, quiet) ∧ w36Cmp 5 x y = (!nan, quiet)
    ∧ (nan = true → (w36Cmp 0 x y).1 = false ∧ (w36Cmp 1 x y).1 = true ∧ (w36Cmp 2 x y).1 = false ∧ (w36Cmp 3 x y).1 = false)
    ∧ (isZero x = true → isZero y = true → (w36Cmp 0 x y).1 = true ∧ (w36Cmp 1 x y).1 = false ∧ (w36Cmp 2 x y).1 = false ∧ (w36Cmp 3 x y).1 = true)
    ∧ (nan = false → (w36Cmp 0 x y).1 = decide (w36Int x = w36Int y) ∧ (w36Cmp 1 x y).1 = decide (w36Int x ≠ w36Int y)
        ∧ (w36Cmp 2 x y).1 = decide (w36Int x < w36Int y) ∧ (w36Cmp 3 x y).1 = decide (w36Int x ≤ w36Int y))))
  ∧ (∀ (man k : Nat) (neg : Bool),
    let n := fun rm => roundCut (man / 2 ^ k) (man % 2 ^ k) k rm neg
    let floor := man / 2 ^ k
    let ceil := (man + 2 ^ k - 1) / 2 ^ k
    (2 * (n .rne * 2 ^ k - man) ≤ 2 ^ k ∧ 2 * (man - n .rne * 2 ^ k) ≤ 2 ^ k
      ∧ (2 * (man % 2 ^ k) = 2 ^ k → n .rne % 2 = 0))
    ∧ n .rtz = floor ∧ n .rdn = (if neg then ceil else floor) ∧ n .rup = (if neg then floor else ceil))
  ∧ (∀ x y z : W36, isFinite x = true → isFinite y = true → isFinite z = true →
    let neg := fun w : W36 => w.getLsbD 35
    let sum := fun (v : Int) (zero : Bool) => if v = 0 then zero else decide (v < 0)
    let unit := 2 ^ 1046
    let add := w36Int x + w36Int y
    let sub := w36Int x - w36Int y
    let fma := w36Int x * w36Int y + w36Int z * (unit : Nat)
    let s := neg x ^^ neg y
    Rounds .rne (sum add (neg x && neg y)) add.natAbs 1 (w36Add x y)
    ∧ Rounds .rne (sum sub (neg x && !neg y)) sub.natAbs 1 (w36Sub x y)
    ∧ Rounds .rne s (w36Mag x * w36Mag y) unit (w36Mul x y)
    ∧ Rounds .rne (sum fma (s && neg z)) fma.natAbs unit (w36Fma x y z)
    ∧ (isZero y = false → Rounds .rne s (w36Mag x * unit) (w36Mag y) (w36Div x y))
    ∧ (isZero x = false → neg x = false → ∃ k n, 2 ^ 24 ≤ n ∧ n ≤ 2 ^ 25 ∧ isFinite (w36Sqrt x).1 = true ∧ neg (w36Sqrt x).1 = false ∧ w36Mag (w36Sqrt x).1 = n * 2 ^ k
        ∧ (2 * n - 1) ^ 2 * 2 ^ (2 * k) ≤ 4 * (w36Mag x * unit) ∧ 4 * (w36Mag x * unit) ≤ (2 * n + 1) ^ 2 * 2 ^ (2 * k)
        ∧ (w36Sqrt x).2 = if n ^ 2 * 2 ^ (2 * k) = w36Mag x * unit then 0 else 1#5))
  ∧ (∀ rm : RMode,
    let unit := 2 ^ 1046
    (∀ v : Word,
      (∃ r : W36 × Flags, fcvt 0 5 rm v = (r.1.setWidth 64, r.2) ∧ Rounds rm (decide (v.toInt < 0)) (v.toInt.natAbs * unit) 1 r)
      ∧ (∃ r : W36 × Flags, fcvt 0 6 rm v = (r.1.setWidth 64, r.2) ∧ Rounds rm false (v.toNat * unit) 1 r)
      ∧ (∀ p ∈ [(1, 23), (2, 7)], (v.toNat / 2 ^ p.2) % 2 ^ 8 ≠ 255 → ∃ w : W36, fcvt 0 p.1 rm v = (w.setWidth 64, 0) ∧ isFinite w = true ∧ w.getLsbD 35 = v.getLsbD (p.2 + 8)
          ∧ let e := (v.toNat / 2 ^ p.2) % 2 ^ 8
            let m := v.toNat % 2 ^ p.2
            w36Mag w = (if e = 0 then m else (2 ^ p.2 + m) * 2 ^ (e - 1)) * 2 ^ (920 - p.2))
      ∧ fcvt 0 3 rm v = ((taperedToW36 16 1 (v.toNat % 2 ^ 16)).1.setWidth 64, 0) ∧ fcvt 0 4 rm v = ((taperedToW36 8 1 (v.toNat % 2 ^ 8)).1.setWidth 64, 0))
    ∧ (∀ n, 4 ≤ n → n ≤ 17 →
      let word := fun (x : Nat) => (taperedToW36 n 1 x).1
      word 0 = 0 ∧ word (2 ^ (n - 1)) = 0x7FF800001#36 ∧ w36Mag (word (2 ^ (n - 1) - 1)) = 2 ^ (1046 + 2 * (n - 2))
      ∧ (∀ x, 0 < x → x < 2 ^ (n - 1) → isFinite (word x) = true ∧ (word x).getLsbD 35 = false ∧ word (2 ^ n - x) = word x ^^^ 0x800000000#36)
      ∧ (∀ m r, 1 ≤ m → m + 2 ≤ n → r < 2 ^ (n - 2 - m) → w36Mag (word ((2 ^ m - 1) * 2 ^ (n - 1 - m) + r)) = taperedMag (m - 1) (n - 2 - m) r
          ∧ w36Mag (word (2 ^ (n - 2 - m) + r)) = taperedMag (-m) (n - 2 - m) r))
    ∧ (∀ x : W36, isFinite x = true →
      let v : Word := x.setWidth 64
      let neg := x.getLsbD 35
      let a := w36Mag x
      (∀ p ∈ [(5, (-(2 ^ 63) : Int), (2 ^ 63 - 1 : Int)), (6, 0, 2 ^ 64 - 1)], ∃ n, RoundsTo rm neg a unit n ∧
        let i : Int := if neg then -(n : Int) else n
        fcvt p.1 0 rm v = if i < p.2.1 then (BitVec.ofInt 64 p.2.1, 16#5) else if p.2.2 < i then (BitVec.ofInt 64 p.2.2, 16#5)
          else (BitVec.ofInt 64 i, if n * unit = a then 0 else 1#5))
      ∧ (∀ p ∈ [(1, 23), (2, 7)], ∃ r : Nat × Flags, fcvt p.1 0 rm v = (BitVec.ofNat 64 r.1, r.2) ∧ Narrows p.2 rm neg a r)
      ∧ (∀ p ∈ [(3, 16), (4, 8)],
        let n := p.2
        let mag := fun (q : Nat) => w36Mag (taperedToW36 n 1 q).1
        let gives := fun (q : Nat) (fl : Flags) => fcvt p.1 0 rm v = (BitVec.ofNat 64 (if neg then 2 ^ n - q else q), fl)
        (a = 0 → fcvt p.1 0 rm v = (0, 0)) ∧ (mag (2 ^ (n - 1) - 1) < a → gives (2 ^ (n - 1) - 1) 5#5) ∧ (0 < a → a < mag 1 → gives 1 3#5)
        ∧ (mag 1 ≤ a → a ≤ mag (2 ^ (n - 1) - 1) → ∃ q, 1 ≤ q ∧ q < 2 ^ (n - 1) ∧ mag q ≤ a ∧ (mag q = a → gives q 0)
            ∧ (mag q ≠ a → q + 1 < 2 ^ (n - 1) ∧ a < mag (q + 1) ∧
              let mid := w36Mag (taperedToW36 (n + 1) 1 (2 * q + 1)).1
              gives (q + (match rm with
                | .rne => if a < mid then 0 else if mid < a then 1 else q % 2
                | .rtz => 0
                | .rdn => if neg then 1 else 0
                | .rup => if neg then 0 else 1)) 1#5)))))

/-- R84, R85, R121, R122: the completion of an instruction in flight: its flags are ORed into FLG, and its result is written to its register or
predicate; a raised flag whose FEN bit is set traps FPE instead and leaves the destination alone; a task that stood at the instruction goes on. -/
def Obligations.InFlightCompletes : Prop :=
  ∀ (s : State) (t k i : Nat) (w : Inflight), t < 768 → k < 16 →
    let sl := s.slot t k
    sl.infl[i]? = some w →
    ∃ u, exec (.instructionCompletion t k i) s = .next u
      ∧ (w.late = false → (w.isFp && (w.flags &&& sl.sr.fen) != 0) = false →
          OnlySlot s u t k
          ∧ u.slot t k = { sl with
              sr := { sl.sr with flg := sl.sr.flg ||| w.flags }, infl := sl.infl.eraseIdx i,
              rf := if w.isPred then sl.rf.setPred w.dst (w.val.val.getLsbD 0) else sl.rf.set w.dst w.val })
      ∧ (w.late = true → (w.isFp && (w.flags &&& sl.sr.fen) != 0) = false → sl.rf.loopEnd.pc ≠ 0x40000#32 →
          (u.slot t k).rf.pc = sl.rf.loopEnd.pc ∧ (u.slot t k).issues = sl.issues ∧ (u.slot t k).sr.flg = sl.sr.flg ||| w.flags
          ∧ (w.isPred = false → w.dst ≠ 0 → (u.slot t k).rf.get w.dst = w.val)
          ∧ (w.isPred = true → w.dst ≠ 0 → w.dst < 8 → (u.slot t k).rf.pred w.dst = w.val.val.getLsbD 0))
      ∧ ((w.isFp && (w.flags &&& sl.sr.fen) != 0) = true → sl.outstanding = false → sl.infl = [w] →
          (u.slot t k).sr.tcause = cFpe ∧ (u.slot t k).sr.tval = w.flags.setWidth 64 ∧ (u.slot t k).sr.tepc = sl.rf.pc ∧ (u.slot t k).rf = sl.rf
          ∧ (u.slot t k).sr.flg = sl.sr.flg ||| w.flags)

/-! ## Memory accesses of a task (R154, R166 to R173, R449, R453, R454) -/

/-- R154: where an address of a task lies: its spill window, the tile's scratchpad, a scratchpad of the court, or nowhere, with the trap cause. R154, R167, R171, R173, R453, R454: where an access traps: ALIGN first, then the cause of the address, then PERM for a spill address that an atomic or a
counter names, then RANGE for a post of no bytes or too many; each leaves its cause, and the address (or the count) as its trap value. -/
def Obligations.AddressesAndTraps : Prop :=
  (∀ (sl : Slot) (court ea : Word) (n : Nat),
    let a := ea.toNat
    let row := (ea.extractLsb 27 25).toNat
    let col := (ea.extractLsb 24 22).toNat
    (a ≤ 0xFFFF → sl.classify court ea n =
      if sl.sr.spSize.toNat < a + n then .error cSpillBounds else .ok (.spill ((sl.sr.spBase.toNat + a) % 2 ^ 16)))
    ∧ (0x400000 ≤ a → a ≤ 0x7FFFFF → sl.classify court ea n = .ok (.loc (a - 0x400000)))
    ∧ (ea.extractLsb 63 28 = 0x000001000#36 → sl.classify court ea n =
      if (court.extractLsb 41 39).toNat < row ∨ (court.extractLsb 38 36).toNat < col then .error cRange
      else .ok (.window (tileNo (court.extractLsb 51 50).toNat (court.extractLsb 49 48).toNat ((court.extractLsb 47 45).toNat + row)
        ((court.extractLsb 44 42).toNat + col)) (ea.extractLsb 21 0).toNat))
    ∧ (0xFFFF < a → (a < 0x400000 ∨ 0x7FFFFF < a) → ea.extractLsb 63 28 ≠ 0x000001000#36 → sl.classify court ea n = .error cRange))
  ∧ (∀ (s : State) (g : BitVec 4) (d a b : BitVec 6) (im : BitVec 10),
    let court := s.curTile.reg.court
    let traps := fun (i : Instr) (size : Nat) (ea : Word) =>
      (ea.toNat % size ≠ 0 → exec i s = s.trapHere cAlign ea)
      ∧ (∀ c, ea.toNat % size = 0 → s.cur.classify court ea size = .error c → exec i s = s.trapHere c ea)
    let ea := fun size : Nat => s.reg b.toNat + im.signExtend 64 * BitVec.ofNat 64 size
    let x := s.reg a.toNat
    (Runs s { g := g, rd := [b.toNat], wr := [d.toNat], cls := .load } → Clean s [b.toNat] →
      traps (.ldb g d b im) 1 (ea 1) ∧ traps (.ldh g d b im) 2 (ea 2) ∧ traps (.ldw g d b im) 4 (ea 4) ∧ traps (.ldd g d b im) 8 (ea 8)
      ∧ traps (.ldbu g d b im) 1 (ea 1) ∧ traps (.ldhu g d b im) 2 (ea 2) ∧ traps (.ldwu g d b im) 4 (ea 4))
    ∧ (Runs s { g := g, rd := [b.toNat, d.toNat], cls := .store } → Clean s [b.toNat] →
      traps (.stb g d b im) 1 (ea 1) ∧ traps (.sth g d b im) 2 (ea 2) ∧ traps (.stw g d b im) 4 (ea 4) ∧ traps (.std g d b im) 8 (ea 8))
    ∧ (∀ i : Instr,
        ((∃ o, (i = .amo g d a b o ∨ i = .amoAcq g d a b o ∨ i = .amoRel g d a b o ∨ i = .amoAr g d a b o)
            ∧ Runs s { g := g, rd := [a.toNat, b.toNat, d.toNat], wr := [d.toNat], cls := .amo } ∧ Clean s [a.toNat, b.toNat, d.toNat]
            ∧ ((i = .amoRel g d a b o ∨ i = .amoAr g d a b o) → ∀ e ∈ s.cur.accs, e.kind = .send))
          ∨ (i = .bpost g a b ∧ Runs s { g := g, rd := [a.toNat, b.toNat], cls := .post } ∧ Clean s [a.toNat, b.toNat])
          ∨ (i = .bwait g a ∧ Runs s { g := g, rd := [a.toNat], cls := .bwait } ∧ Clean s [a.toNat])) →
        traps i 8 x ∧ (∀ off, x.toNat % 8 = 0 → s.cur.classify court x 8 = .ok (.spill off) → exec i s = s.trapHere cPerm x))
    ∧ (∀ pl, Runs s { g := g, rd := [a.toNat, b.toNat], cls := .post } → Clean s [a.toNat, b.toNat] → x.toNat % 8 = 0 →
        s.cur.classify court x 8 = .ok pl → (∀ off, pl ≠ .spill off) → (s.reg b.toNat = 0 ∨ 2 ^ 47 ≤ (s.reg b.toNat).toNat) →
        exec (.bpost g a b) s = s.trapHere cRange (s.reg b.toNat)))

/-- R166, R167: a load from the spill window, in whose word no error is latent, writes the bytes at its address, extended, with the poison of their word. That a spill access performs at its issue, though an earlier local access of the task may still wait for its bank, is the
model's choice (R168, R169; DESIGN CHOICE, log entry 104). R166, R167: a store to the spill window writes the low bytes of s[d] at its address and nowhere else, and marks their word: poisoned when s[d] is, clean
when the store covers the whole word, and otherwise as it was. Nothing else but the latent errors that a whole word overwrites changes. -/
def Obligations.SpillAccesses : Prop :=
  (∀ (s : State) (g : BitVec 4) (d b : BitVec 6) (im : BitVec 10), Runs s { g := g, rd := [b.toNat], wr := [d.toNat], cls := .load } →
    Clean s [b.toNat] → Stays s →
    ∀ p ∈ [((.ldb g d b im : Instr), 1, true), (.ldh g d b im, 2, true), (.ldw g d b im, 4, true), (.ldd g d b im, 8, false), (.ldbu g d b im, 1, false),
        (.ldhu g d b im, 2, false), (.ldwu g d b im, 4, false)],
      let size := p.2.1
      let ea := s.reg b.toNat + im.signExtend 64 * BitVec.ofNat 64 size
      ∀ off, ea.toNat % size = 0 → s.cur.classify s.curTile.reg.court ea size = .ok (.spill off) → NoError s (spillKey s.focusT off) →
        let raw : Word := BitVec.ofNat 64 (s.mem.readN (spillKey s.focusT off) size)
        let v : Word := if p.2.2 then (raw.setWidth (8 * size)).signExtend 64 else raw
        ∃ u, exec p.1 s = .next u ∧ RegDone s u d.toNat { val := v, poi := s.marks.has (spillKey s.focusT off) })
  ∧ (∀ (s : State) (g : BitVec 4) (d b : BitVec 6) (im : BitVec 10), Runs s { g := g, rd := [b.toNat, d.toNat], cls := .store } →
    Clean s [b.toNat] → Stays s → s.mem.wf = true →
    ∀ p ∈ [((.stb g d b im : Instr), 1), (.sth g d b im, 2), (.stw g d b im, 4), (.std g d b im, 8)],
      let size := p.2
      let ea := s.reg b.toNat + im.signExtend 64 * BitVec.ofNat 64 size
      ∀ off, ea.toNat % size = 0 → off % size = 0 → s.cur.classify s.curTile.reg.court ea size = .ok (.spill off) →
        let key := spillKey s.focusT off
        let data := s.cur.rf.get d.toNat
        ∃ u, exec p.1 s = .next u
          ∧ (∀ j, j < size → u.mem.get (key + j) = data.val.extractLsb' (8 * j) 8)
          ∧ (∀ a, a < key ∨ key + size ≤ a → u.mem.get a = s.mem.get a)
          ∧ u.marks = (if data.poi then s.marks.setTo key true else if size = 8 then s.marks.setTo key false else s.marks.setTo key (s.marks.has key))
          ∧ { u with mem := s.mem, marks := s.marks, soft := s.soft, hard := s.hard, tiles := s.tiles } = s
          ∧ (∀ v, { u.tile v with slots := (s.tile v).slots } = s.tile v) ∧ OtherSlots s u
          ∧ { u.cur with rf := s.cur.rf, issues := s.cur.issues } = s.cur ∧ RegsKept s u ∧ GoesOn s u)

/-- R166 to R169: a load or store to the tile's scratchpad or to a scratchpad of the court, with room for it, goes out as a request; nothing is written yet. R171, R172, R453, R454: an AMO of any ordering, a BPOST and a BWAIT on a scratchpad word go out as requests; .REL and .AR wait until no load, store, post or AMO of the
task is outstanding, .ACQ and .AR leave the mark that holds later accesses; a BWAIT stands until its answer. -/
def Obligations.AccessesGoOut : Prop :=
  (∀ (s : State) (g : BitVec 4) (d b : BitVec 6) (im : BitVec 10) (pl : Place), Clean s [b.toNat] → Stays s → (∀ off, pl ≠ .spill off) →
    let at_ := fun (size : Nat) (isStore : Bool) => (s.reg b.toNat + im.signExtend 64 * BitVec.ofNat 64 size).toNat % size = 0
      ∧ s.cur.classify s.curTile.reg.court (s.reg b.toNat + im.signExtend 64 * BitVec.ofNat 64 size) size = .ok pl
      ∧ s.accRoom pl isStore (if isStore then size else 0) = true
    let win := match pl with | .window _ _ => true | _ => false
    (Runs s { g := g, rd := [b.toNat], wr := [d.toNat], cls := .load } →
      ∀ p ∈ [((.ldb g d b im : Instr), 1, true), (.ldh g d b im, 2, true), (.ldw g d b im, 4, true), (.ldd g d b im, 8, false),
          (.ldbu g d b im, 1, false), (.ldhu g d b im, 2, false), (.ldwu g d b im, 4, false)],
        at_ p.2.1 false → ∃ u a, exec p.1 s = .next u ∧ GoesOn s u ∧ Requests s u pl a (.read p.2.1)
          ∧ a = { k := s.nextId, kind := .load p.2.1 p.2.2, window := win, dst := d.toNat,
                  ea := s.reg b.toNat + im.signExtend 64 * BitVec.ofNat 64 p.2.1 })
    ∧ (Runs s { g := g, rd := [b.toNat, d.toNat], cls := .store } →
      ∀ p ∈ [((.stb g d b im : Instr), 1), (.sth g d b im, 2), (.stw g d b im, 4), (.std g d b im, 8)],
        at_ p.2 true → ∃ (u : State) (a : TaskAcc) (bs : List MByte), exec p.1 s = .next u ∧ GoesOn s u ∧ Requests s u pl a (.write bs none)
          ∧ a = { k := s.nextId, kind := .store, window := win, ea := s.reg b.toNat + im.signExtend 64 * BitVec.ofNat 64 p.2 }
          ∧ bs.length = p.2 ∧ ∀ (j : Nat) (x : MByte), bs[j]? = some x → x = { val := (s.reg d.toNat).extractLsb' (8 * j) 8, poi := (s.cur.rf.get d.toNat).poi }))
  ∧ (∀ (s : State) (g : BitVec 4) (d a b : BitVec 6) (pl : Place), Stays s → (∀ off, pl ≠ .spill off) → (s.reg a.toNat).toNat % 8 = 0 →
    s.cur.classify s.curTile.reg.court (s.reg a.toNat) 8 = .ok pl →
    let win := match pl with | .window _ _ => true | _ => false
    let x := s.cur.rf.get b.toNat
    (∀ o : BitVec 4, o.toNat < 10 → Runs s { g := g, rd := [a.toNat, b.toNat, d.toNat], wr := [d.toNat], cls := .amo } → Clean s [a.toNat] →
      (o ≠ 8 → Clean s [b.toNat]) → (o = 9 → Clean s [d.toNat]) → s.accRoom pl false 16 = true →
      ∀ p ∈ [((.amo g d a b o : Instr), false, false), (.amoAcq g d a b o, true, false), (.amoRel g d a b o, false, true),
          (.amoAr g d a b o, true, true)],
        (p.2.2 = true → ∀ e ∈ s.cur.accs, e.kind = .send) → ∃ u c, exec p.1 s = .next u ∧ GoesOn s u
          ∧ Requests s u pl c (.atomic 8 o.toNat x.val x.poi (s.reg d.toNat))
          ∧ c = { k := s.nextId, kind := .amo, window := win, dst := d.toNat, ea := s.reg a.toNat, acq := p.2.1 })
    ∧ (Runs s { g := g, rd := [a.toNat, b.toNat], cls := .post } → Clean s [a.toNat, b.toNat] → x.val ≠ 0 → x.val.toNat < 2 ^ 47 →
      s.accRoom pl true 8 = true → ∃ u c, exec (.bpost g a b) s = .next u ∧ GoesOn s u ∧ Requests s u pl c (.post x.val.toNat)
          ∧ c = { k := s.nextId, kind := .post, window := win, ea := s.reg a.toNat })
    ∧ (Runs s { g := g, rd := [a.toNat], cls := .bwait } → Clean s [a.toNat] → s.accRoom pl false 0 = true →
      ∃ u c, exec (.bwait g a) s = .next u ∧ Requests s u pl c .watch ∧ u.cur.rf = s.cur.rf ∧ u.cur.issues = s.cur.issues + 1
          ∧ u.cur.task.map (·.hold) = some (.bwait (s.reg a.toNat) s.nextId false)
          ∧ c = { k := s.nextId, kind := .bwait, window := win, ea := s.reg a.toNat }))

/-- R171, R207, R221: what an AMO does in one step at the memory cell that owns its word: it answers the old value with the word's poison; a clean word gets
the operation's new value with poison clear; a poisoned one is changed by SWAP alone, which carries its operand's poison. No other byte changes. R449, R450: when the updates of a counter are one post of N bytes and arrivals whose bytes total N, in whatever order they perform, the word that was 0 ends
as 0x8000_0000_0000_0000. -/
def Obligations.AtomicsPerform : Prop :=
  (∀ (s : State) (t off op : Nat) (x c : Word) (xp : Bool), s.mem.wf = true → off % 8 = 0 → op < 10 →
    let key := scratchKey t off
    NoError s key →
    let old : Word := BitVec.ofNat 64 (s.mem.readN key 8)
    let po := s.marks.has key
    let r := s.performScratch t off (.atomic 8 op x xp c)
    let new : Option Word :=
      if po && op != 8 then none
      else match op with
        | 0 => some (old + x) | 1 => some (old &&& x) | 2 => some (old ||| x) | 3 => some (old ^^^ x)
        | 4 => some (if old.slt x then old else x) | 5 => some (if x.slt old then old else x)
        | 6 => some (if old.ult x then old else x) | 7 => some (if x.ult old then old else x)
        | 8 => some x | _ => if old = c then some x else none
    r.2.stat = .ok ∧ BitVec.ofNat 64 (ofBytes (r.2.data.map (·.val))) = old ∧ (r.2.data.any (·.poi)) = po
    ∧ BitVec.ofNat 64 (r.1.mem.readN key 8) = new.getD old
    ∧ r.1.marks = (if new.isSome then s.marks.setTo key (op == 8 && xp) else s.marks)
    ∧ (∀ a, a < key ∨ key + 8 ≤ a → r.1.mem.get a = s.mem.get a) ∧ r.1.mem.wf = true)
  ∧ (∀ (l : List (Bool × Nat)) (n : Nat), 0 < n → n < 2 ^ 47 → (l.filter (·.1)) = [(true, n)] → ((l.filter (!·.1)).map (·.2)).sum = n →
    (∀ u ∈ l, 0 < u.2) → l.foldl (fun w u => counterUpdate w u.1 u.2) 0#64 = 0x8000000000000000#64)

/-- R219, R220: a full FENCE over whose work nothing is outstanding goes on, and otherwise it stands; the ACQ and REL forms go on at once and hold the later
instructions of the rule until the work that they list is done. -/
def Obligations.Fences : Prop :=
  ∀ (s : State) (g : BitVec 4) (sc : BitVec 2), Runs s { g := g } → Stays s →
    let work := fun (readsOnly : Bool) => (s.cur.accs.filter fun a => a.kind != .send && (sc != 0 || !a.window)
      && (!readsOnly || (match a.kind with | .load _ _ | .amo | .bwait => true | _ => false))).map (·.k)
    let engines := s.fenceCmds sc.toNat
    let clear := work false = [] ∧ engines.any s.curTile.cmdPending = false
    (clear → ∃ u, exec (.fence g sc) s = .next u ∧ MemKept s u ∧ OtherSlots s u ∧ RegsKept s u ∧ GoesOn s u ∧ u.cur.task.map (·.hold) = some .none)
    ∧ (¬ clear → ∃ u, exec (.fence g sc) s = .next u ∧ MemKept s u ∧ OtherSlots s u ∧ u.cur.rf = s.cur.rf
        ∧ u.cur.task.map (·.hold) = some (.fence (work false) engines))
    ∧ (∃ u, exec (.fenceAcq g sc) s = .next u ∧ MemKept s u ∧ OtherSlots s u ∧ RegsKept s u ∧ GoesOn s u
        ∧ ∃ ti, u.cur.task = some ti ∧ ti.fences.getLast? = some { rel := false, accs := work true, cmds := [] })
    ∧ (∃ u, exec (.fenceRel g sc) s = .next u ∧ MemKept s u ∧ OtherSlots s u ∧ RegsKept s u ∧ GoesOn s u
        ∧ ∃ ti, u.cur.task = some ti ∧ ti.fences.getLast? = some { rel := true, accs := work false, cmds := engines })
    ∧ (∀ (f : FenceHold), f.holds .load = !f.rel ∧ f.holds .bwait = !f.rel ∧ f.holds .tokw = !f.rel ∧ f.holds .depdone = f.rel
        ∧ f.holds .launch = f.rel ∧ f.holds .store = true ∧ f.holds .amo = true ∧ f.holds .post = true ∧ f.holds .send = true
        ∧ f.holds .toks = true ∧ f.holds .cmd = true ∧ f.holds .alu = false)

/-! ## Traps, tokens, channels, ending and waiting (R139 to R145, R240, R245 to R247) -/

/-- R88, R140, R382: taking a trap with nothing outstanding: the results in flight complete, TCAUSE, TVAL and TEPC are written, the task stops; then, when the
designated handler is another live task, the slot's TRAPSET bit is set, and otherwise the launch is being aborted, with the trap's cause if it has none yet
(R384: unless the tile has posted a record of the launch in the same TCC cycle already, it keeps the cause it has).
While an access of the task is outstanding the trap is pending instead, and the task issues nothing. R382, R439: posting a fault record: with room in the court's ring its eight words are written at the next place, word 0 laid out by the rule, words 5 and 6
zero and word 7 with V and the record's number, and FRHEAD goes on; without room it is dropped and counted; the launch keeps its first cause. R384: of two
records that one tile posts in one TCC cycle, the one that stands first in the rule's order (FaultRec.rank: task traps by slot, COL, CPY, collar units by
frame address, the array) has the first number, whichever of them the tile came to first, and gives the launch its cause. -/
def Obligations.TrapEntryAndRecords : Prop :=
  (∀ (s : State) (t k : Nat) (ti : TaskInfo) (i : TrapInfo), k < 16 → (s.slot t k).task = some ti →
    let u := s.takeTrap t k i
    let h := (s.tile t).reg.handler
    ((s.slot t k).outstanding = true → u = s.modSlot t k fun sl => { sl with task := some { ti with trap := some i } })
    ∧ ((s.slot t k).outstanding = false →
        (u.slot t k).sr.tcause = i.cause ∧ (u.slot t k).sr.tval = i.tval ∧ (u.slot t k).sr.tepc = i.tepc ∧ (u.slot t k).infl = []
        ∧ (u.slot t k).rf = ((s.slot t k).drain).rf
        ∧ (∃ tj, (u.slot t k).task = some tj ∧ tj.stopped = true ∧ tj.trap = none)
        ∧ (((s.tile t).handlerFor k).isSome = true → (u.tile t).reg.trapset = (s.tile t).reg.trapset ||| BitVec.ofNat 16 (2 ^ k))
        ∧ ((s.tile t).handlerFor k = none → (s.entry ti.entry).aborting = false → ((s.entry ti.entry).st = 3 ∨ (s.entry ti.entry).st = 4) →
            (u.entry ti.entry).aborting = true ∧ ((s.entry ti.entry).cause = 0 → (u.entry ti.entry).cause = i.cause.toNat)
            ∧ ((s.entry ti.entry).cause ≠ 0 → (∀ r ∈ (s.tile t).posted, r.f.launch ≠ ti.entry) → (u.entry ti.entry).cause = (s.entry ti.entry).cause)))
    ∧ ((s.tile t).handlerFor k).isSome = (h.getLsbD 4 && decide ((h.extractLsb 3 0).toNat ≠ k) && ((s.tile t).slot (h.extractLsb 3 0).toNat).task.isSome))
  ∧ (∀ (s : State) (f : FaultRec), s.mem.wf = true →
    let c := s.court f.crt
    let lg := ((c.w.at 4 0).extractLsb 4 0).toNat
    let base := ((c.w.at 4 0).extractLsb 38 12).toNat * 2 ^ 12
    let u := s.postFault f
    let at_ := hbmBase + base + c.frhead % 2 ^ lg * 64
    (c.v = true → (c.frhead + 2 ^ 32 - c.frtail) % 2 ^ 32 < 2 ^ lg →
      u.mem.readN at_ 8 = f.word0 % 2 ^ 64 ∧ u.mem.readN (at_ + 8) 8 = f.tval.toNat ∧ u.mem.readN (at_ + 16) 8 = f.w2.toNat
      ∧ u.mem.readN (at_ + 24) 8 = f.w3.toNat ∧ u.mem.readN (at_ + 32) 8 = s.time % 2 ^ 64
      ∧ u.mem.readN (at_ + 40) 8 = 0 ∧ u.mem.readN (at_ + 48) 8 = 0 ∧ (c.frhead < 2 ^ 32 → u.mem.readN (at_ + 56) 8 = 2 ^ 63 + c.frhead)
      ∧ (u.court f.crt).frhead = (c.frhead + 1) % 2 ^ 32
      ∧ (∀ a, a < at_ ∨ at_ + 64 ≤ a → u.mem.get a = s.mem.get a))
    ∧ ((c.v = false ∨ 2 ^ lg ≤ (c.frhead + 2 ^ 32 - c.frtail) % 2 ^ 32) →
      (u.court f.crt).frdrop = min (c.frdrop + 1) (2 ^ 32 - 1) ∧ u.mem = s.mem)
    ∧ (u.entry f.launch).cause = (if (s.entry f.launch).cause = 0 then f.cause else (s.entry f.launch).cause)
    ∧ (f.cause < 2 ^ 8 → f.kind < 8 → f.slot < 16 → f.cmd < 64 → f.eng < 4 → f.unit < 2 ^ 16 → f.row < 8 → f.col < 8 → f.crt < 64 → f.launch < 2 ^ 12 →
        let w : Word := BitVec.ofNat 64 f.word0
        (w.extractLsb 63 56).toNat = f.cause ∧ (w.extractLsb 55 53).toNat = f.kind ∧ (w.extractLsb 51 48).toNat = f.slot
        ∧ (w.extractLsb 47 42).toNat = f.cmd ∧ (w.extractLsb 41 40).toNat = f.eng ∧ (w.extractLsb 39 24).toNat = f.unit
        ∧ (w.extractLsb 23 21).toNat = f.row ∧ (w.extractLsb 20 18).toNat = f.col ∧ (w.extractLsb 17 12).toNat = f.crt
        ∧ (w.extractLsb 11 0).toNat = f.launch)
    ∧ (∀ (t : Nat) (g : FaultRec),
        let w := (s.tile t).reg.court
        let here := fun (x : FaultRec) => { x with row := relRow w t, col := relCol w t, crt := courtCrt w }
        let k := s.court (courtCrt w)
        let ring := hbmBase + ((k.w.at 4 0).extractLsb 38 12).toNat * 2 ^ 12
        let l := ((k.w.at 4 0).extractLsb 4 0).toNat
        let v := (s.postTileFault t f).postTileFault t g
        k.v = true → k.frhead + 1 < 2 ^ 32 → (k.frhead + 2 ^ 32 - k.frtail) % 2 ^ 32 < 2 ^ l → (k.frhead + 1 + 2 ^ 32 - k.frtail) % 2 ^ 32 < 2 ^ l →
        (s.tile t).posted = [] → g.rank < f.rank → f.launch = g.launch → (s.entry f.launch).cause = 0 →
        v.mem.readN (ring + k.frhead % 2 ^ l * 64) 8 = (here g).word0 % 2 ^ 64 ∧ v.mem.readN (ring + k.frhead % 2 ^ l * 64 + 56) 8 = 2 ^ 63 + k.frhead
        ∧ v.mem.readN (ring + (k.frhead + 1) % 2 ^ l * 64) 8 = (here f).word0 % 2 ^ 64
        ∧ v.mem.readN (ring + (k.frhead + 1) % 2 ^ l * 64 + 56) 8 = 2 ^ 63 + k.frhead + 1
        ∧ (v.court (courtCrt w)).frhead = (k.frhead + 2) % 2 ^ 32 ∧ (v.entry f.launch).cause = g.cause))

/-- R139, R141: TRAP and SVC trap BREAK and SVC with their code; TEPC is the following instruction. R142, R143: ERET clears the TRAPSET bit of the slot that HTGT names, whose task then runs on at its TEPC, or ends under KILL; the handler goes on; with the
bit clear it traps ILLEGAL. EXIT, once nothing of the task is outstanding, frees its slot, takes one from its launch's live tasks, and ends the
designation of a handler that it is. -/
def Obligations.TrapEretExit : Prop :=
  (∀ (s : State) (g : BitVec 4) (n : BitVec 6), Runs s { g := g } →
    exec (.trap g n) s = .next (Traps s cBreak (n.setWidth 64) (s.cur.rf.pc + 4))
    ∧ exec (.svc g n) s = .next (Traps s cSvc (n.setWidth 64) (s.cur.rf.pc + 4)))
  ∧ (∀ (s : State) (g : BitVec 4), Runs s { g := g } →
    let r := s.curTile.reg
    let t := (r.htgt.extractLsb 3 0).toNat
    (s.cur.sr.priv = true → r.trapset.getLsbD t = false →
      exec (.eret g) s = s.trapHere cIllegal (BitVec.ofNat 64 (0xD0000080 + g.toNat * 2 ^ 22)))
    ∧ (s.cur.sr.priv = true → r.trapset.getLsbD t = true → t ≠ s.focusS → Stays s →
      ∃ u, exec (.eret g) s = .next u ∧ u.curTile.reg.trapset.getLsbD t = false ∧ GoesOn s u ∧ RegsKept s u ∧ MemKept s u
        ∧ (r.htgt.getLsbD 4 = false → OnlyTile s u s.focusT
            ∧ (u.slot s.focusT t).rf = { (s.slot s.focusT t).rf with pc := (s.slot s.focusT t).sr.tepc }
            ∧ (u.slot s.focusT t).task = (s.slot s.focusT t).task.map (fun ti => { ti with stopped := false })
            ∧ { u.slot s.focusT t with rf := (s.slot s.focusT t).rf, task := (s.slot s.focusT t).task } = s.slot s.focusT t)
        ∧ (r.htgt.getLsbD 4 = true → (s.slot s.focusT t).outstanding = false → t ≠ s.focusS →
            (∀ ti, (s.slot s.focusT t).task = some ti → ti.halted = false) → (u.slot s.focusT t).task = none))
    ∧ (s.cur.exitReady = true → ∀ ti, s.cur.task = some ti →
      ∃ u, exec (.exit g) s = .next u ∧ u.cur.task = none ∧ MemKept s u
        ∧ (u.entry ti.entry).live = (s.entry ti.entry).live - 1
        ∧ (r.handler.getLsbD 4 = true → (r.handler.extractLsb 3 0).toNat = s.focusS → u.curTile.reg.handler.getLsbD 4 = false)
        ∧ (r.handler.getLsbD 4 = false → u.curTile.reg.handler = r.handler ∧ OtherSlots s u)))

/-- R144, R145, R29: YIELD leaves its hold; WAIT with a condition of its mask standing writes the conditions that stand to s[d] and goes on, recording a timer
that has run out; with none it stands, with its deadline; with an empty mask it is a YIELD. R145: the conditions that stand for a slot: a channel word, a token from COL, a token from CPY, the deadline reached, and, for the handler's own slot,
TRAPSET nonzero. -/
def Obligations.YieldAndWait : Prop :=
  (∀ (s : State) (g : BitVec 4) (d a : BitVec 6), Stays s →
    (Runs s { g := g } → ∃ u, exec (.yield g) s = .next u ∧ OnlySlot s u s.focusT s.focusS ∧ RegsKept s u ∧ GoesOn s u
      ∧ u.cur.task.map (·.hold) = some s.yieldHold)
    ∧ (Runs s { g := g, rd := [d.toNat, a.toNat], wr := [d.toNat] } → Clean s [d.toNat] →
      let m : BitVec 5 := (s.reg d.toNat).setWidth 5
      (m.getLsbD 3 = true → Clean s [a.toNat]) →
      let deadline := if m.getLsbD 3 then s.time + (s.reg a.toNat).toNat else 2 ^ 65
      let p := m &&& s.curTile.pending s.focusS s.time deadline
      (m = 0 → ∃ u, exec (.wait g d a) s = .next u ∧ OnlySlot s u s.focusT s.focusS ∧ RegsKept s u ∧ GoesOn s u
        ∧ u.cur.task.map (·.hold) = some s.yieldHold)
      ∧ (p ≠ 0 → ∃ u, exec (.wait g d a) s = .next u ∧ OnlySlot s u s.focusT s.focusS ∧ WritesReg s u d.toNat { val := p.setWidth 64 } ∧ GoesOn s u
        ∧ u.cur.rf.p = s.cur.rf.p ∧ u.cur.task.map (·.hold) = some .none
        ∧ u.cur.sr.wrec = (if p.getLsbD 3 then s.cur.sr.wrec ||| 8#5 else s.cur.sr.wrec))
      ∧ (m ≠ 0 → p = 0 → ∃ u, exec (.wait g d a) s = .next u ∧ OnlySlot s u s.focusT s.focusS ∧ u.cur.rf = s.cur.rf
        ∧ u.cur.task.map (·.hold) = some (.wait m deadline d.toNat))))
  ∧ (∀ (x : Tile) (k now deadline : Nat),
    let p := x.pending k now deadline
    p.getLsbD 0 = !(x.slot k).chan.isEmpty ∧ p.getLsbD 1 = !(x.fifoAt 1).isEmpty ∧ p.getLsbD 2 = !(x.fifoAt 3).isEmpty
    ∧ p.getLsbD 3 = decide (deadline ≤ now)
    ∧ p.getLsbD 4 = (x.reg.handler.getLsbD 4 && decide ((x.reg.handler.extractLsb 3 0).toNat = k) && decide (x.reg.trapset ≠ 0)))

/-- R231, R240: TOKW takes the oldest token of its FIFO to CTL and goes on, or traps with the token's cause, the token and the following instruction, the
token being consumed all the same; TOKS, once every access of the task has performed and the FIFO has room, pushes the token of cause 0, engine 0 and
command 0x3F. R245 to R247: SEND to a well-formed destination of the court puts its word, with its poison, into the message port and its packet, for the slot and tile named,
into the fabric interface, as an access of the task; a destination out of form or out of the court traps RANGE; RECV takes the oldest word of the task's
channel, with its poison. -/
def Obligations.TokensAndChannels : Prop :=
  (∀ (s : State) (g : BitVec 4) (e : BitVec 1), Stays s →
    let f := if e = 0 then 1 else 3
    let q := if e = 0 then 0 else 2
    (∀ tok rest, Runs s { g := g, cls := .tokw } → s.curTile.fifoAt f = tok :: rest →
      (tok.extractLsb 15 8 = 0#8 → ∃ u, exec (.tokw g e) s = .next u ∧ OnlyTile s u s.focusT ∧ OtherSlots s u ∧ RegsKept s u ∧ GoesOn s u
        ∧ u.curTile.fifoAt f = rest ∧ ∀ j, j ≠ f → u.curTile.fifoAt j = s.curTile.fifoAt j)
      ∧ (tok.extractLsb 15 8 ≠ 0#8 → s.cur.outstanding = false → s.cur.task.isSome = true →
        ∃ u, exec (.tokw g e) s = .next u ∧ u.cur.sr.tcause = tok.extractLsb 15 8 ∧ u.cur.sr.tval = tok.setWidth 64 ∧ u.cur.sr.tepc = s.cur.rf.pc + 4
          ∧ ((s.curTile.handlerFor s.focusS).isSome = true → u.curTile.fifoAt f = rest)))
    ∧ (Runs s { g := g, cls := .toks } → s.cur.accs = [] → (s.curTile.fifoAt q).length < 15 →
      ∃ u, exec (.toks g e) s = .next u ∧ OnlyTile s u s.focusT ∧ OtherSlots s u ∧ RegsKept s u ∧ GoesOn s u
        ∧ u.curTile.fifoAt q = s.curTile.fifoAt q ++ [0x003F#16] ∧ ∀ j, j ≠ q → u.curTile.fifoAt j = s.curTile.fifoAt j))
  ∧ (∀ (s : State) (g : BitVec 4) (d a b : BitVec 6),
    let dst := s.reg a.toNat
    let court := s.curTile.reg.court
    let good := dst.extractLsb 63 16 = 0#48 ∧ dst.extractLsb 9 4 = 0#6 ∧ (dst.extractLsb 15 13).toNat ≤ (court.extractLsb 41 39).toNat
      ∧ (dst.extractLsb 12 10).toNat ≤ (court.extractLsb 38 36).toNat
    (Runs s { g := g, rd := [a.toNat, b.toNat], cls := .send } → Clean s [a.toNat] →
      (¬ good → exec (.send g a b) s = s.trapHere cRange dst)
      ∧ (good → Stays s → s.cur.sendOpen dst = false → s.cur.windowRoom = true → s.curTile.outbox.length < 16 → s.curTile.ni.canSend s.focusS 8 = true →
        ∃ u o, exec (.send g a b) s = .next u ∧ OnlyTile s u s.focusT ∧ OtherSlots s u ∧ RegsKept s u ∧ GoesOn s u
          ∧ u.cur.accs = s.cur.accs ++ [{ k := s.nextId, kind := .send, window := true, ea := dst }]
          ∧ u.curTile.outbox = s.curTile.outbox ++ [{ slot := s.focusS, dst := dst, w := s.cur.rf.get b.toNat, k := s.nextId, sent := true }]
          ∧ u.curTile.ni.outst = s.curTile.ni.outst ++ [o] ∧ u.curTile.ni.txq = s.curTile.ni.txq ++ [{ h := o.h, pay := o.pay }]
          ∧ o.h.kind = kMSG ∧ o.h.tslot = (dst.extractLsb 3 0).toNat ∧ o.h.stream = s.focusS ∧ o.pay = storeBytes 8 (s.cur.rf.get b.toNat)
          ∧ o.h.dtile = tileBits (courtTile court (dst.extractLsb 15 13).toNat (dst.extractLsb 12 10).toNat)))
    ∧ (∀ w rest, Runs s { g := g, wr := [d.toNat] } → Stays s → s.cur.chan = w :: rest →
      ∃ u, exec (.recv g d) s = .next u ∧ OnlySlot s u s.focusT s.focusS ∧ WritesReg s u d.toNat w ∧ GoesOn s u ∧ u.cur.chan = rest
        ∧ u.cur.rf.p = s.cur.rf.p ∧ { u.cur with rf := s.cur.rf, issues := s.cur.issues, chan := s.cur.chan } = s.cur))

/-! ## State registers, scans, clocks, launches (R133 to R137, R146 to R150, R415, R416) -/

/-- R137, with R121 for TFLAGS: GETS writes the item of its selector, with poison clear. R134, R135: the items, field by field, that a selector names for slot k of a tile. R77, R120, R134, R135, R137: PUTS sets the RW fields of its item, clears the W1C fields whose bit is 1, leaves the read-only ones, and changes nothing else;
5, 6 or 7 for LKD is ignored. -/
def Obligations.StateRegisters : Prop :=
  (∀ (s : State) (g : BitVec 4) (d : BitVec 6) (n : BitVec 10), Runs s { g := g, wr := [d.toNat] } → Stays s →
    (isPrivileged (.gets g d n) = true → s.cur.sr.priv = true) → (n = 4 → s.cur.flagsStable = true) →
    Yields (.gets g d n) s d (BitVec.ofNat 64 (s.curTile.item s.focusS s.time n.toNat)))
  ∧ (∀ (x : Tile) (k now : Nat),
    let sl := x.slot k
    let it := fun n => (BitVec.ofNat 64 (x.item k now n) : Word)
    (it 0x000 = sl.sr.wrec.setWidth 64 <<< 8 ||| (if sl.sr.priv then 0x80#64 else 0#64) ||| sl.sr.prio.setWidth 64 <<< 4 ||| sl.sr.slot.setWidth 64)
    ∧ it 0x001 = sl.sr.tcause.setWidth 64 ∧ it 0x002 = sl.sr.tval ∧ it 0x003 = sl.sr.tepc.setWidth 64
    ∧ it 0x004 = sl.sr.fen.setWidth 64 <<< 5 ||| sl.sr.flg.setWidth 64
    ∧ it 0x008 = sl.rf.lk0.setWidth 64 ∧ it 0x009 = sl.rf.lk1.setWidth 64 ∧ it 0x00A = sl.rf.lk2.setWidth 64 ∧ it 0x00B = sl.rf.lk3.setWidth 64
    ∧ it 0x00C = sl.rf.lkd.setWidth 64
    ∧ it 0x010 = sl.rf.lc0.count ∧ it 0x011 = sl.rf.lc0.start.setWidth 64 ∧ it 0x012 = sl.rf.lc0.stop.setWidth 64
    ∧ it 0x014 = sl.rf.lc1.count ∧ it 0x015 = sl.rf.lc1.start.setWidth 64 ∧ it 0x016 = sl.rf.lc1.stop.setWidth 64
    ∧ it 0x018 = sl.rf.pc.setWidth 64 ∧ it 0x020 = sl.sr.spSize.setWidth 64 <<< 16 ||| sl.sr.spBase.setWidth 64
    ∧ it 0x038 = BitVec.ofNat 64 x.ebusy ∧ it 0x030 = x.reg.handler.setWidth 64 ∧ it 0x031 = x.reg.htgt.setWidth 64 ∧ it 0x032 = x.reg.trapset.setWidth 64
    ∧ it 0x048 = x.reg.court ∧ it 0x049 = x.reg.asid.setWidth 64 ∧ it 0x04A = x.reg.grant.setWidth 64 ∧ it 0x050 = BitVec.ofNat 64 now
    ∧ (∀ j, j < 8 → it (0x060 + j) = (x.reg.pmsel.at j 0).setWidth 64)
    ∧ (x.reg.tccm1 < 16 → x.reg.colm1 < 16 → x.reg.cpym1 < 16 →
        it 0x040 = (if x.reg.lock then 0x80000000#64 else 0#64) ||| BitVec.ofNat 64 x.reg.cpym1 <<< 16 ||| BitVec.ofNat 64 x.reg.colm1 <<< 8
          ||| BitVec.ofNat 64 x.reg.tccm1))
  ∧ (∀ (s : State) (g : BitVec 4) (a : BitVec 6) (n : BitVec 10), Runs s { g := g, rd := [a.toNat] } → Clean s [a.toNat] → Stays s →
    (isPrivileged (.puts g a n) = true → s.cur.sr.priv = true) → (n = 4 → s.cur.flagsStable = true) →
    let v := s.reg a.toNat
    let link : BitVec 32 := v.setWidth 32 &&& 0xFFFFFFFC#32
    ∃ u, exec (.puts g a n) s = .next u ∧ OnlyTile s u s.focusT ∧ OtherSlots s u ∧ GoesOn s u
      ∧ (∀ r, u.cur.rf.get r = s.cur.rf.get r) ∧ u.cur.rf.p = s.cur.rf.p
      ∧ u.cur.sr = { s.cur.sr with
          wrec := if n = 0x000 then s.cur.sr.wrec &&& ~~~(v.extractLsb 12 8) else s.cur.sr.wrec,
          fen := if n = 0x004 then v.extractLsb 9 5 else s.cur.sr.fen, flg := if n = 0x004 then v.extractLsb 4 0 else s.cur.sr.flg }
      ∧ u.cur.rf.lk0 = (if n = 0x008 then link else s.cur.rf.lk0) ∧ u.cur.rf.lk1 = (if n = 0x009 then link else s.cur.rf.lk1)
      ∧ u.cur.rf.lk2 = (if n = 0x00A then link else s.cur.rf.lk2) ∧ u.cur.rf.lk3 = (if n = 0x00B then link else s.cur.rf.lk3)
      ∧ u.cur.rf.lkd = (if n = 0x00C ∧ (v.extractLsb 2 0).toNat ≤ 4 then v.extractLsb 2 0 else s.cur.rf.lkd)
      ∧ u.curTile.reg.handler = (if n = 0x030 then v.extractLsb 4 0 else s.curTile.reg.handler)
      ∧ u.curTile.reg.htgt = (if n = 0x031 then v.extractLsb 4 0 else s.curTile.reg.htgt)
      ∧ (∀ j, j < 8 → u.curTile.reg.pmsel.at j 0 = if n.toNat = 0x060 + j then v.extractLsb 17 0 else s.curTile.reg.pmsel.at j 0)
      ∧ { u.curTile.reg with handler := s.curTile.reg.handler, htgt := s.curTile.reg.htgt, pmsel := s.curTile.reg.pmsel } = s.curTile.reg
      ∧ { u.curTile with slots := s.curTile.slots, reg := s.curTile.reg } = s.curTile
      ∧ { u.cur with rf := s.cur.rf, sr := s.cur.sr, issues := s.cur.issues } = s.cur)

/-- R149, R150: a scan by a privileged task that has none outstanding, to an address that its check accepts, starts: SCNR with its destination, SCNW with the
value and poison of s[d]; an address that the check refuses traps with the check's cause and the address. -/
def Obligations.ScansStart : Prop :=
  ∀ (s : State) (g : BitVec 4) (d a : BitVec 6), s.cur.sr.priv = true → s.cur.scanFree = true → Clean s [a.toNat] →
    let addr := s.reg a.toNat
    let since := s.curTile.cyc 0 s.time
    (Runs s { g := g, rd := [a.toNat], wr := [d.toNat] } →
      (∀ c, s.scanCheck s.focusT addr none = .error c → exec (.scnr g d a) s = s.trapHere c addr)
      ∧ (∀ p, s.scanCheck s.focusT addr none = .ok p → Stays s → ∃ u, exec (.scnr g d a) s = .next u ∧ OnlySlot s u s.focusT s.focusS ∧ RegsKept s u
          ∧ GoesOn s u ∧ u.cur.task.map (·.scan) = some (some { isWrite := false, addr := addr, data := {}, dst := d.toNat, pc := s.cur.rf.pc, since := since })))
    ∧ (Runs s { g := g, rd := [a.toNat, d.toNat] } →
      (∀ c, s.scanCheck s.focusT addr (some (s.reg d.toNat)) = .error c → exec (.scnw g d a) s = s.trapHere c addr)
      ∧ (∀ p, s.scanCheck s.focusT addr (some (s.reg d.toNat)) = .ok p → Stays s →
          ∃ u, exec (.scnw g d a) s = .next u ∧ OnlySlot s u s.focusT s.focusS ∧ RegsKept s u ∧ GoesOn s u
            ∧ u.cur.task.map (·.scan)
              = some (some { isWrite := true, addr := addr, data := s.cur.rf.get d.toNat, dst := 0, pc := s.cur.rf.pc, since := since })))

/-- R146: CLKDIV under a clock lock traps CLOCK_LOCKED with the engine, out of range traps RANGE with the value; otherwise the divisor, held to the court's grant,
is asked for 64 reference cycles on, and the task stands at it; once the divisor has taken effect the instruction completes with the old one. R146: a divisor that was asked for takes effect when its time has come; on a pair half the COL divisor of both halves changes. -/
def Obligations.ClockDivisors : Prop :=
  (∀ (s : State) (g : BitVec 4) (d a : BitVec 6) (e : BitVec 2), e.toNat < 3 →
    let n := s.reg a.toNat
    let r := s.curTile.reg
    let lo := if e = 0 then 1 else 2
    let least := (if e = 0 then (r.grant.extractLsb 23 20).toNat else (r.grant.extractLsb 19 16).toNat) + 1
    let old := (if e = 0 then r.tccm1 else if e = 1 then r.colm1 else r.cpym1) + 1
    (Runs s { g := g, rd := [a.toNat], wr := [d.toNat] } → Clean s [a.toNat] →
      (r.lock = true → exec (.clkdiv g d a e) s = s.trapHere cClockLocked (e.setWidth 64))
      ∧ (r.lock = false → (n.toNat < lo ∨ 16 < n.toNat) → exec (.clkdiv g d a e) s = s.trapHere cRange n)
      ∧ (r.lock = false → lo ≤ n.toNat → n.toNat ≤ 16 →
        ∃ u, exec (.clkdiv g d a e) s = .next u ∧ OnlyTile s u s.focusT ∧ OtherSlots s u ∧ u.cur.rf = s.cur.rf
          ∧ u.curTile.reg = { r with newDiv := r.newDiv ++ [(s.focusS, e.toNat, max n.toNat least, s.time + 64)] }
          ∧ u.cur.task.map (·.hold) = some (.clkdiv e.toNat d.toNat old)))
    ∧ (∀ ti dst was, s.cur.task = some ti → ti.hold = .clkdiv e.toNat dst was → ti.stopped = false → ti.halted = false → ti.trap = none →
        s.cur.stop.state = 0 → s.cur.infl.any (·.isFp) = false → s.stopsHere = false → s.curTile.divDone s.focusS = true → Stays s →
        ∃ u, exec (.clkdiv g d a e) s = .next u ∧ OnlySlot s u s.focusT s.focusS ∧ WritesReg s u dst { val := BitVec.ofNat 64 was } ∧ EndsIt s u
          ∧ u.cur.rf.p = s.cur.rf.p ∧ u.cur.task = some { ti with hold := .none }))
  ∧ (∀ (s : State) (t slot e n due : Nat) (rest : List (Nat × Nat × Nat × Nat)), t < 768 → (s.tile t).reg.newDiv = (slot, e, n, due) :: rest → due ≤ s.time →
    0 < n → e < 3 →
    ∃ u, exec (.clkdivEffect t) s = .next u ∧ (u.tile t).reg.div e = n ∧ (u.tile t).reg.newDiv = rest
      ∧ (∀ f, f < 3 → f ≠ e → (u.tile t).reg.div f = (s.tile t).reg.div f)
      ∧ (u.tile t).cyc e s.time = (s.tile t).cyc e s.time
      ∧ (courtPairH (s.tile t).reg.court = true → e = 1 → pairPartner (s.tile t).reg.court t ≠ t →
          (u.tile (pairPartner (s.tile t).reg.court t)).reg.div 1 = n))

/-- R415, R416: LAUNCH of an aligned packet in the tile's scratchpad, once every access of the task has performed, asks for its first word and stands; DEPDONE
takes one from the expected dependences of a waiting entry that the task may name, which becomes READY when none is left; each traps where the rule says.
That DEPDONE acts in the event of its issue, and stands while a packet waits at the dispatcher before it, is the model's reading (R416, R418; DEDUCED, log
entry 16). -/
def Obligations.LaunchAndDepdone : Prop :=
  ∀ (s : State) (g : BitVec 4) (d a : BitVec 6), Clean s [a.toNat] →
    let p := s.reg a.toNat
    (Runs s { g := g, rd := [a.toNat], wr := [d.toNat], cls := .launch } →
      (p.toNat % 8 ≠ 0 → exec (.launch g d a) s = s.trapHere cAlign p)
      ∧ (∀ c, p.toNat % 8 = 0 → s.cur.classify s.curTile.reg.court p 128 = .error c → exec (.launch g d a) s = s.trapHere c p)
      ∧ (∀ pl, p.toNat % 8 = 0 → s.cur.classify s.curTile.reg.court p 128 = .ok pl → (∀ off, pl ≠ .loc off) → exec (.launch g d a) s = s.trapHere cRange p)
      ∧ (∀ off, p.toNat % 8 = 0 → s.cur.classify s.curTile.reg.court p 128 = .ok (.loc off) → s.cur.accs = [] →
        ∃ u, exec (.launch g d a) s = .next u ∧ OnlyTile s u s.focusT ∧ OtherSlots s u ∧ u.cur.rf = s.cur.rf
          ∧ u.cur.task.map (·.hold) = some (.launch d.toNat p [])
          ∧ u.cur.accs = [{ k := s.nextId, kind := .packet, window := false, ea := p }]
          ∧ u.curTile.tccReq = s.curTile.tccReq ++ [{ who := .task s.focusT s.focusS s.nextId, off := off, op := .read 8 }]))
    ∧ (Runs s { g := g, rd := [a.toNat], cls := .depdone } →
      let e := (p.extractLsb 11 0).toNat
      let en := s.entry e
      let owns := s.cur.sr.priv = true ∨ en.courtNo = (s.curTile.reg.court.extractLsb 5 0).toNat
      let named := en.gen = (p.extractLsb 15 12).toNat ∧ en.st = 1 ∧ en.extcnt ≠ 0
      (p.extractLsb 63 16 ≠ 0#48 → exec (.depdone g a) s = s.trapHere cRange p)
      ∧ (p.extractLsb 63 16 = 0#48 → s.dispQ ≠ [] → exec (.depdone g a) s = .next s)
      ∧ (p.extractLsb 63 16 = 0#48 → s.cur.accs = [] → s.dispQ = [] → s.ngambi.lq = [] →
        (¬ named → exec (.depdone g a) s = s.trapHere cRange p)
        ∧ (named → ¬ owns → exec (.depdone g a) s = s.trapHere cPerm p)
        ∧ (named → owns → Stays s → ∃ u, exec (.depdone g a) s = .next u ∧ MemKept s u ∧ OtherSlots s u ∧ RegsKept s u ∧ GoesOn s u
            ∧ (u.entry e).extcnt = en.extcnt - 1 ∧ (u.entry e).st = (if en.predcnt + (en.extcnt - 1) = 0 then 2 else 1))))

/-! ## Engine commands from the task's side (R233, R243, R244, R285) -/

/-- R233, R281, R285: each engine command appends its entry at the tail of its engine's queue, which has room; FIRE and COPY of a court whose quota is exhausted
trap QUOTA instead. R243, R244: EFENCE goes on when no command that the task has queued to a selected engine is left, and stands otherwise; EQRY writes the selected engines'
causes, counts and busy bits and clears the causes that it read. -/
def Obligations.EngineCommands : Prop :=
  (∀ (s : State) (g : BitVec 4) (a b : BitVec 6) (f : BitVec 4), Clean s [a.toNat, b.toNat] →
    let va := s.reg a.toNat
    let vb := s.reg b.toNat
    let entry := (s.cur.task.map (·.entry)).getD 0
    let quota := (s.court (s.curTile.reg.court.extractLsb 5 0).toNat).ex
    let queued := fun (i : Instr) (col : Bool) (cmd : Nat) (v w : Word) => Stays s → (if col then s.curTile.colq.length < 8 else s.curTile.cpyq.length < 16) →
      let c : Cmd := { uid := s.nextId, cmd := cmd, flags := f.toNat, slot := s.focusS, a := v, b := w, entry := entry, priv := s.cur.sr.priv }
      ∃ u, exec i s = .next u ∧ OnlyTile s u s.focusT ∧ OtherSlots s u ∧ RegsKept s u ∧ GoesOn s u ∧ u.nextId = s.nextId + 1
        ∧ { u.curTile with slots := s.curTile.slots, colq := s.curTile.colq, cpyq := s.curTile.cpyq } = s.curTile
        ∧ u.curTile.colq = (if col then s.curTile.colq ++ [c] else s.curTile.colq)
        ∧ u.curTile.cpyq = (if col then s.curTile.cpyq else s.curTile.cpyq ++ [c])
    (Runs s { g := g, rd := [a.toNat], cls := .cmd } → queued (.cfgld g a f) true 0 va 0 ∧ queued (.cstop g a f) true 5 va 0)
    ∧ (Runs s { g := g, rd := [a.toNat, b.toNat], cls := .cmd } →
      queued (.cfgpart g a b f) true 1 va vb ∧ queued (.bind g a b f) true 3 va vb ∧ queued (.tset g a b f) true 4 va vb
      ∧ queued (.cpys g a b f) false 0 va vb ∧ queued (.cpyd g a b f) false 1 va vb ∧ queued (.cpyf g a b f) false 3 va vb
      ∧ (quota = false → queued (.fire g a b f) true 2 va vb ∧ queued (.copy g a b f) false 2 va vb)
      ∧ (s.curTile.colq.length < 8 → quota = true → exec (.fire g a b f) s = s.trapHere cQuota 0)
      ∧ (s.curTile.cpyq.length < 16 → quota = true → exec (.copy g a b f) s = s.trapHere cQuota 0)
      ∧ (8 ≤ s.curTile.colq.length → exec (.fire g a b f) s = .next s) ∧ (16 ≤ s.curTile.cpyq.length → exec (.copy g a b f) s = .next s)))
  ∧ (∀ (s : State) (g : BitVec 4) (d : BitVec 6) (m : BitVec 2), Stays s →
    let x := s.curTile
    let entry := (s.cur.task.map (·.entry)).getD 0
    let mine := fun c : Cmd => c.slot == s.focusS && c.entry == entry
    let col := (x.colq.filter mine).map (·.uid)
    let cpy := (x.cpyq.filter mine).map (·.uid)
    let sel := (if m.getLsbD 0 then col else []) ++ (if m.getLsbD 1 then cpy else [])
    (Runs s { g := g } →
      (sel = [] → ∃ u, exec (.efence g m) s = .next u ∧ OnlySlot s u s.focusT s.focusS ∧ RegsKept s u ∧ GoesOn s u ∧ u.cur.task.map (·.hold) = some .none)
      ∧ (sel ≠ [] → ∃ u, exec (.efence g m) s = .next u ∧ OnlySlot s u s.focusT s.focusS ∧ u.cur.rf = s.cur.rf
          ∧ u.cur.task.map (·.hold) = some (.efence m.toNat sel)))
    ∧ (Runs s { g := g, wr := [d.toNat] } → col.length < 16 → cpy.length < 32 →
      let v : Word := (if m.getLsbD 0 then s.cur.lcol.setWidth 64 <<< 32 ||| BitVec.ofNat 64 col.length <<< 8 ||| BitVec.ofNat 64 (x.ebusy % 2) else 0)
        ||| (if m.getLsbD 1 then s.cur.lcpy.setWidth 64 <<< 40 ||| BitVec.ofNat 64 cpy.length <<< 16 ||| BitVec.ofNat 64 (x.ebusy / 2 % 2) <<< 1 else 0)
      ∃ u, exec (.eqry g d m) s = .next u ∧ OnlySlot s u s.focusT s.focusS ∧ WritesReg s u d.toNat { val := v } ∧ GoesOn s u ∧ u.cur.rf.p = s.cur.rf.p
        ∧ u.cur.lcol = (if m.getLsbD 0 then 0 else s.cur.lcol) ∧ u.cur.lcpy = (if m.getLsbD 1 then 0 else s.cur.lcpy)))

/-! ## Events of the task slots (R29, R85, R140, R142, R145, R146, R150, R167, R170, R391 to R393, R454, R455) -/

/-- R29, R140, R142, R145, R150: TRAP_ENTRY takes a pending trap once nothing of the task is outstanding; WAIT_TIMER_EXPIRY records the timer; SCAN_COMPLETION, 40
TCC cycles or more after the issue, writes the item read to the scan's destination, or the scan's data to the item. That an SCNW of a scalar register carries its source's poison is the model's reading
(R81, R149; DEDUCED, log entry 13). R142: a write of TRAPSET stops each live task whose bit it sets and that is not stopped, with TEPC at its next instruction, and lets each task whose set bit
it clears run on at its TEPC; other causes and values stay. -/
def Obligations.TaskEvents : Prop :=
  (∀ (s : State) (t k : Nat) (ti : TaskInfo), t < 768 → k < 16 → (s.slot t k).task = some ti →
    let sl := s.slot t k
    (∀ i, ti.trap = some i → sl.outstanding = false → sl.inside = false → ti.stopped = false → ti.halted = false →
      exec (.trapEntry t k) s = .next (s.takeTrap t k (i.atPc sl.rf.pc)))
    ∧ (∀ m dl d, ti.hold = .wait m dl d → m.getLsbD 3 = true → dl ≤ s.time →
        ∃ u, exec (.waitTimerExpiry t k) s = .next u ∧ OnlySlot s u t k ∧ (u.slot t k).sr.wrec = sl.sr.wrec ||| 8#5
          ∧ { u.slot t k with sr := { sl.sr with wrec := sl.sr.wrec } } = sl)
    ∧ (∀ o a, ti.scan = some o → scanAt t o.addr = some a → o.since + 40 ≤ (s.tile t).cyc 0 s.time → s.scanWaits (some (t, k)) a o = false → ti.ending = false →
        (o.isWrite = false → s.scanScrub a = s →
          ∃ u, exec (.scanCompletion t k) s = .next u ∧ OnlySlot s u t k
            ∧ u.slot t k = { sl with
                rf := sl.rf.set o.dst { val := BitVec.ofNat 64 ((s.scanValue a).getD 0) }, task := some { ti with scan := none } })
        ∧ (∀ v j r, o.isWrite = true → a = .tile v 0 (j * 2 ^ 24 + 0x400 + r) → v < 768 → s.role v = 1 → j < 16 → 0 < r → r < 64 →
          ∃ u, exec (.scanCompletion t k) s = .next u ∧ (u.slot v j).rf.get r = o.data
            ∧ (∀ q, q ≠ r → (u.slot v j).rf.get q = (s.slot v j).rf.get q) ∧ (u.slot t k).task.map (·.scan) = some none)))
  ∧ (∀ (s : State) (t : Nat) (v : BitVec 16), t < 768 → s.trapsetWaits t v.toNat = false →
    ∃ u, exec (.trapsetWrite t v) s = .next u ∧ MemKept s u
      ∧ ∀ (j : Nat) (ti : TaskInfo), j < 16 → (s.slot t j).task = some ti →
        let was := (s.tile t).reg.trapset.getLsbD j
        (v.getLsbD j = true → was = false → ti.stopped = false → ti.halted = false → ti.trap = none → (u.tile t).reg.trapset.getLsbD j = true
          ∧ (u.slot t j).task.map (·.stopped) = some true ∧ (u.slot t j).sr.tepc = (s.slot t j).rf.pc
          ∧ (u.slot t j).sr.tcause = (s.slot t j).sr.tcause ∧ (u.slot t j).sr.tval = (s.slot t j).sr.tval)
        ∧ (v.getLsbD j = false → was = true → (u.tile t).reg.trapset.getLsbD j = false
          ∧ (u.slot t j).task.map (·.stopped) = some false ∧ (u.slot t j).rf = { (s.slot t j).rf with pc := (s.slot t j).sr.tepc }))

/-- R167, R170, R171: the answer to a court-window access of a task takes the access away; a load or AMO writes its destination, 0 with poison when the
answer is FAIL or UNKNOWN; a store that failed makes the task trap before its next instruction, REMOTE_FAIL or LINK_UNKNOWN with its address. R454, R455: the change notice of a word makes each task that watches it read the word again, and frees their entries; a BWAIT that found no free entry reads
again 256 reference cycles later. -/
def Obligations.TaskAnswers : Prop :=
  (∀ (s : State) (t k i : Nat) (r : Reply) (a : TaskAcc) (rest : List TaskAcc) (ti : TaskInfo), t < 768 → k < 16 →
    (s.tile t).answerFor k = some (i, r) → (s.slot t k).task = some ti → (s.slot t k).accs = a :: rest → a.k = i → (∀ b ∈ rest, b.k ≠ i) →
    ti.ending = false →
    let failed := r.stat = .fail ∨ r.stat = .unknown
    let next := if (s.slot t k).inside then (s.slot t k).rf.loopEnd.pc else (s.slot t k).rf.pc
    ∃ u, exec (.courtWindowCompletion t k) s = .next u ∧ MemKept s u ∧ (∀ j, j ≠ k → u.slot t j = s.slot t j)
      ∧ (∀ size sg, a.kind = .load size sg → (u.slot t k).accs = rest ∧ (u.slot t k).task = some ti
          ∧ (u.slot t k).rf = (s.slot t k).rf.set a.dst
              (if failed then { val := 0, poi := true }
               else { val := extend size sg (ofBytes (r.data.map (·.val))), poi := r.data.any (·.poi) }))
      ∧ (a.kind = .amo → ¬ failed → (u.slot t k).accs = rest ∧ (u.slot t k).task = some ti
          ∧ (u.slot t k).rf = (s.slot t k).rf.set a.dst { val := BitVec.ofNat 64 (ofBytes (r.data.map (·.val)) % 2 ^ 64), poi := r.data.any (·.poi) })
      ∧ ((a.kind = .store ∨ a.kind = .send ∨ a.kind = .post) → (u.slot t k).accs = rest ∧ (u.slot t k).rf = (s.slot t k).rf
          ∧ (¬ failed → (u.slot t k).task = some ti)
          ∧ (failed → ti.trap = none → ti.stopped = false → (u.slot t k).task = some { ti with
              trap := some { cause := if r.stat = .fail then cRemoteFail else cLinkUnknown, tval := a.ea, tepc := next, ipc := next, late := true } })))
  ∧ (∀ (s : State) (t k : Nat) (ti : TaskInfo) (ea : Word) (since : Nat) (w : Bool) (pl : Place), t < 768 → k < 16 → (s.slot t k).task = some ti →
    ti.hold = .bwatch ea since w → (s.slot t k).classify (s.tile t).reg.court ea 8 = .ok pl →
    ({ s with focusT := t, focusS := k } : State).accRoom pl false 0 = true → ti.halted = false → ti.stopped = false → (s.slot t k).stop.state = 0 →
    let again := fun (u : State) => MemKept s u ∧ u.nextId = s.nextId + 1 ∧ (u.slot t k).rf = (s.slot t k).rf
      ∧ (∃ a, (u.slot t k).accs = (s.slot t k).accs ++ [a] ∧ a.kind = .bwait ∧ a.k = s.nextId ∧ a.ea = ea)
      ∧ (u.slot t k).task = some { ti with hold := .bwait ea s.nextId false }
    (w = false → since + 256 ≤ s.time → ∃ u, exec (.bwaitRepoll t k) s = .next u ∧ again u)
    ∧ (∀ v c n, v < 768 → (s.tile v).notice.contains c = true → (s.tile v).watch.at (c / 64 % 32) [] = [(c, .task t k n)] →
        ∃ u, exec (.changeNotice v c) s = .next u ∧ again u ∧ (u.tile v).watch.at (c / 64 % 32) [] = [] ∧ (u.tile v).notice = setDel (s.tile v).notice c))

/-- R391 to R393: while its court stops, a task that stands before an instruction of its side table stops in STATE 1 with that entry's live masks; one that has
not been ready for 256 TCC cycles stops in STATE 2; one that has issued 4,096 instructions since stops in STATE 2 with OVR set and posts a record. -/
def Obligations.TaskStops : Prop :=
  ∀ (s : State) (t k : Nat), t < 768 → k < 16 → s.runsOn t k = true →
    let sl := s.slot t k
    (∀ sm pm, sl.between = true → s.sideMasks t k = some (sm, pm) → ∃ u, exec (.taskState1Stop t k) s = .next u ∧ OnlySlot s u t k
      ∧ (u.slot t k).stop = { sl.stop with state := 1, ovr := false, smask := sm, pmask := pm } ∧ (u.slot t k).rf = sl.rf ∧ (u.slot t k).sr = sl.sr)
    ∧ (sl.stoppable = true → 256 ≤ sl.stop.notReady → ∃ u, exec (.taskState2Stop t k) s = .next u ∧ OtherThan s u t k ∧ MemKept s u
      ∧ ((∀ ea n w, sl.task.map (·.hold) ≠ some (.bwait ea n w)) → (∀ ea n w, sl.task.map (·.hold) ≠ some (.bwatch ea n w)) → OnlySlot s u t k)
      ∧ (u.slot t k).stop = { sl.stop with state := 2, ovr := false, smask := 0xFFFFFFFFFFFFFFFF#64, pmask := 0xFF#8 }
      ∧ (u.slot t k).rf = sl.rf ∧ (u.slot t k).sr = sl.sr)
    ∧ (sl.between = true → sl.stop.issued + 4096 ≤ sl.issues → ∃ u, exec (.preemptOverrun t k) s = .next u
      ∧ (u.slot t k).stop = { sl.stop with state := 2, ovr := true, smask := 0xFFFFFFFFFFFFFFFF#64, pmask := 0xFF#8 } ∧ (u.slot t k).rf = sl.rf
      ∧ (u.slot t k).sr = sl.sr ∧ OtherThan s u t k
      ∧ (∀ e, sl.task.map (·.entry) = some e → (s.entry e).cause = 0 → (u.entry e).cause = cPreemptOverrun.toNat))

/-! ## Engines: start, work and retire of a command, engine reset (R234 to R239, R248, R251, R263, R281 to R288) -/

/-- R234, R235, R248, R281, R285, R287, R288: a command that is next and finds its tokens and its condition starts: it pops a token from each FIFO that its WP
and WC bits name; after a token with a cause it is finished with that cause and does no work; a COL command with bad values finishes with CONFIG; and what the
settings of the copy engine, CFGLD, CFGPART (which closes the rack of the region of a running rally that it patches), BIND, FIRE, TSET and CSTOP do when they start. The condition of such a CFGPART
waits, so the rack closes in the cycle in which it is full and the cells named are empty (R284). That of two tokens with a cause the one of WP gives the
command its cause is the model's reading (R235; DEDUCED, log entry 27). No command starts once the court's stop has begun. -/
def Obligations.CommandsStart : Prop :=
  ∀ (s : State) (t : Nat) (e : Eng) (c : Cmd), t < 768 → e ≠ .tcc →
    let x := s.tile t
    let n := if e = .col then 1 else 2
    let from_ := c.pops n
    let bad := (from_.map fun i => ((x.fifoAt i).headD 0).toNat / 2 ^ 8).find? (· != 0)
    let stands := fun (u : State) (st cause : Nat) => (u.tile t).queue n = (x.queue n).map fun k => if k.uid = c.uid then { k with st := st, cause := cause } else k
    let begun := fun (u : State) => (u.tile t).queue n = (x.queue n).map fun k => if k.uid = c.uid then { k with st := 1 } else k
    let popped := fun (u : State) => ∀ i, i < 6 → (u.tile t).fifoAt i = if i ∈ from_ then (x.fifoAt i).tail else x.fifoAt i
    let others := fun (u : State) => OnlyTile s u t ∧ u.nextId = s.nextId ∧ popped u
    let runs := fun (p : State → Prop) => ∃ u, exec (.commandStart t e) s = .next u ∧ p u
    let cs := (x.slot c.slot).cs
    let sets := fun (q : CopySet) => runs fun u => others u ∧ stands u 2 0 ∧ (u.slot t c.slot).cs = q ∧ (u.tile t).col = x.col
    (x.stopAt.isSome = true → exec (.commandStart t e) s = .next s)
    ∧ (x.stopAt = none → x.nextCmd n = some c → s.condition t n c = true → (∀ i ∈ from_, x.fifoAt i ≠ []) →
      (∀ cause, bad = some cause → runs fun u => others u ∧ stands u 2 cause ∧ (u.tile t).col = x.col
        ∧ (u.slot t c.slot).cs.cseq = if e = .cpy ∧ c.cmd = 2 then cs.cseq + 1 else cs.cseq)
      ∧ (bad = none → e = .cpy →
        (c.cmd = 0 → sets { cs with cshape := c.a, csstr := c.b })
        ∧ (c.cmd = 1 → sets { cs with cdstr := c.a, cctr := c.b })
        ∧ (c.cmd = 3 → sets { cs with cxf := c.a, crec := c.b })
        ∧ (c.cmd = 2 → runs fun u => (u.tile t).copyNo = x.copyNo + 1 ∧ (u.slot t c.slot).cs = { cs with cseq := cs.cseq + 1 }))
      ∧ (bad = none → e = .col →
        (c.valuesOk = false → runs fun u => stands u 2 cConfig.toNat ∧ (u.tile t).col = x.col)
        ∧ (c.valuesOk = true →
          (c.cmd = 0 → runs fun u => others u ∧ begun u
            ∧ (u.tile t).col = { x.col with ld := true, dv := false, bound := x.col.bound.filter fun b => decide (b.1 < 16) })
          ∧ (c.cmd = 1 → runs fun u => others u ∧ begun u
            ∧ ((∀ p, s.partPlan t c ≠ .ok p) ∨ x.col.partRuns c = false → (u.tile t).col = x.col)
            ∧ (∀ p, s.partPlan t c = .ok p → x.col.partRuns c = true → (u.tile t).col = x.col.gate (c.b.toNat % 8) true))
          ∧ (c.cmd = 3 → runs fun u => others u ∧ (u.tile t).col = x.col
            ∧ (u.tile t).colq = x.colq.map fun k => if k.uid = c.uid then { k with st := 1, deck := !x.col.rallyRuns } else k)
          ∧ (c.cmd = 2 → x.col.dv = false → runs fun u => stands u 2 cConfig.toNat ∧ (u.tile t).col = x.col)
          ∧ (c.cmd = 2 → x.col.dv = true → runs fun u => others u ∧ begun u ∧
              let k := (u.tile t).col
              k.active = x.col.deck ∧ k.deck = x.col.active ∧ k.dv = x.col.av ∧ k.av = true ∧ k.rseq = x.col.rseq + 1 ∧ k.cstat = 0xFFFF000000000000#64
              ∧ k.cb.at 15 0 = c.b ∧ k.vr = x.col.vr ∧ k.racks = x.col.deck.fullRacks ∧ k.xd = [] ∧ k.xc = [] ∧ k.cin = [] ∧ k.minp = [] ∧ k.ain = []
              ∧ ∃ r, k.rally = some r ∧ r.t0 = s.colCyc t + 1 ∧ r.whistle = none ∧ r.slot = c.slot ∧ r.entry = c.entry ∧ r.image = x.col.deck.imageId
                ∧ r.recAt = if c.a.getLsbD 63 then some (c.a.extractLsb 21 0).toNat else none)
          ∧ (c.cmd = 4 → runs fun u => others u ∧ stands u 2 0 ∧
              let i := (c.a.extractLsb 5 2).toNat
              let key := (c.a.extractLsb 12 6).toNat * 16 + i
              let k := (u.tile t).col
              let v := k.vr.at key {}
              { k with cb := x.col.cb, vr := x.col.vr } = x.col
              ∧ (c.a.extractLsb 1 0 = 0#2 → k.cb.at i 0 = c.b ∧ (∀ j, j ≠ i → k.cb.at j 0 = x.col.cb.at j 0) ∧ k.vr = x.col.vr)
              ∧ (c.a.extractLsb 1 0 ≠ 0#2 → k.cb = x.col.cb ∧ ∀ j, j ≠ key → k.vr.at j {} = x.col.vr.at j {})
              ∧ (c.a.extractLsb 1 0 = 1#2 → ∀ j, j < 32 → v.lane j = c.b.setWidth 36 ∧ v.bad j = false)
              ∧ (c.a.extractLsb 1 0 = 2#2 → ∀ j, j < 32 → if j = (c.a.extractLsb 17 13).toNat then v.lane j = c.b.setWidth 36 ∧ v.bad j = false
                  else v.lane j = (x.col.vr.at key {}).lane j ∧ v.bad j = (x.col.vr.at key {}).bad j))
          ∧ (c.cmd = 5 → runs fun u => others u ∧ stands u 2 0
              ∧ (x.col.rallyRuns = false → (u.tile t).col = x.col)
              ∧ (x.col.rallyRuns = true → (u.tile t).col = { x.col with
                  cstat := x.col.cstat ||| 0x20000#64,
                  rally := x.col.rally.map fun r => if c.a.getLsbD 0 then { r with halt := true, cstopHalt := true } else { r with drain := true } })))))

/-- R231, R235, R239, R251, R283, R284, R286: the head of a queue that has finished retires: it pushes its cause, engine and command to the FIFOs of its SP and SC
bits and leaves a cause in LCAUSE; CFGLD's image becomes the on-deck plane, valid when every check passes; CFGPART writes its frames into the plane, which a refused image leaves
invalid with its frames as they were (R70 with R284; that reading is DEDUCED, log entry 111); BIND's token waits in its register; a COPY whose records are written is finished; a reset engine has no command, no running copy and no tokens. -/
def Obligations.CommandsWork : Prop :=
  ∀ (s : State) (t : Nat) (c : Cmd), t < 768 →
    let x := s.tile t
    let stands := fun (u : State) (cause : Nat) => (u.tile t).colq = x.colq.map fun k => if k.uid = c.uid then { k with st := 2, cause := cause } else k
    let runs := fun (i : Instr) (p : State → Prop) => ∃ u, exec i s = .next u ∧ p u
    (∀ e rest, e ≠ .tcc →
      let n := if e = .col then 1 else 2
      x.queue n = c :: rest → c.st = 2 → (∀ i ∈ c.pushes n, (x.fifoAt i).length < 15) →
      runs (.commandRetire t e) fun u => OnlyTile s u t ∧ (u.tile t).queue n = rest
        ∧ (∀ i, i < 6 → (u.tile t).fifoAt i = if i ∈ c.pushes n then x.fifoAt i ++ [BitVec.ofNat 16 (c.cause % 256 * 256 + n * 64 + c.cmd % 64)] else x.fifoAt i)
        ∧ (u.slot t c.slot).lcol = (if e = .col ∧ c.cause ≠ 0 then BitVec.ofNat 8 c.cause else (x.slot c.slot).lcol)
        ∧ (u.slot t c.slot).lcpy = (if e = .cpy ∧ c.cause ≠ 0 then BitVec.ofNat 8 c.cause else (x.slot c.slot).lcpy))
    ∧ (x.started 0 = some c → runs (.cfgldCheck t) fun u =>
        stands u (if (s.fullBad t c.a.toNat).isSome then cConfig.toNat else 0)
        ∧ (u.tile t).col = { x.col with deck := planeOf (s.ctxFrames t c.a.toNat 420), ld := false, dv := (s.fullBad t c.a.toNat).isNone })
    ∧ (∀ im, x.started 1 = some c → s.partImage t c.a.toNat = .ok im →
        (c.b.getLsbD 3 = true → x.col.dv = true → s.soft = [] →
          (x.col.deck.patch im).partBad im (courtPairH x.reg.court) (s.eastHalf t) = none →
          runs (.cfgpartWrite t) fun u => OnlyTile s u t ∧ stands u 0 ∧ (u.tile t).col = { x.col with deck := x.col.deck.patch im })
        ∧ (c.b.getLsbD 3 = false → x.col.av = true → x.col.rally = none → (x.col.racks.at (c.b.toNat % 8) {}).closed = false → s.soft = [] →
          (x.col.active.patch im).partBad im (courtPairH x.reg.court) (s.eastHalf t) = none →
          runs (.cfgpartWrite t) fun u => OnlyTile s u t ∧ stands u 0 ∧ (u.tile t).col = { x.col with active := x.col.active.patch im }))
    ∧ (∀ f, x.started 1 = some c → s.partImage t c.a.toNat = .error f → (x.col.racks.at (c.b.toNat % 8) {}).closed = false →
        runs (.cfgpartWrite t) fun u => stands u cConfig.toNat ∧ (u.tile t).col = if c.b.getLsbD 3 then { x.col with dv := false } else { x.col with av := false })
    ∧ (x.started 3 = some c → c.deck = true → (x.col.deck.bind c.a.toNat).1 = true → c.b ≠ 0 → c.b.toNat < 2 ^ 20 →
        runs (.bindPlace t) fun u => OnlyTile s u t ∧ stands u 0 ∧ (u.tile t).col = { x.col with bound := x.col.bound.put (16 + c.a.toNat) c.b.toNat })
    ∧ (∀ r : CopyRun, x.copies = [r] → r.fin = 3 → r.killed = false → x.copyCmd r.uid = some c → r.cause = 0 →
        runs (.copyComplete t 0) fun u => OnlyTile s u t ∧ (u.tile t).copies = []
          ∧ (u.tile t).cpyq = x.cpyq.map fun k => if k.uid = r.uid then { k with st := 2, cause := 0 } else k)
    ∧ (∀ m : BitVec 2, runs (.engineReset t m) fun u =>
        (m.getLsbD 0 = true → (u.tile t).colq = [] ∧ (∀ i ∈ [0, 1, 4, 5], (u.tile t).fifoAt i = []) ∧ (u.tile t).col.ld = false
          ∧ (∀ r, (u.tile t).col.rally = some r → r.halt = true ∧ r.abort = true) ∧ (x.col.rallyRuns = true → (u.tile t).col.cstat.getLsbD 17 = true))
        ∧ (m.getLsbD 1 = true → (u.tile t).cpyq = [] ∧ (∀ i ∈ [2, 3, 4, 5], (u.tile t).fifoAt i = []) ∧ ∀ r ∈ (u.tile t).copies, r.killed = true)
        ∧ (m ≠ 0 → ∀ e ∈ x.launches, (s.entry e).st = 3 ∨ (s.entry e).st = 4 → (u.entry e).aborting = true))

/-- R277 to R280: a wave that finds the tile clean after a clean wave, with no activity since, makes the whistle due six cycles after it; when it sounds, a rally
without a status record is over, and its FIRE is finished with the rally's cause; with a record, its words 0 to 2 are written first, and then, when they have
performed, the word whose top bit makes it valid; of a rally that an abort meets after its whistle no more of the record is written (R239). -/
def Obligations.Whistle : Prop :=
  ∀ (s : State) (t : Nat) (r : Rally), t < 768 → (s.tile t).col.rally = some r →
    let x := s.tile t
    let cyc := s.colCyc t
    let runs := fun (i : Instr) (p : State → Prop) => ∃ u, exec i s = .next u ∧ OnlyTile s u t ∧ p u
    (∀ w : Wave, r.whistle = none → r.wave = some w → r.t0 + 8 ≤ cyc → x.col.cstat.toNat % 256 = 0 → r.halt = false →
      let at_ := r.t0 + (cyc - r.t0) / 8 * 8
      w.cyc < at_ → w.clean = true → r.act < w.cyc → s.allEmpty t = true → (∀ p ∈ x.col.reqout, p.2 = 0) → x.col.tokenSum = 0 →
      runs (.whistleWave t) fun u => (u.tile t).col = { x.col with rally := some { r with wave := some { cyc := at_, clean := true, toks := 0 }, whistle := some (at_ + 6) } })
    ∧ (∀ w : Nat, r.whistle = some w → w ≤ cyc → r.recStep = 0 → r.saved = false → r.abort = false → x.stopAt = none → x.reg.pmsel = [] →
        (x.col.arr.v = false ∨ x.col.cstat.toNat % 256 ≠ 0) → (∀ p ∈ x.col.mc, p.2.dv = false ∧ p.2.mv = false) →
        runs (.whistleWave t) fun u =>
          (r.recAt = none → (u.tile t).col.rally = none
            ∧ ∀ c, (x.colq.filter fun k : Cmd => k.cmd == 2 && k.st == 1) = [c] → { c with st := 2, cause := x.col.cstat.toNat % 256 } ∈ (u.tile t).colq)
          ∧ (r.recAt ≠ none → (u.tile t).col.rally = some { r with recStep := 1 } ∧ (u.tile t).colq = x.colq))
    ∧ (∀ off w : Nat, r.recAt = some off → r.whistle = some w →
        let sends := fun (o : Nat) (v : Nat → Word) (n : Nat) (u : State) => (u.tile t).col = { x.col with rally := some { r with recStep := r.recStep + 1 } }
          ∧ ∃ bs : List MByte, (u.tile t).netReq = x.netReq ++ [{ who := .status t, off := o, op := .write bs none }] ∧ bs.length = 8 * n
            ∧ ∀ (j : Nat) (b : MByte), bs[j]? = some b → b = { val := (v (j / 8)).extractLsb' (8 * (j % 8)) 8 }
        (r.abort = true → r.recStep % 2 = 1 → runs (.statusRecordWrite t) fun u => (u.tile t).col.rally = none ∧ (u.tile t).netReq = x.netReq)
        ∧ (r.abort = false → r.recStep = 1 → runs (.statusRecordWrite t) (sends off (fun j =>
          if j = 0 then x.col.cstat else if j = 1 then BitVec.ofNat 64 (w - r.t0) else r.image.setWidth 64) 3))
        ∧ (r.abort = false → r.recStep = 3 → runs (.statusRecordWrite t) (sends (off + 24) (fun _ => 0x8000000000000000#64 ||| x.col.rseq.setWidth 64) 1))
        ∧ (r.abort = false → r.recStep = 5 → runs (.statusRecordWrite t) fun u => (u.tile t).col.rally = none))

/-! ## Banks and base dies (R152, R156, R157, R160, R164, R165, R174 to R178, R207, R346, R351 to R353) -/

/-- R157, R166, R207, R353: a scratchpad bank grants one request in a bank cycle, and of the TCC's requests one in all banks: of each eight cycles the last is the copy engine's first, the fourth the TCC's, and
the others a memory cell's; the access performs at the grant, and its answer goes to the unit that asked: a load's register, the memory cell that asked and that then
takes the bytes into its return buffer, a RSP to a request that came through the fabric, or the COPY whose request it is, whose chunk takes the bytes read or whose
count of written bytes goes on (R251). -/
def Obligations.BankGrants : Prop :=
  ∀ (s : State) (t b : Nat), t < 768 → b < 32 →
    let x := s.tile t
    let cyc := x.cyc 1 s.time
    let bytes := fun (off n : Nat) => s.readM (scratchKey t off) n
    let runs := fun (i : Instr) (p : State → Prop) => ∃ u, exec i s = .next u ∧ p u
    let granted := fun (p : State → Prop) => runs (.bankGrant t b) fun u => (u.tile t).bankAt.at b 0 = cyc + 1 ∧ p u
    (x.bankAt.at b 0 = cyc + 1 → exec (.bankGrant t b) s = .next s)
    ∧ (x.tccAt = cyc + 1 → x.copyFor b = none → x.cellsFor b = none → exec (.bankGrant t b) s = .next s)
    ∧ (x.bankAt.at b 0 ≠ cyc + 1 → x.reg.pmsel = [] → s.soft = [] → s.hard = [] →
      (∀ k i off n sg a rest, x.tccAt ≠ cyc + 1 → x.tccReq = { who := .task t k i, off := off, op := .read n } :: rest → bankOf off = b → k < 16 →
        (cyc % 8 = 3 ∨ (x.cellsFor b = none ∧ (cyc % 8 = 7 → x.copyFor b = none))) → (s.slot t k).accs = [a] → a.k = i → a.kind = .load n sg →
        granted fun u => MemKept s u ∧ (u.tile t).tccReq = rest ∧ (u.tile t).tccAt = cyc + 1 ∧ (u.slot t k).accs = []
          ∧ (u.slot t k).rf = (s.slot t k).rf.set a.dst { val := extend n sg (ofBytes ((bytes off n).map (·.val))), poi := (bytes off n).any (·.poi) })
      ∧ (∀ m i off n rest, x.cellReq.at m [] = { who := .cell t m i, off := off, op := .read n } :: rest →
        x.cellsFor b = some (m, .cell m 0, { who := .cell t m i, off := off, op := .read n }) → (cyc % 8 = 3 → x.tccFor b s.time = none) → (cyc % 8 = 7 → x.copyFor b = none) →
        granted fun u => MemKept s u ∧ (u.tile t).cellReq.at m [] = rest ∧ (u.tile t).cdone = x.cdone ++ [(m, i, ⟨.ok, bytes off n⟩)]
          ∧ (u.tile t).tccReq = x.tccReq ∧ (u.tile t).cpyReq = x.cpyReq ∧ (u.tile t).bankPtr.at b 0 = (m + 1) % 32)
      ∧ (∀ r rest, x.cpyReq = r :: rest → x.copyFor b = some (.copy 0, r) → cyc % 8 = 7 → x.copies = [] → r.who = .copy t 0 → r.op = .read 1 →
        granted fun u => MemKept s u ∧ (u.tile t).cpyReq = rest ∧ (u.tile t).tccReq = x.tccReq ∧ (u.tile t).cellReq = x.cellReq)
      ∧ (∀ (c : CopyRun) (q o : CopyReq) (ch : Chunk) (r : BankReq) rest, x.cpyReq = r :: rest → x.copyFor b = some (.copy 0, r) → cyc % 8 = 7 → r.who = .copy t q.k →
        x.copies = [c] → c.killed = false → c.set.total ≤ c.next → c.reqs = [q, o] → q.st = 1 → o.st = 1 → o.k ≠ q.k → c.chunks = [ch] → q.chunk = some ch.k →
        o.chunk = some ch.k → o.wr = q.wr → ch.written = q.wr → q.isMeta = false → q.skip = 0 → q.tag = none →
        (q.wr = false → r.op = .read q.len → granted fun u => MemKept s u ∧ (u.tile t).cpyReq = rest ∧ (u.tile t).tccReq = x.tccReq
          ∧ (u.tile t).copies = [{ c with reqs := [o], chunks := [{ ch with raw := ch.raw.take q.off ++ bytes r.off q.len ++ ch.raw.drop (q.off + q.len) }] }])
        ∧ (q.wr = true → r.op = .write q.data none → s.mem.wf = true → granted fun u => (u.tile t).cpyReq = rest ∧ (u.tile t).tccReq = x.tccReq
          ∧ (u.tile t).copies = [{ c with reqs := [o], bytes := c.bytes + (q.data.filter (·.en)).length }]
          ∧ (∀ (j : Nat) (y : MByte), q.data[j]? = some y → u.mem.get (scratchKey t r.off + j) = if y.en then y.val else s.mem.get (scratchKey t r.off + j))
          ∧ (∀ a, a < scratchKey t r.off ∨ scratchKey t r.off + q.data.length ≤ a → u.mem.get a = s.mem.get a)))
      ∧ (∀ h off (bs : List MByte) rest, x.netReq = { who := .net h, off := off, op := .write bs none } :: rest →
        x.cellsFor b = some (b, .net 0, { who := .net h, off := off, op := .write bs none }) → cyc % 8 ≠ 3 → cyc % 8 ≠ 7 → s.mem.wf = true →
        granted fun u => (u.tile t).netReq = rest
          ∧ (∀ (j : Nat) (y : MByte), bs[j]? = some y → u.mem.get (scratchKey t off + j) = if y.en then y.val else s.mem.get (scratchKey t off + j))
          ∧ (∀ a, a < scratchKey t off ∨ scratchKey t off + bs.length ≤ a → u.mem.get a = s.mem.get a)
          ∧ ∃ p, (u.tile t).ni.txq = x.ni.txq ++ [p] ∧ p.pay = [] ∧ p.h.kind = 3 ∧ p.h.status = 0 ∧ p.h.seq = h.seq ∧ p.h.stream = h.stream
            ∧ p.h.dpkg = h.spkg ∧ p.h.dtile = h.stile ∧ p.h.rtag = h.rtag))
    ∧ (∀ (m n : Nat) (r : Reply) (rest : List (Nat × Nat × Reply)) (e : RetEnt) (y z : CellAcc), m < 32 → x.reg.pmsel = [] → x.cdone = (m, n, r) :: rest →
        let k := x.col.mcell m
        k.ret = [e] → k.out = none → k.spill = [] → k.owe = [] → e.accs = [y, z] → e.fault = none → y.k = n → z.k ≠ n → y.st = 1 → z.st = 1 → y.isMeta = false →
        y.op = .read y.len → r.stat = .ok →
        runs (.mcellReply t m) fun u => MemKept s u ∧ (u.tile t).cdone = rest ∧ (u.tile t).col.reqout.at (96 + m) 0 = (x.col.reqout.at (96 + m) 0 + 255) % 256
          ∧ ∃ f, ((u.tile t).col.mcell m).ret = [f] ∧ f.accs = [{ y with st := 3 }, z] ∧ f.mgot = e.mgot
            ∧ ∀ (j : Nat) (v : MByte), j < y.len → (r.data.drop y.skip)[j]? = some v → f.got.look (y.addr + j) = some v)

/-- R160, R164, R165, R174 to R178: a base die controller takes a request in: HBM in range, the frame of a resident granule (dirty after a write), NOTRES and a migration
for one that is not resident, second tier at once, FAIL for a place that does not exist; a host request enters the queue to the card, when that has room, and
performs with the card's report, once its flits have left on the link, whose answer comes in as flits on VC3 of the Ngambi link (the steps of the card are DESIGN
CHOICE, log entries 113 and 118); a wheel slot serves one burst, of its court's oldest ready request or else of the oldest, that
reads or writes up to the end of its 32-byte granule, and a partly written granule is read first and written in a second phase, in a slot of its own; an evicted dirty frame goes back to its home, and a migrated granule is copied in, is resident
and is announced to those that wait, whose diverted accesses go out again. -/
def Obligations.BaseDies : Prop :=
  ∀ (s : State) (d k : Nat), d < 4 → s.mem.wf = true →
    let x := s.die d
    let runs := fun (i : Instr) (p : State → Prop) => ∃ u, exec i s = .next u ∧ p u
    (∀ hbm pch, hbm < 8 → pch < 64 → (s.die (hbm / 2)).slotUsed.at (hbm % 2 * 64 + pch) 0 = s.time / 2 + 1 → exec (.hbmWheelSlot hbm pch) s = .next s)
    ∧ (∀ r : DieReq, x.reqs[k]? = some r →
      let size := r.h.nbm1 + 1
      let answered := fun (u : State) (st : Nat) (data : List MByte) => (u.die d).reqs = x.reqs.eraseIdx k
        ∧ ∃ p, (u.die d).ni.txq = x.ni.txq ++ [p] ∧ p.pay = data ∧ p.h.kind = 3 ∧ p.h.status = st ∧ p.h.seq = r.h.seq ∧ p.h.stream = r.h.stream
          ∧ p.h.dtile = r.h.stile ∧ p.h.dpkg = r.h.spkg ∧ p.h.rtag = r.h.rtag
      let changed := fun (u : State) (q : DieReq) => ∀ j, (u.die d).reqs[j]? = if j = k then some q else x.reqs[j]?
      let read := fun (a n : Nat) => s.readM a n
      let bad := fun (l : List MByte) => if l.any (·.poi) then 1 else 0
      (r.adm = false → (x.reqs.take k).any (fun q => !q.adm && samePort q.h r.h) = false → (r.h.kind = 0 ∨ r.h.kind = 1 ∨ r.h.kind = 4) →
        (∀ a, r.home = .hbm a → a + size ≤ 2 ^ 39 → runs (.baseDieRequest d k) fun u => MemKept s u ∧ changed u { r with adm := true })
        ∧ (∀ a, r.home = .hbm a → 2 ^ 39 < a + size → runs (.baseDieRequest d k) fun u => MemKept s u ∧ answered u 3 [])
        ∧ (∀ a, r.home = .second a → s.cxlPort a = none → runs (.baseDieRequest d k) fun u => MemKept s u ∧ answered u 3 [])
        ∧ (∀ a, r.home = .second a → s.cxlPort a ≠ none → r.h.kind = 0 →
            runs (.baseDieRequest d k) fun u => MemKept s u ∧ answered u (bad (read (secondBase + a) size)) (read (secondBase + a) size))
        ∧ (∀ a, r.home = .host a → s.ngambi.dq.length < 256 → runs (.baseDieRequest d k) fun u => MemKept s u ∧ changed u { r with adm := true }
            ∧ u.ngambi = { s.ngambi with dq := s.ngambi.dq ++ [{ h := r.h, pay := r.pay }] })
        ∧ (∀ a, r.home = .host a → 256 ≤ s.ngambi.dq.length → exec (.baseDieRequest d k) s = .next s)
        ∧ (∀ a v f, r.home = .mig a v → x.frameOf a v = some f → runs (.baseDieRequest d k) fun u => MemKept s u
            ∧ changed u { r with home := .hbm ((x.mpbase.toNat + f) * 2 ^ 21 + v % 2 ^ 21), frame := some f, adm := true }
            ∧ (r.h.kind = 0 → (u.die d).resmap = x.resmap) ∧ (r.h.kind ≠ 0 → rmDirty ((u.die d).resmap.at f 0) = true ∧ rmV ((u.die d).resmap.at f 0) = true))
        ∧ (∀ a v, r.home = .mig a v → x.frameOf a v = none → runs (.baseDieRequest d k) fun u => MemKept s u ∧ answered u 2 []
            ∧ (r.h.stream ≠ 53 → (tileOfBits r.h.stile * 64 + portOf r.h.stream) ∈ (u.die d).notices.at (a * 2 ^ 35 + v / 2 ^ 21) [])))
      ∧ (∀ a rest, d = 0 → r.adm = true → r.home = .host a → r.h.kind = 0 → r.h.ded = false → r.h.stream ≠ 52 → size ≤ 256 → 0 < s.ngambi.sent →
          s.ngambi.dq = { h := r.h, pay := r.pay } :: rest → x.rt.ins.at (76 * 16 + 3) [] = [] →
          runs (.baseDieRequest d k) fun u => MemKept s u ∧ (u.die 0).reqs = x.reqs.eraseIdx k ∧ (u.die 0).ni.txq = x.ni.txq
            ∧ u.ngambi.dq = rest ∧ u.ngambi.sent = s.ngambi.sent - 1
            ∧ ∃ (h : Hdr) (fs : List Flit), (u.die 0).rt.ins.at (76 * 16 + 3) [] = .head h s.time :: fs ∧ fs.length = (size + 31) / 32 ∧ h.len = (size + 31) / 32
              ∧ fs.flatMap (fun f => match f with | .body bs _ => bs | .head _ _ => []) = read (hostBase + a) size
              ∧ h.kind = 3 ∧ h.status = bad (read (hostBase + a) size) ∧ h.seq = r.h.seq ∧ h.stream = r.h.stream ∧ h.dtile = r.h.stile ∧ h.dpkg = r.h.spkg ∧ h.rtag = r.h.rtag)
      ∧ (∀ (p : Nat) (part : List MByte) (mark : Bool), r.rmw = some (part, mark) → r.home = .hbm p → part.length ≤ 32 → r.done + part.length < size →
          s.slotPick (nfld (p + r.done) 10 8) (nfld (p + r.done) 16 11) = some (d, k) →
          runs (.rmwWritePhase d k) fun u => changed u { r with rmw := none, poi := r.poi || mark, done := r.done + part.length }
            ∧ (∀ (j : Nat) (y : MByte), part[j]? = some y → u.mem.get (p + r.done + j) = if y.en then y.val else s.mem.get (p + r.done + j))
            ∧ ∀ a, a < p + r.done ∨ p + r.done + part.length ≤ a → u.mem.get a = s.mem.get a)
      ∧ (∀ (hbm pch p : Nat), hbm < 8 → pch < 64 → s.slotPick hbm pch = some (d, k) → r.home = .hbm p → r.adm = true → r.rmw = none → r.done < size →
          let a := p + r.done
          let n := min (32 - a % 32) (size - r.done)
          let part := (r.pay.drop r.done).take n
          (r.h.kind = 0 → r.done + n < size → runs (.hbmWheelSlot hbm pch) fun u => MemKept s u
            ∧ changed u { r with out := r.out ++ read a n, poi := r.poi || (read a n).any (·.poi), done := r.done + n })
          ∧ (r.h.kind = 0 → r.done + n = size → runs (.hbmWheelSlot hbm pch) fun u => MemKept s u
            ∧ answered u (if r.poi || (read a n).any (·.poi) then 1 else 0) (r.out ++ read a n))
          ∧ (r.h.kind ≠ 0 → part.length = 32 → part.all (·.en) = true → r.done + n < size → runs (.hbmWheelSlot hbm pch) fun u =>
              changed u { r with done := r.done + n } ∧ (∀ (j : Nat) (y : MByte), part[j]? = some y → u.mem.get (a + j) = y.val)
              ∧ (∀ b, b < a ∨ a + 32 ≤ b → u.mem.get b = s.mem.get b) ∧ u.marks = s.marks.setTo a (part.any (·.poi)))
          ∧ (r.h.kind ≠ 0 → ¬(part.length = 32 ∧ part.all (·.en) = true) → part.all (fun y => !y.en) = false → runs (.hbmWheelSlot hbm pch) fun u =>
              MemKept s u ∧ changed u { r with rmw := some (part, s.marks.has a) })))
    ∧ (∀ m : Migr, m.frame < 262144 → x.migr = [m] → m.incoming = true →
        let at_ := (x.mpbase.toNat + m.frame) * 2 ^ 21
        let old := x.resmap.at m.frame 0
        let moved := fun (u : State) (src dst : Nat) => (∀ i, i < 2 ^ 21 → u.mem.get (dst + i) = s.mem.get (src + i))
          ∧ ∀ a, a < dst ∨ dst + 2 ^ 21 ≤ a → u.mem.get a = s.mem.get a
        (m.phase = 0 → x.reqs.any (fun r => r.frame == some m.frame) = false → runs (.granuleEviction d m.frame) fun u =>
          (u.die d).migr = [{ m with phase := 1 }]
          ∧ (rmDirty old = false → MemKept s u)
          ∧ (∀ h, rmDirty old = true → s.granHome (rmAsid old) (rmVgn old) = some h → moved u at_ h))
        ∧ (∀ h ports, m.phase = 1 → s.granHome m.asid m.vgn = some h → x.notices = [(m.asid * 2 ^ 35 + m.vgn, ports)] → runs (.granuleMigration d m.frame) fun u =>
            moved u h at_ ∧ (u.die d).migr = [] ∧ (u.die d).resmap.at m.frame 0 = rmWord true false false m.asid m.vgn ∧ (u.die d).notices = []
            ∧ (u.die d).due = x.due ++ ports.map fun p => (m.asid * 2 ^ 35 + m.vgn, p)))
    ∧ (∀ (t m g : Nat) (e : RetEnt) (y : CellAcc), t < 768 → m < 32 → (s.tile t).stopAt = none → x.due = [(g, t * 64 + m)] → (∀ v, v ≠ d → (s.die v).due = []) →
        s.answerAwaited t m g = false → ((s.tile t).col.mcell m).ret = [e] → ((s.tile t).col.mcell m).out = none → e.accs = [y] → e.fault = none → y.st = 2 →
        (∃ v, s.granule t m y.isMeta y.addr = some v ∧ (s.tile t).reg.asid.toNat * 2 ^ 35 + v = g) →
        runs (.residentNotice t) fun u => (u.die d).due = [] ∧ ∃ f z, ((u.tile t).col.mcell m).ret = [f] ∧ f.accs = [z] ∧ (z.st = 4 ∨ z.st = 5) ∧ z.addr = y.addr
          ∧ ((s.tile t).col.mayAct (s.colCyc t) (96 + m) = false → z = { y with st := 4 }))

/-! ## Compute cells (R34, R64, R265 to R272, R275, R291 to R300) -/

/-- R34, R265, R267, R269, R271: a slot of a compute cell that is ready in its phase fires: it takes its tokens, writes the active lanes of its register, gives its
tokens to every buffer that takes them from its ports and its control tokens on its control port, and adds its flags to CSTAT. The FIFO and REORD cells take and give
one token at a time without a phase, with the other tokens that their slots declare; what they give on y and as control tokens then is the model's choice
(DESIGN CHOICE, log entry 112), as is that the tokens of a firing stand in the buffers in its own event (log entry 91). What each operation computes is said in
CellIntegers and CellResults. -/
def Obligations.CellFirings : Prop :=
  ∀ (s : State) (t cell n : Nat), t < 768 → cell < 96 → n < 4 →
    let c := (s.tile t).col
    let cyc := s.colCyc t
    let q := c.active.slot cell n
    let xb := cellXbox cell
    c.mayAct cyc cell = true → q.v = true → (s.tile t).reg.pmsel = [] →
    (∀ (k : Taken) (f : Fired) (c1 : Collar), q.ordered = false → c.phase cyc = n → c.lastFire.at cell 0 ≠ cyc + 1 → c.slotReady cell n q = true →
      c.takeFor cell q = some k → (q.op = 0x69 ∨ k.ctl.any id = false) → computeCell cell n q k = .ok f →
      f.col.countTags cell q k (f.tokens q k).1 (f.tokens q k).2 = .ok c1 →
      ∀ p ∈ [(Instr.cellAdd t cell n, 0x01), (.cellSub t cell n, 0x02), (.cellMul t cell n, 0x03), (.cellMulh t cell n, 0x04),
          (.cellMac t cell n, 0x05), (.cellAnd t cell n, 0x06), (.cellOr t cell n, 0x07), (.cellXor t cell n, 0x08), (.cellShl t cell n, 0x09),
          (.cellShr t cell n, 0x0A), (.cellSra t cell n, 0x0B), (.cellMin t cell n, 0x0C), (.cellMax t cell n, 0x0D), (.cellAbs t cell n, 0x0E),
          (.cellSat t cell n, 0x0F), (.cellClamp t cell n, 0x10), (.cellCmp t cell n, 0x11), (.cellSel t cell n, 0x12), (.cellFadd t cell n, 0x20),
          (.cellFsub t cell n, 0x21), (.cellFmul t cell n, 0x22), (.cellFma t cell n, 0x23), (.cellFmin t cell n, 0x24), (.cellFmax t cell n, 0x25),
          (.cellFabs t cell n, 0x26), (.cellFneg t cell n, 0x27), (.cellFcmp t cell n, 0x28), (.rcp t cell n, 0x29), (.rsqrt t cell n, 0x2A),
          (.exp2 t cell n, 0x2B), (.log2 t cell n, 0x2C), (.scale t cell n, 0x2D), (.rsum t cell n, 0x40), (.rmax t cell n, 0x41),
          (.rmin t cell n, 0x42), (.acc t cell n, 0x43), (.shuf t cell n, 0x50), (.rot t cell n, 0x51), (.bcast t cell n, 0x52),
          (.pack t cell n, 0x53), (.unpack t cell n, 0x54), (.pass t cell n, 0x60), (.steer t cell n, 0x62), (.merge t cell n, 0x63),
          (.gate t cell n, 0x64), (.tagget t cell n, 0x65), (.tagput t cell n, 0x66), (.cellCnt t cell n, 0x67), (.join t cell n, 0x68),
          (.sink t cell n, 0x69)],
        q.op = p.2 → ∃ u, exec p.1 s = .next u ∧ OnlyTile s u t ∧
          let v := (u.tile t).col
          (∀ o, o < 6 → v.xd.at (xKey xb o) [] = c.xd.at (xKey xb o) []
            ++ (if o ∈ c.active.takers 0 xb 4 then (f.tokens q k).1 else []) ++ (if o ∈ c.active.takers 0 xb 5 then (f.tokens q k).2 else []))
          ∧ (∀ o, o < 6 → v.xc.at (xKey xb o) [] = c.xc.at (xKey xb o) [] ++ (if o ∈ c.active.takers 1 xb 4 then List.replicate f.cout false else []))
          ∧ (f.reg = none → q.dst < 16 → ∀ i, i < 32 →
              (v.vr.at (cell * 16 + q.dst) {}).lane i = (if f.mask.getLsbD i then f.r.lane i else (c.vr.at (cell * 16 + q.dst) {}).lane i)
              ∧ (v.vr.at (cell * 16 + q.dst) {}).bad i = (if f.mask.getLsbD i then f.r.bad i else (c.vr.at (cell * 16 + q.dst) {}).bad i))
          ∧ (∀ r, (f.reg = none → q.dst < 16 → r ≠ cell * 16 + q.dst) → (∀ x, f.reg = some x → r ≠ cell * 16 + x.1) → v.vr.at r {} = c.vr.at r {})
          ∧ (q.op ≠ 0x63 → k.a = (c.cin.at (cKey cell 0) []).take q.ra ∧ k.b = (c.cin.at (cKey cell 1) []).take q.rb
              ∧ v.cin.at (cKey cell 0) [] = (c.cin.at (cKey cell 0) []).drop q.ra ∧ v.cin.at (cKey cell 1) [] = (c.cin.at (cKey cell 1) []).drop q.rb)
          ∧ v.cctl.at cell [] = (c.cctl.at cell []).drop q.cin
          ∧ v.cstat = c.cstat ||| BitVec.ofNat 64 (f.fl.toNat * 256) ||| (if f.pz then 0x10000#64 else 0) ∧ v.lastFire.at cell 0 = cyc + 1)
    ∧ (let st := c.cellStore cell
       let inp := c.cin.at (cKey cell 0) []
       let after := fun (i : Instr) (given : List Token) (st' : CellStore) (inp' : List Token) => ∃ u, exec i s = .next u ∧ OnlyTile s u t
         ∧ (u.tile t).col.cellStore cell = st' ∧ (u.tile t).col.cin.at (cKey cell 0) [] = inp' ∧ (u.tile t).col.lastFire.at cell 0 = cyc + 1
         ∧ (∀ o, o < 6 → (u.tile t).col.xd.at (xKey xb o) [] = c.xd.at (xKey xb o) [] ++ (if o ∈ c.active.takers 0 xb 4 then given else [])
             ++ (if o ∈ c.active.takers 0 xb 5 then given.flatMap (List.replicate q.ry) else []))
         ∧ ∀ o, o < 6 → (u.tile t).col.xc.at (xKey xb o) [] = c.xc.at (xKey xb o) []
             ++ (if o ∈ c.active.takers 1 xb 4 then List.replicate (given.length * q.cout) false else [])
       c.lastFire.at cell 0 ≠ cyc + 1 →
       (q.op = 0x61 →
         (∀ k, st.held = [] → c.takeStore cell q = some k → k.ctl.any id = false →
           (8 ≤ q.region ∨ ∀ x ∈ k.all, (c.racks.at q.region {}).live x.tag = true) → after (.fifo t cell n) [] { st with held := [k.stored] } (inp.drop 1))
         ∧ (∀ k rest c1, st.held = k :: rest → inp = [] → c.roomFor cell q = true → c.fifoGive cell q = .ok c1 →
             after (.fifo t cell n) [k] { st with held := rest } []))
       ∧ (q.op = 0x55 →
         (∀ k, st.drain = false → c.takeStore cell q = some k → k.ctl.any id = false → after (.reord t cell n) []
           (if 15 ≤ st.held.length then { st with held := st.held ++ [k.stored], k := 0, drain := true } else { st with held := st.held ++ [k.stored] }) (inp.drop 1))
         ∧ (st.drain = true → c.roomFor cell q = true → ∃ k, after (.reord t cell n) [k]
             (if 15 ≤ st.k then { st with held := [], k := 0, drain := false } else { st with k := st.k + 1 }) inp
           ∧ k.tag = 0 ∧ ∀ i, i < 32 →
               let m := 32 * st.k + i
               let c0 := nfld q.imm 9 0
               let p := (m % c0 * nfld q.imm 18 10 + m / c0 * nfld q.imm 27 19) % 512
               let row := st.held.getD (p / 32) {}
               k.d.lane i = row.d.lane (p % 32) ∧ k.d.bad i = row.d.bad (p % 32) ∧ k.mask.getLsbD i = row.mask.getLsbD (p % 32))))

/-- R291, R292: the integer operations on one sublane of w bits, and the sublanes of a lane: bits 35 to 32 of a result are zero. -/
def Obligations.CellIntegers : Prop :=
  (∀ (w aux : Nat) (a b c : BitVec w), 0 < w → w ≤ 32 →
    let f := fun op => intOp op w aux a.toNat b.toNat c.toNat
    let uns := aux % 2 = 1
    let m : BitVec (w + w) := if uns then a.setWidth (w + w) * b.setWidth (w + w) else a.signExtend (w + w) * b.signExtend (w + w)
    let lo : BitVec w := m.extractLsb' 0 w
    let hi : BitVec w := m.extractLsb' w w
    let below := fun x y : BitVec w => if uns then x.ult y else x.slt y
    let n := b.toNat % w
    let half : Int := 2 ^ (w - 1)
    let limit := fun (l h v : Int) => (BitVec.ofInt w (if v < l then l else if h < v then h else v)).toNat
    f 1 = ((a + b).toNat, 0) ∧ f 2 = ((a - b).toNat, 0) ∧ f 3 = (lo.toNat, hi.toNat) ∧ f 4 = (hi.toNat, lo.toNat) ∧ f 5 = ((a * b + c).toNat, 0)
    ∧ f 6 = ((a &&& b).toNat, 0) ∧ f 7 = ((a ||| b).toNat, 0) ∧ f 8 = ((a ^^^ b).toNat, 0)
    ∧ f 9 = ((a <<< n).toNat, 0) ∧ f 10 = ((a >>> n).toNat, 0) ∧ f 11 = ((a.sshiftRight n).toNat, 0)
    ∧ f 12 = ((if below b a then b else a).toNat, 0) ∧ f 13 = ((if below a b then b else a).toNat, 0)
    ∧ f 14 = ((if a.slt 0 then -a else a).toNat, 0)
    ∧ (aux % 4 = 0 → f 15 = (limit (-half) (half - 1) (a.toInt + b.toInt), 0)) ∧ (aux % 4 = 1 → f 15 = (limit 0 (2 * half - 1) (a.toNat + b.toNat), 0))
    ∧ (aux % 4 = 2 → f 15 = (limit (-half) (half - 1) (a.toInt - b.toInt), 0)) ∧ (aux % 4 = 3 → f 15 = (limit 0 (2 * half - 1) ((a.toNat : Int) - b.toNat), 0))
    ∧ f 16 = (let x := if below a b then b else a; (if below c x then c else x).toNat, 0)
    ∧ (let cc := aux % 8
       let holds := if cc = 0 then a == b else if cc = 1 then a != b else if cc = 2 then a.slt b else if cc = 3 then a.sle b else if cc = 4 then a.ult b else a.ule b
       cc < 6 → f 17 = (if holds then 2 ^ w - 1 else 0, 0))
    ∧ f 18 = ((if c = 0 then b else a).toNat, 0))
  ∧ (∀ (op lane aux : Nat) (a b c : W36), lane < 3 → 1 ≤ op → op ≤ 18 →
      let w := 8 * 2 ^ lane
      let sub := fun (x : W36) (j : Nat) => x.toNat / 2 ^ (w * j) % 2 ^ w
      let r := intLane op lane aux a b c
      r.1.toNat < 2 ^ 32 ∧ r.2.toNat < 2 ^ 32
      ∧ ∀ j, j < 32 / w → (sub r.1 j, sub r.2 j) = intOp op w aux (sub a j) (sub b j) (sub c j))

/-- R265, R268, R293 to R297, R300: what a firing computes from the tokens that it takes, when no active lane of an operand is poisoned: lane by lane for the integer
and W36 operations, over the active lanes in ascending order for a reduction (in an integer mode over all their sublanes), into the register for ACC, by whole lanes
for SHUF, ROT and BCAST, in halves or doubles of the width for PACK and UNPACK, and the value that each flow operation moves, with its mask, its tag and the ports
that it leaves on. That PACK's unsigned limit reads its source as unsigned is the model's reading (R297; DEDUCED, log entry 32). -/
def Obligations.CellResults : Prop :=
  ∀ (cell n : Nat) (q : SlotCfg) (k : Taken),
    let om := k.mask
    let A := k.col.operand cell q k q.selA
    let B := k.col.operand cell q k q.selB
    let C := k.col.operand cell q k q.selC
    let clean := ∀ i, i < 32 → A.1.bad i = false ∧ B.1.bad i = false ∧ C.1.bad i = false
    let gives := fun (p : Fired → Prop) => ∃ f, computeCell cell n q k = .ok f ∧ p f
    let w := 8 * 2 ^ q.lane
    let sub := fun (x : W36) (j : Nat) => x.toNat / 2 ^ (w * j) % 2 ^ w
    let signed := fun (v : Nat) => if v < 2 ^ (w - 1) then (v : Int) else (v : Int) - 2 ^ w
    let join := fun (op : Nat) (x y : W36) => if op = 0 then (w36Add x y).1 else if op = 1 then (w36Max x y).1 else (w36Min x y).1
    let least : W36 := if q.lane = 0 then 0x80808080#36 else if q.lane = 1 then 0x80008000#36 else if q.lane = 2 then 0x80000000#36 else 0xFFF000000#36
    let most : W36 := if q.lane = 0 then 0x7F7F7F7F#36 else if q.lane = 1 then 0x7FFF7FFF#36 else if q.lane = 2 then 0x7FFFFFFF#36 else 0x7FF000000#36
    let none_ := fun (op : Nat) => if op = 1 then least else if op = 2 then most else if q.lane = 3 then 0x800000000#36 else 0
    let masked := fun (f : Fired) (m : BitVec 32) (v : Nat → W36) => f.mask = m ∧ (∀ i, i < 32 → f.r.lane i = if m.getLsbD i then v i else 0) ∧ ∀ i, i < 32 → f.r.bad i = false
    clean →
    (1 ≤ q.op → q.op ≤ 18 → gives fun f => f.tag = k.tag ∧ masked f om (fun i => (intLane q.op q.lane q.aux (A.1.lane i) (B.1.lane i) (C.1.lane i)).1)
      ∧ ∀ i, i < 32 → f.sec.lane i = if om.getLsbD i then (intLane q.op q.lane q.aux (A.1.lane i) (B.1.lane i) (C.1.lane i)).2 else 0)
    ∧ (0x20 ≤ q.op → q.op ≤ 0x2D → gives fun f => f.tag = k.tag ∧ masked f om fun i =>
        let a := A.1.lane i
        let b := B.1.lane i
        if q.op = 0x20 then (w36Add a b).1 else if q.op = 0x21 then (w36Sub a b).1 else if q.op = 0x22 then (w36Mul a b).1
        else if q.op = 0x23 then (w36Fma a b (C.1.lane i)).1 else if q.op = 0x24 then (w36Min a b).1 else if q.op = 0x25 then (w36Max a b).1
        else if q.op = 0x26 then a &&& 0x7FFFFFFFF#36 else if q.op = 0x27 then a ^^^ 0x800000000#36
        else if q.op = 0x28 then (if (w36Cmp (q.aux % 8) a b).1 then 0xFFFFFFFFF#36 else 0) else if q.op = 0x29 then (w36Div 0x3FF000000#36 a).1
        else if q.op = 0x2A then (w36Rsqrt a).1 else if q.op = 0x2B then (w36Exp2 a).1 else if q.op = 0x2C then (w36Log2 a).1 else (w36Scale a b).1)
    ∧ (q.op = 0x50 ∨ q.op = 0x51 ∨ q.op = 0x52 → gives fun f =>
        let from_ := fun (i : Nat) => if q.op = 0x50 then (B.1.lane i).toNat % 32 else if q.op = 0x51 then (i + (B.1.lane 0).toNat % 32) % 32 else (B.1.lane 0).toNat % 32
        f.tag = k.tag ∧ ∀ i, i < 32 → f.mask.getLsbD i = (A.2.getLsbD (from_ i) && B.2.getLsbD i) ∧ (f.mask.getLsbD i = true → f.r.lane i = A.1.lane (from_ i)))
    ∧ (0x40 ≤ q.op → q.op ≤ 0x42 → q.lane ≤ 3 → gives fun f =>
        let on := (List.range 32).filter fun i => om.getLsbD i
        (q.lane = 3 →
          let v := on.foldl (fun r i => join (q.op - 0x40) r (A.1.lane i)) (none_ (q.op - 0x40))
          if q.aux % 2 = 1 then f.mask = 0xFFFFFFFF#32 ∧ ∀ j, j < 32 → f.r.lane j = v else f.mask = 1#32 ∧ f.r.lane 0 = v ∧ ∀ j, 0 < j → j < 32 → f.r.lane j = 0)
        ∧ (q.lane < 3 →
          let l := on.flatMap fun i => (List.range (32 / w)).map fun j => sub (A.1.lane i) j
          let uns := q.aux / 2 % 2 = 1
          let num := fun (v : Nat) => if uns then (v : Int) else signed v
          ∃ v, v < 2 ^ w ∧ (q.op = 0x40 → v = l.sum % 2 ^ w)
            ∧ (q.op = 0x41 → if l = [] then v = (if uns then 0 else 2 ^ (w - 1)) else v ∈ l ∧ ∀ x ∈ l, num x ≤ num v)
            ∧ (q.op = 0x42 → if l = [] then v = (if uns then 2 ^ w - 1 else 2 ^ (w - 1) - 1) else v ∈ l ∧ ∀ x ∈ l, num v ≤ num x)
            ∧ if q.aux % 2 = 1 then f.mask = 0xFFFFFFFF#32 ∧ ∀ j, j < 32 → (f.r.lane j).toNat < 2 ^ 32 ∧ ∀ i, i < 32 / w → sub (f.r.lane j) i = v
              else f.mask = 1#32 ∧ (f.r.lane 0).toNat = v ∧ ∀ j, 0 < j → j < 32 → f.r.lane j = 0))
    ∧ (q.op = 0x43 → q.lane ≤ 3 → q.aux % 4 < 3 → (∀ i, (k.col.vr.at (cell * 16 + q.selB) {}).bad i = false) → gives fun f =>
        let len := q.aux / 16
        let pos := (k.col.cellStore cell).k
        let v := k.col.vr.at (cell * 16 + q.selB) {}
        let fn := q.aux % 4
        let old := fun (i : Nat) => if pos = 0 ∧ len ≠ 0 then none_ fn else v.lane i
        let one := fun (x y : Nat) => if fn = 0 then (x + y) % 2 ^ w else if fn = 1 then (if signed x < signed y then y else x) else if signed y < signed x then y else x
        let joined := fun (x y z : W36) => if q.lane = 3 then z = join fn x y else z.toNat < 2 ^ 32 ∧ ∀ j, j < 32 / w → sub z j = one (sub x j) (sub y j)
        ∃ r : Lanes, f.reg = some (q.selB, r, 0xFFFFFFFF#32) ∧ (∀ i, i < 32 → if om.getLsbD i then joined (old i) (A.1.lane i) (r.lane i) else r.lane i = old i)
          ∧ f.xs = some (if len ≠ 0 ∧ pos + 1 = len ∧ q.rx = 1 then [{ d := r, mask := 0xFFFFFFFF#32, tag := 0 }] else [])
          ∧ (f.col.cellStore cell).k = if len ≠ 0 ∧ pos + 1 = len then 0 else (pos + 1) % 4096)
    ∧ (q.op = 0x60 ∨ q.op = 0x68 → gives fun f => f.tag = k.tag ∧ masked f om A.1.lane ∧ f.tokens q k = (List.replicate q.rx (f.tok f.r), (f.tokens q k).2))
    ∧ (q.op = 0x62 → B.2.getLsbD 0 = true → gives fun f => masked f om A.1.lane ∧ f.tag = k.tag
        ∧ f.tokens q k = if B.1.lane 0 = 0 then ([], [if q.ysel = 2 then k.first.getD (f.tok f.r) else f.tok f.r]) else ([f.tok f.r], []))
    ∧ (q.op = 0x64 → gives fun f => (∀ i, i < 32 → f.mask.getLsbD i = (om.getLsbD i && B.1.lane i != 0)) ∧ masked f f.mask A.1.lane
        ∧ (f.mask = 0 → f.tokens q k = ([], [])) ∧ (f.mask ≠ 0 → (f.tokens q k).1 = List.replicate q.rx (f.tok f.r)))
    ∧ (q.op = 0x63 → ∀ x, k.first = some x → gives fun f => f.r = x.d ∧ f.mask = om ∧ f.tag = x.tag)
    ∧ (q.op = 0x65 → ∀ tag rest, (k.col.racks.at q.region {}).free = tag :: rest → (k.col.racks.at q.region {}).closed = false → gives fun f =>
        f.tag = tag ∧ masked f om A.1.lane ∧ (f.col.racks.at q.region {}).free = rest ∧ (f.col.racks.at q.region {}).alloc = (k.col.racks.at q.region {}).alloc ++ [tag])
    ∧ (q.op = 0x66 → gives fun f => f.tag = 0 ∧ masked f om A.1.lane)
    ∧ (q.op = 0x67 → q.aux % 2 = 0 → (∀ b, k.col.bound.look b = none) → gives fun f =>
        let p := k.col.cnt.at (cell * 4 + n) (0, q.imm)
        (f.cout = if p.2 ≤ p.1 + 1 then q.cout else 0) ∧ f.col.cnt.at (cell * 4 + n) (0, q.imm) = (if p.2 ≤ p.1 + 1 then 0 else p.1 + 1, p.2)
        ∧ (f.tokens q k).1 = if q.ra = 0 then [] else List.replicate q.rx (f.tok f.r))
    ∧ (q.op = 0x69 → gives fun f => f.tokens q k = ([], []) ∧ f.cout = 0)
    ∧ (q.op = 0x53 → q.lane = 1 → gives fun f => f.tag = k.tag ∧ masked f om fun i =>
        let part := fun (x : W36) => let v := x.extractLsb' 0 32
          if q.aux / 2 % 2 = 1 then v.extractLsb' 0 16
          else if q.aux % 2 = 1 then (if v.toNat < 2 ^ 16 then v.extractLsb' 0 16 else 0xFFFF#16)
          else if v.toInt < -32768 then 0x8000#16 else if 32767 < v.toInt then 0x7FFF#16 else v.extractLsb' 0 16
        (0#4 ++ part (B.1.lane i)) ++ part (A.1.lane i))
    ∧ (q.op = 0x53 → q.lane = 0 → gives fun f => f.tag = k.tag ∧ masked f om fun i =>
        let part := fun (v : BitVec 16) =>
          if q.aux / 2 % 2 = 1 then v.extractLsb' 0 8
          else if q.aux % 2 = 1 then (if v.toNat < 2 ^ 8 then v.extractLsb' 0 8 else 0xFF#8)
          else if v.toInt < -128 then 0x80#8 else if 127 < v.toInt then 0x7F#8 else v.extractLsb' 0 8
        let both := fun (x : W36) => part (x.extractLsb' 16 16) ++ part (x.extractLsb' 0 16)
        (0#4 ++ both (B.1.lane i)) ++ both (A.1.lane i))
    ∧ (q.op = 0x53 → q.lane = 3 → gives fun f => f.tag = k.tag ∧ masked f om fun i => (l18OfW36 (B.1.lane i)).1 ++ (l18OfW36 (A.1.lane i)).1)
    ∧ (q.op = 0x54 → q.lane = 1 → gives fun f => ∃ x y : Token, f.xs = some [x, y] ∧ x.mask = om ∧ y.mask = om ∧ x.tag = k.tag ∧ y.tag = k.tag ∧ ∀ i, i < 32 → om.getLsbD i = true →
        let wide := fun v : BitVec 16 => if q.aux % 2 = 1 then v.setWidth 36 else (v.signExtend 32).setWidth 36
        x.d.lane i = wide ((A.1.lane i).extractLsb' 0 16) ∧ y.d.lane i = wide ((A.1.lane i).extractLsb' 16 16))
    ∧ (q.op = 0x54 → q.lane = 0 → gives fun f => ∃ x y : Token, f.xs = some [x, y] ∧ x.mask = om ∧ y.mask = om ∧ x.tag = k.tag ∧ y.tag = k.tag ∧ ∀ i, i < 32 → om.getLsbD i = true →
        let wide := fun v : BitVec 8 => if q.aux % 2 = 1 then v.setWidth 16 else v.signExtend 16
        let a := A.1.lane i
        x.d.lane i = (0#4 ++ wide (a.extractLsb' 8 8)) ++ wide (a.extractLsb' 0 8) ∧ y.d.lane i = (0#4 ++ wide (a.extractLsb' 24 8)) ++ wide (a.extractLsb' 16 8))
    ∧ (q.op = 0x54 → q.lane = 3 → gives fun f => ∃ x y : Token, f.xs = some [x, y] ∧ x.mask = om ∧ y.mask = om ∧ x.tag = k.tag ∧ y.tag = k.tag ∧ ∀ i, i < 32 → om.getLsbD i = true →
        x.d.lane i = l18ToW36 ((A.1.lane i).extractLsb' 0 18) ∧ y.d.lane i = l18ToW36 ((A.1.lane i).extractLsb' 18 18))

/-! ## Token moves, address cells and memory cells (R261, R271, R327 to R337, R340 to R348) -/

/-- R261, R330 to R332, R337: a token that stands before an X-box is copied to every output that takes it and has room, and leaves when
all have accepted it (R69); it moves from an output to the unit that it feeds, in order; an address cell gives
its memory cell base + offset + the sum of counts times strides, IDX one address for each active lane, and CNT its counting value. -/
def Obligations.MovesAndAddresses : Prop :=
  ∀ (s : State) (t : Nat), t < 768 →
    let c := (s.tile t).col
    let cyc := s.colCyc t
    let runs := fun (i : Instr) (p : Collar → Prop) => ∃ u, exec i s = .next u ∧ OnlyTile s u t ∧ p (u.tile t).col
    (∀ x port, x < 128 → port < 6 → c.mayAct cyc (144 + x) = true →
      (∀ y o k, c.before x port = some (y, o, k) → y ≠ x → o < 6 → c.nowX x port ≠ [] → (c.regionAt x port k.tag = none ∨ (c.active.takers 0 x port).length ≤ 1) →
        let all : Bool := (c.nowX x port).length == (c.dueX x port).length
        runs (.xboxTokenMove t .data x port) fun v => v.xd.at (xKey y o) [] = (if all then (c.xd.at (xKey y o) []).tail else c.xd.at (xKey y o) [])
          ∧ v.xdAcc.at (xKey x port) 0 = (if all then 0 else c.xdAcc.at (xKey x port) 0 + outBits (c.nowX x port))
          ∧ ∀ r, r < 6 → v.xd.at (xKey x r) [] = c.xd.at (xKey x r) [] ++ if r ∈ c.nowX x port then [k] else [])
      ∧ (∀ y o k, c.beforeCtl x port = some (some (y, o), k) → y ≠ x → o < 6 → c.nowXc x port ≠ [] →
        let all : Bool := (c.nowXc x port).length == (c.dueXc x port).length
        runs (.xboxTokenMove t .control x port) fun v => v.xc.at (xKey y o) [] = (if all then (c.xc.at (xKey y o) []).tail else c.xc.at (xKey y o) [])
          ∧ v.xcAcc.at (xKey x port) 0 = (if all then 0 else c.xcAcc.at (xKey x port) 0 + outBits (c.nowXc x port))
          ∧ ∀ r, r < 6 → v.xc.at (xKey x r) [] = c.xc.at (xKey x r) [] ++ if r ∈ c.nowXc x port then [k] else [])
      ∧ (∀ k, c.beforeCtl x port = some (none, k) → c.nowXc x port ≠ [] → (c.nowXc x port).length = (c.dueXc x port).length →
        runs (.xboxTokenMove t .control x port) fun v => (∀ r, c.rally = some r → v.rally.map (·.starts) = some (setDel r.starts x))
          ∧ ∀ r, r < 6 → v.xc.at (xKey x r) [] = c.xc.at (xKey x r) [] ++ if r ∈ c.nowXc x port then [k] else [])
      ∧ (∀ k rest, c.xd.at (xKey x port) [] = k :: rest →
        (∀ d i, outSink 0 x port = .cell d i → (c.cin.at (cKey d i) []).length < 4 → runs (.xboxTokenMove t .data x (6 + port)) fun v =>
          v.xd.at (xKey x port) [] = rest ∧ v.cin.at (cKey d i) [] = c.cin.at (cKey d i) [] ++ [k])
        ∧ (∀ m, outSink 0 x port = .mem m → (c.minp.at m []).length < 4 → runs (.xboxTokenMove t .data x (6 + port)) fun v =>
          v.xd.at (xKey x port) [] = rest ∧ v.minp.at m [] = c.minp.at m [] ++ [k])
        ∧ (∀ side g, outSink 0 x port = .arr side g → (c.ain.at (aKey side g) []).length < 4 → runs (.xboxTokenMove t .data x (6 + port)) fun v =>
          v.xd.at (xKey x port) [] = rest ∧ v.ain.at (aKey side g) [] = c.ain.at (aKey side g) [] ++ [k])))
    ∧ (∀ a m, a < 16 →
      let q := c.active.mcell m
      let k := c.mcell m
      let f := c.active.acell a
      let b := c.cb.at f.base 0
      let low : Int := (b.extractLsb 55 0).toNat
      let steps : Int := ((List.range 4).map fun d => ((c.dim a d).1 : Int) * f.str.getD d 0).sum
      (c.serves a cyc = some (m, true) → c.mayRun m q = true → k.addr = none →
        (∀ e : Nat, f.aop = 1 → k.runDone = false → ((q.mop = 2 ∨ q.mop = 8) → c.minp.at m [] ≠ []) → (e : Int) = low + q.offset + steps → e < 2 ^ 56 →
          (b.extractLsb 63 60).toNat < 4 → runs (.aff t a) fun v => (v.mcell m).addr = some [(0, e)] ∧ v.acnt = c.acnt)
        ∧ (∀ e : Nat, f.aop = 3 → k.runDone = false → (e : Int) = ((b.extractLsb 31 0).toNat + q.offset + steps) % 2 ^ 32 →
          runs (.acellCnt t a) fun v => (v.mcell m).addr = some [(0, e)] ∧ v.acnt = c.acnt)
        ∧ (∀ tok rest, f.aop = 2 → c.minp.at m [] = tok :: rest → (b.extractLsb 63 60).toNat < 4 → (∀ i, i < 32 → tok.mask.getLsbD i = true → tok.d.bad i = false) →
          let at_ := fun (i : Nat) => let v := (tok.d.lane i).extractLsb' 0 32
            low + q.offset + (if q.mop = 6 then ((v.toNat / 64 : Nat) : Int) else v.toInt) * f.str.headD 0
          (∀ i, i < 32 → tok.mask.getLsbD i = true → 0 ≤ at_ i ∧ at_ i < 2 ^ 56) →
          runs (.idx t a) fun v => ∃ l, (v.mcell m).addr = some l ∧ l.map (·.1) = (List.range 32).filter (fun i => tok.mask.getLsbD i)
            ∧ (∀ p ∈ l, (p.2 : Int) = at_ p.1) ∧ v.minp = c.minp))
      ∧ (∀ e : Nat, f.aop = 1 → c.serves a cyc = some (m, false) → c.wantsMeta m q = true → (e : Int) = low + steps → e < 2 ^ 56 → (b.extractLsb 63 60).toNat < 4 →
          runs (.aff t a) fun v => (v.mcell m).maddr = some e))

/-- R327, R332, R334, R340 to R342, R344, R345, R347, R348: a memory cell that holds its tokens, its addresses and its credits fires: the tokens are taken, the firing
stands in the return buffer and its accesses go to the bank queues in order; what each operation reads, writes or updates at an address in the tile's scratchpad; the
counter port gives its counting token; DCMP reads the next line of its run, and a table record that has waited loads its bank, valid or with a fault. -/
def Obligations.MemoryCells : Prop :=
  ∀ (s : State) (t m : Nat), t < 768 → m < 32 →
    let c := (s.tile t).col
    let cyc := s.colCyc t
    let q := c.active.mcell m
    let k := c.mcell m
    let n := q.ratei
    let toks := (c.minp.at m []).take n
    let runs := fun (i : Instr) (p : State → Prop) => ∃ u, exec i s = .next u ∧ p u
    let fired := fun (u : State) => ((u.tile t).col.mcell m).spos = k.spos + 1 ∧ (u.tile t).col.lastFire.at (96 + m) 0 = cyc + 1
    let free := q.av = true ∧ c.mayAct cyc (96 + m) = true ∧ k.ret = [] ∧ k.out = none ∧ k.spill = [] ∧ k.owe = [] ∧ (s.tile t).cellReq.at m [] = [] ∧ k.running = true
      ∧ c.lastFire.at (96 + m) 0 ≠ cyc + 1 ∧ ((q.mop = 0 ∨ q.mop = 1 ∨ q.mop = 7) → c.draining = false) ∧ 8 ≤ q.region ∧ (s.tile t).reg.pmsel = []
      ∧ ((q.mop = 0 ∨ q.mop = 1 ∨ q.mop = 3 ∨ q.mop = 7 ∨ q.mop = 9) → 64 ≤ s.mcredNow t m)
    (∀ as, free → k.addr = some as → toks.length = n → (q.mv = true → k.maddr ≠ none) →
      let i : CellIn := { toks := toks, addrs := as, i0 := (c.dim q.alink 0).1, maddr := k.maddr.getD 0 }
      (∀ (j : CellJob) (y : CellAcc) (rest : List CellAcc) (o : Nat), j.accs = y :: rest → j.fault = none → (∀ z ∈ j.accs, z.st = 0) →
        s.cellHome t m y.isMeta y.addr y.len y.op.kind = .ok (.scratch t o) →
        ∀ p ∈ [((Instr.lds t m), 1, s.jobLds t m q i), (.sts t m, 2, s.jobSts t m q i), (.gath t m, 3, s.jobGath t m q i), (.scat t m, 4, s.jobScat t m q i),
            (.atom t m, 5, s.jobAtom t m q i), (.tas t m, 6, s.jobTas t m q i), (.qnt t m, 8, s.jobQnt t m q i), (.rld t m, 9, s.jobGath t m q i),
            (.rst t m, 10, s.jobScat t m q i), (.ramo t m, 11, s.jobAtom t m q i)],
          q.mop = p.2.1 → p.2.2 = .ok j → runs p.1 fun u => fired u ∧ (u.tile t).col.minp.at m [] = (c.minp.at m []).drop n
            ∧ ∃ more, (u.tile t).cellReq.at m [] = { who := .cell t m k.nextK, off := o, op := y.op } :: more)
      ∧ (∀ v, q.mop = 0 → as = [(0, v)] → c.roomMem m q = true → runs (.counterPort t m) fun u => fired u
          ∧ ∃ tok : Token, tok.mask = 0xFFFFFFFF#32 ∧ tok.tag = 0 ∧ (∀ j, j < 32 → tok.d.lane j = BitVec.ofNat 36 ((v + j) % 2 ^ 32) ∧ tok.d.bad j = false)
            ∧ ∀ o, o < 6 → (u.tile t).col.xd.at (xKey (96 + m) o) [] = c.xd.at (xKey (96 + m) o) [] ++ if o ∈ c.active.takers 0 (96 + m) 0 then [tok] else []))
    ∧ (∀ (i : CellIn) (l a o : Nat),
        let one := fun (len : Nat) (kind : AKind) => s.cellHome t m false a len kind = .ok (.scratch t o) ∧ o % 64 + len ≤ 64
        let tok := i.toks.headD {}
        let size := q.bytes q.perTok
        let lane := q.bytes q.perLane
        let low32 := fun (x : W36) => (x.extractLsb' 0 32).setWidth 64
        (i.addrs = [(0, a)] → a % q.align = 0 →
          (q.mv = false → 0 < size → one size .read → ∃ j, s.jobLds t m q i = .ok j ∧ j.accs = [{ addr := a, len := size, op := .read size, serve := 1, ea := a }])
          ∧ (let bs := (q.tokenBytes tok).1
             bs.any (·.en) = true → one bs.length .write → ∃ j, s.jobSts t m q i = .ok j ∧ j.accs = [{ addr := a, len := bs.length, op := .write bs none, serve := 1, ea := a }]))
        ∧ (i.addrs = [(l, a)] → l < 32 →
          (a % q.align = 0 → 0 < lane → one lane .read → ∃ j, s.jobGath t m q i = .ok j ∧ j.accs = [{ addr := a, len := lane, op := .read lane, serve := 2 ^ l, ea := a }])
          ∧ (let x := i.toks.getD 1 {}
             let bs := (q.laneBytes (x.d.lane l) (x.d.bad l)).1
             x.mask.getLsbD l = true → 0 < bs.length → one bs.length .write →
               ∃ j, s.jobScat t m q i = .ok j ∧ j.accs = [{ addr := a, len := bs.length, op := .write bs none, serve := 2 ^ l, ea := a }] ∧ j.fault = none)
          ∧ (let x := i.toks.getD 1 {}
             let z := i.toks.getD 2 {}
             let cmp := if q.aop = 9 then low32 (z.d.lane l) else 0
             (∀ b, x.d.bad b = false) → (∀ b, z.d.bad b = false) → a % 4 = 0 → one 4 .atomic → ∃ j, s.jobAtom t m q i = .ok j ∧ j.fault = none
               ∧ j.accs = [{ addr := a, len := 4, serve := 2 ^ l, ea := a, op := .atomic 4 q.aop (low32 (x.d.lane l)) false cmp }])
          ∧ ((∀ b, tok.d.bad b = false) → a % 8 = 0 → one 8 .atomic → ∃ j, s.jobTas t m q i = .ok j ∧ j.fault = none
               ∧ j.accs = [{ addr := a, len := 8, serve := 2 ^ l, ea := a, op := .atomic 8 10 (((tok.d.lane l).extractLsb' 0 6).setWidth 64) false 0 }])))
    ∧ (∀ a o, free → q.mop = 7 → k.addr = some [(0, a)] → 0 < q.perTok → k.dec.syms = [] → k.dec.ended = false → k.dec.inBlock = false → k.allOut = false →
        k.dec.pos + 16 ≤ 64 * c.runLines q → a % 64 = 0 → o % 64 = 0 → s.cellHome t m false a 64 .read = .ok (.scratch t o) →
        runs (.dcmp t m) fun u => fired u ∧ ((u.tile t).col.mcell m).addr = none
          ∧ (u.tile t).cellReq.at m [] = [{ who := .cell t m k.nextK, off := o, op := .read 64 }])
    ∧ (∀ r, k.dec.table = some r → r.since + 2 ≤ cyc →
        let b := !k.bank0.ld
        runs (.decodeTableLoad t m) fun u =>
          let v := (u.tile t).col.mcell m
          v.dec.table = none ∧ v.bank (!b) = k.bank (!b) ∧ (v.bank b).ld = false
          ∧ (ecValid r.image.toNat = true → v.bank b = { image := r.image, chk := BitVec.ofNat 4 (ecCheck r.image.toNat), v := true, ld := false } ∧ (u.tile t).col.cstat = c.cstat)
          ∧ (ecValid r.image.toNat = false → (v.bank b).v = false ∧ (c.cstat.toNat % 256 = 0 → (u.tile t).col.cstat.toNat % 256 = cDecodeTable.toNat)))

/-! ## The array (R301 to R324) -/

/-- R152, R303 to R305, R307 to R311, R317, R323: the steps of an array that is no pair half: a WLD cycle writes the PE words of its K row or rows in each mode, and the last
one fills the plane (or hands it to the pass that waits for it), turns LPL and gives the token of the plane on the north edge; a scale token writes 32 scales of a row, and
the eighth ends the row; a command token starts a pass or faults CONFIG, ACCW writes one accumulator row, a K-step takes an A row and commits the row that has passed the
pipeline with the value of KStep for each enabled column (what that is is said at the end), and ACCR gives one row on the south edge with its end-of-row token, the
single-bit errors of the words that it reads corrected and counted; a pass whose steps are all done ends with its end-of-K token; and the skew of a pair counts up to its
limit, when both halves fault. R303, R304, R311 to R314: what a K-step computes for one column: C plus the sum over the groups of scale times the sum of the products of the group's elements of the A
row and of the plane, rounded once, where all of them are finite; a NaN anywhere, or a product of zero and an infinity, gives the canonical NaN; an infinite C is the
result where all else is finite. An element is the L18 word at its place of the tokens or the plane, in PRECISE the sum of the two parts of its pair (of which an infinite
or NaN high part stands for the whole), and in the 4-bit modes the signed integer of its five bits. -/
def Obligations.ArraySteps : Prop :=
  (∀ (s : State) (t : Nat), t < 768 →
    let c := (s.tile t).col
    let cyc := s.colCyc t
    let p := c.active
    let q := p.arr
    let a := c.arr
    let arr := fun (u : State) => (u.tile t).col.arr
    let runs := fun (i : Instr) (f : State → Prop) => ∃ u, exec i s = .next u ∧ f u
    let quiet := c.mayAct cyc 272 = true ∧ q.pair = false ∧ a.planeOwed = false ∧ a.passDone q = false ∧ (s.tile t).reg.pmsel = []
    let clean := fun (l : List Token) => ∀ x ∈ l, ∀ i, i < 32 → x.d.bad i = false
    let taken := fun (u : State) (side g : Nat) => (u.tile t).col.ain.at (aKey side g) [] = (c.ain.at (aKey side g) []).tail
    let loading := q.wld = true ∧ q.amode ≠ 0 ∧ a.full = false
    let row := q.accbase + a.row0
    let control := fun (u : State) (x : Nat) => ∀ o, o < 6 → (u.tile t).col.xc.at (xKey x o) [] = c.xc.at (xKey x o) [] ++ if o ∈ p.takers 1 x 2 then [false] else []
    let four := q.amode = 4 ∨ q.amode = 5
    (∀ toks, quiet → loading → Rising a.b0 → Rising a.b1 → a.lrows ≤ q.kstepm1 → (q.grouped = true → (if four then 2 * a.lrows else a.lrows) / q.group < a.sgrp) →
      c.arrHeads 0 0 (if q.amode = 2 then 8 else 4) = some toks → clean toks →
      let bits := fun (g i lo n : Nat) => ((toks.getD g {}).d.lane i).toNat / 2 ^ lo % 2 ^ n
      let word := fun (r j : Nat) => BitVec.ofNat 18 (if q.amode = 2 then bits (j / 32) (j % 32) (18 * (r % 2)) 18
        else if four then bits (2 + j / 128) (j % 128 / 4) (8 * (j % 4)) 5 * 2 ^ 9 + bits (j / 128) (j % 128 / 4) (8 * (j % 4)) 5
        else bits (j / 64) (j % 64 / 2) (18 * (j % 2)) 18)
      let loads := fun (u : State) => OnlyTile s u t ∧ (∀ g, g < toks.length → taken u 0 g) ∧ (∀ r j, (arr u).pe (!a.lpl) r j = a.pe (!a.lpl) r j)
        ∧ ∀ r j, j < 256 → (arr u).pe a.lpl r j = if (if q.amode = 2 then r / 2 else r) = a.lrows ∧ p.colOn j = true then word r j else a.pe a.lpl r j
      (a.lrows < q.kstepm1 → runs (.wld t) fun u => loads u ∧ (arr u).lrows = a.lrows + 1 ∧ (arr u).full = false ∧ (arr u).lpl = a.lpl)
      ∧ (a.lrows = q.kstepm1 → a.sgrp = q.scaleRows → c.arrCtlRoom 0 0 = true → runs (.wld t) fun u => loads u ∧ (arr u).full = !a.waitsPlane q ∧ (arr u).lpl = !a.lpl
          ∧ (arr u).lrows = 0 ∧ (arr u).sgrp = 0 ∧ (arr u).stok = 0 ∧ (arr u).planeOwed = false ∧ control u (edgeXbox 0 0)))
    ∧ (∀ k, quiet → loading → Rising a.sc → a.sgrp < q.scaleRows → a.stok < 8 → (a.stok = 7 → a.lrows ≤ q.kstepm1) → c.arrIn 2 3 = some k → clean [k] →
      runs (.scaleRowTake t) fun u => OnlyTile s u t ∧ (arr u).stok = (a.stok + 1) % 8 ∧ (arr u).sgrp = (if a.stok = 7 then a.sgrp + 1 else a.sgrp) ∧ taken u 2 3
        ∧ ∀ i, i < 32 → let key := ((if a.lpl then 8 else 0) + a.sgrp) * 256 + 32 * a.stok + i
            (arr u).sc.at key 0 = if p.colOn (32 * a.stok + i) then k.d.lane i else a.sc.at key 0)
    ∧ (∀ k, quiet → q.amode ≠ 0 → a.v = false → c.arrIn 2 2 = some k → clean [k] → k.mask.getLsbD 0 = true →
      let w := k.d.lane 0
      (q.cmdOk w.toNat = true → runs (.arrayPass t) fun u => OnlyTile s u t ∧ taken u 2 2 ∧ (arr u).v = true ∧ (arr u).cmd = w.extractLsb' 0 32
        ∧ (arr u).lrow = 0 ∧ (arr u).mrow = 0 ∧ (arr u).orow = 0 ∧ (arr u).acc = a.acc)
      ∧ (q.cmdOk w.toNat = false → c.cstat.toNat % 256 = 0 → runs (.arrayPass t) fun u => (u.tile t).col.cstat.toNat % 256 = cConfig.toNat
          ∧ (∀ r, (u.tile t).col.rally = some r → 272 ∈ r.faulted) ∧ (arr u).v = false))
    ∧ (∀ toks, quiet → Rising a.acc → a.v = true → a.isLoad = true → a.waitsPlane q = false → a.lrow < a.rows → c.arrHeads 1 0 8 = some toks → clean toks →
      runs (.accw t) fun u => OnlyTile s u t ∧ (∀ g, g < 8 → taken u 1 g) ∧ (arr u).lrow = a.lrow + 1
        ∧ (∀ r j, j < 256 → (arr u).acc.at (r * 256 + j) 0 = if r = row + a.lrow ∧ p.colOn j = true ∧ (toks.getD (j / 32) {}).mask.getLsbD (j % 32) = true
            then (toks.getD (j / 32) {}).d.lane (j % 32) else a.acc.at (r * 256 + j) 0))
    ∧ (∀ i ∈ [Instr.mma t, .mmaG t], (i = .mmaG t ↔ q.grouped = true) → quiet →
      (∀ at_ k0 k1 rest, a.pipe = (at_, k0, k1) :: rest → Rising a.acc → s.rowReady t = true → (∀ j, j < 256 → (row + a.mrow) * 256 + j ∉ a.accBad) →
        runs i fun u => (arr u).mrow = a.mrow + 1
          ∧ (∀ r j, j < 256 → (arr u).acc.at (r * 256 + j) 0 = if r = row + a.mrow ∧ p.colOn j = true then
              (a.kStep q (if a.isFresh then 0x800000000#36 else a.acc.at (r * 256 + j) 0) ((List.range q.krows).map (q.aElem k0 k1)) a.cpl j).1
              else a.acc.at (r * 256 + j) 0))
      ∧ (∀ k0 k1, a.pipe = [] → a.v = true → a.isMma = true → a.waitsPlane q = false → a.mrow < a.rows → c.arrHeads 2 0 2 = some [k0, k1] → clean [k0, k1] →
        runs i fun u => OnlyTile s u t ∧ taken u 2 0 ∧ taken u 2 1 ∧ (arr u).pipe = [(cyc, k0, k1)] ∧ (arr u).acc = a.acc ∧ (arr u).mrow = a.mrow))
    ∧ (quiet → a.v = true → a.isOut = true → a.waitsPlane q = false →
        a.orow < min (if a.isMma then a.mrow else if a.isLoad then a.lrow else a.rows) a.rows →
        (∀ g, g < 8 → c.roomX (edgeXbox 1 g) 2 1 = true) → c.arrCtlRoom 1 0 = true →
        let read := fun (k : Nat) => k / 256 == row + a.orow && p.colOn (k % 256)
        runs (.accr t) fun u => OnlyTile { s with secded := s.secded + (a.accSoft.filter read).length } u t ∧ (arr u).orow = a.orow + 1 ∧ (arr u).acc = a.acc
          ∧ (arr u).accSoft = a.accSoft.filter (fun k => !read k) ∧ control u (edgeXbox 1 0)
          ∧ ∀ g o, g < 8 → o < 6 → ∃ k : Token, k.tag = 0
            ∧ (∀ i, i < 32 → k.mask.getLsbD i = p.colOn (32 * g + i)
                ∧ (p.colOn (32 * g + i) = true → k.d.lane i = a.acc.at ((row + a.orow) * 256 + 32 * g + i) 0
                    ∧ k.d.bad i = a.accBad.contains ((row + a.orow) * 256 + 32 * g + i)))
            ∧ (u.tile t).col.xd.at (xKey (edgeXbox 1 g) o) [] = c.xd.at (xKey (edgeXbox 1 g) o) [] ++ if o ∈ p.takers 0 (edgeXbox 1 g) 2 then [k] else [])
    ∧ (c.mayAct cyc 272 = true → q.pair = false → a.planeOwed = false → (s.tile t).reg.pmsel = [] → a.v = true → a.waitsPlane q = false → (a.isLoad = true → a.lrow = a.rows) →
        (a.isMma = true → a.mrow = a.rows) → (a.isOut = true → a.orow = a.rows) → a.pipe = [] → c.arrCtlRoom 2 0 = true →
        ∀ i ∈ [Instr.accr t, .accw t], runs i fun u => OnlyTile s u t ∧ arr u = { a with v := false } ∧ control u (edgeXbox 2 0))
    ∧ (s.waitsPartner t = true →
        (a.skewAt = none → runs (.pairTimeout t) fun u => OnlyTile s u t ∧ arr u = { a with skewAt := some cyc })
        ∧ (a.skewAt ≠ none → s.skewNow t < 2 ^ 20 → exec (.pairTimeout t) s = .next s)
        ∧ (∀ v, a.skewAt ≠ none → 2 ^ 20 ≤ s.skewNow t → s.otherHalf t = some v → v ≠ t → runs (.pairTimeout t) fun u => ∀ x ∈ [t, v],
            ∀ r, (u.tile x).col.rally = some r → 272 ∈ r.faulted)))
  ∧ (∀ (a : ArrayState) (q : ArrCfg) (c : W36) (k0 k1 : Token) (plane : Bool) (j : Nat), 1 ≤ q.amode → q.amode ≤ 5 →
    let r := a.kStep q c ((List.range q.krows).map (q.aElem k0 k1)) plane j
    let four := q.amode = 4 ∨ q.amode = 5
    let per := if q.amode = 2 then 1 else if four then 4 else 2
    let lane := fun (k : Nat) => (if k < 32 * per then k0 else k1).d.lane (k / per % 32)
    let int5 := fun (v : BitVec 5) => v.toInt * 2 ^ 262
    let isInf := fun (w : L18) => w.extractLsb 16 8 = 0x1FF#9 ∧ w.extractLsb 7 0 = 0#8
    let isNan := fun (w : L18) => w.extractLsb 16 8 = 0x1FF#9 ∧ w.extractLsb 7 0 ≠ 0#8
    let fin := fun (w : L18) => w.extractLsb 16 8 ≠ 0x1FF#9
    let aHi := fun (k : Nat) => (lane k).extractLsb' (if q.amode = 2 then 0 else 18 * (k % 2)) 18
    let aLo := fun (k : Nat) => (lane k).extractLsb' 18 18
    let bHi := fun (k : Nat) => a.pe plane (if q.amode = 2 then 2 * k else k) j
    let bLo := fun (k : Nat) => a.pe plane (2 * k + 1) j
    let aNum := fun (k : Nat) => if four then int5 ((lane k).extractLsb' (8 * (k % 4)) 5) else l18Int (aHi k) + if q.amode = 2 then l18Int (aLo k) else 0
    let bNum := fun (k : Nat) => if four then int5 ((a.pe plane (k / 2) j).extractLsb' (9 * (k % 2)) 5) else l18Int (bHi k) + if q.amode = 2 then l18Int (bLo k) else 0
    let aFin := fun (k : Nat) => four ∨ (fin (aHi k) ∧ (q.amode = 2 → fin (aLo k)))
    let bFin := fun (k : Nat) => four ∨ (fin (bHi k) ∧ (q.amode = 2 → fin (bLo k)))
    let rows := q.krows
    let groups := if q.grouped then rows / q.group else 1
    let size := if q.grouped then q.group else rows
    let scale := fun (g : Nat) => a.sc.at (((if plane then 8 else 0) + g) * 256 + j) 0
    let dot := fun (g : Nat) => ((List.range size).map fun i => aNum (g * size + i) * bNum (g * size + i)).sum
    let allFin := (∀ k, k < groups * size → aFin k ∧ bFin k) ∧ (q.grouped = true → ∀ g, g < groups → isFinite (scale g) = true)
    let v : Int := w36Int c * 2 ^ 524 + ((List.range groups).map fun g => (if q.grouped then w36Int (scale g) else 2 ^ 1046) * dot g).sum
    (isFinite c = true → allFin → ∃ neg, (v ≠ 0 → neg = decide (v < 0)) ∧ (v = 0 → c.getLsbD 35 = false → neg = false) ∧ Rounds .rne neg v.natAbs (2 ^ 524) r)
    ∧ (isInfinity c = true → allFin → r = (c, 0))
    ∧ (isNaN c = true → allFin → r = (0x7FF800000#36, if isSNaN c then 16#5 else 0))
    ∧ (¬ four → ∀ k, k < groups * size → (isNan (aHi k) ∨ isNan (bHi k)) → r.1 = 0x7FF800000#36)
    ∧ (q.grouped = true → ∀ g, g < groups → isNaN (scale g) = true → r.1 = 0x7FF800000#36 ∧ (isSNaN (scale g) = true → r.2 = 16#5))
    ∧ (¬ four → ∀ k, k < groups * size → (aFin k ∧ aNum k = 0 ∧ isInf (bHi k)) ∨ (isInf (aHi k) ∧ bFin k ∧ bNum k = 0) → r = (0x7FF800000#36, 16#5)))

/-! ## The fabric (R246, R358 to R378, R394) -/

/-- R358, R361, R362, R365, R366, R372, R376, R377, R378: in a flit slot an output sends a flit that waits for it to the far end's buffer of its VC; a header whose
packet a router discards leaves its buffer, and a request is answered FAIL on VC1; a package port that is not up sends nothing; a packet that waits at its
interface enters an empty buffer of its class; a header that has waited past TRIMTH loses its payload and goes on as a bunt header on VC2; a link that fails its
CRC counts each flit that is to be sent again once; a port sheds lanes, comes back, or is DOWN, with FAIL 5, after its third failure within 125,000 reference
cycles. That a flit sent again takes the port's flit slot is the model's choice (DESIGN CHOICE, log entry 113); that a flit that comes to a part without power is
lost is log entry 118's. -/
def Obligations.FabricMoves : Prop :=
  ∀ (s : State) (n : Node), isNode n = true →
    let r := s.router n
    let ni := s.netIf n
    let runs := fun (i : Instr) (p : State → Prop) => ∃ u, exec i s = .next u ∧ MemKept s u ∧ p u
    (∀ (out vc key : Nat) (f : Flit), isOut n out = true → vc < 16 → ni.txq = [] → s.offers n out = [(vc, key, f)] →
      let buf := r.ins.at key []
      let rest := freshen s.time buf.tail
      let far := match f with | .head h _ => Flit.head { h with vc := vc } s.time | f => f
      (∀ m port, out < 126 → s.outUp n out = true → linkEnd n out = some (m, port) → m ≠ n → runs (.flitSend n out) fun u =>
        (u.router n).ins.at key [] = rest ∧ (u.router m).ins.at (port * 16 + vc) [] = (s.router m).ins.at (port * 16 + vc) [] ++ (if s.takesFlit m port then [far] else [])
        ∧ (∀ j, j ≠ key → (u.router n).ins.at j [] = r.ins.at j []) ∧ ((u.router n).out out).pos = ((r.out out).pos + 1) % 16)
      ∧ (∀ h since, out < 126 → f = .head h since → h.len = 0 → h.trim = false → s.takesFlit n out = true → out = ownPort n →
        runs (.flitSend n out) fun u => (u.router n).ins.at key [] = rest
          ∧ (u.netIf n).lets = ni.lets ++ (if h.kind = 5 then [{ h with vc := vc }] else [])
          ∧ (u.netIf n).rsps = ni.rsps ++ (if h.kind = 3 then [{ h := { h with vc := vc } }] else [])
          ∧ (u.netIf n).reqs = ni.reqs ++ (if h.kind ≠ 3 ∧ h.kind ≠ 5 then [{ h := { h with vc := vc } }] else []))
      ∧ (∀ h since, out = 127 → f = .head h since → h.isReq = true → runs (.flitSend n out) fun u =>
        (u.router n).ins.at key [] = rest ∧ ∃ p, (u.netIf n).txq = [p] ∧ p.pay = [] ∧ p.h.kind = 3 ∧ p.h.status = 3 ∧ p.h.vc = 1 ∧ p.h.dpkg = h.spkg
          ∧ p.h.dtile = h.stile ∧ p.h.stream = h.stream ∧ p.h.seq = h.seq))
    ∧ (∀ (out : Nat) (p : Packet) (q : List Packet), isOut n out = true → out < 126 → s.outUp n out = false → ni.txq = p :: q →
      r.ins.at (ownPort n * 16 + injVc p.h) [] = [] → runs (.flitSend n out) fun u =>
        (u.netIf n).txq = q ∧ ∃ flits, (u.router n).ins.at (ownPort n * 16 + injVc p.h) [] = .head p.h s.time :: flits ∧ flits.length = p.h.len)
    ∧ (∀ (out key since : Nat) (h : Hdr) (rest : List Flit), isOut n out = true → r.ins = [(key, .head h since :: rest)] → key % 16 ≠ 2 → key / 16 ≠ 77 →
      s.routeAt n (key / 16) h = some out → (r.out out).trimmable h = true →
      (since + (r.out out).trimth < s.time → runs (.trim n out) fun u =>
        (u.router n).ins.at (key / 16 * 16 + 2) [] = [.head { h with trim := true, len := 0 } s.time] ∧ (u.router n).ins.at key [] = freshen s.time rest
        ∧ ((u.router n).out out).trims = min ((r.out out).trims + 1) (2 ^ 32 - 1))
      ∧ (s.time ≤ since + (r.out out).trimth → exec (.trim n out) s = .next s))
    ∧ (∀ (d p : Nat), isPort d p = true →
      let l := (s.die d).ports.at p {}
      let port := fun (u : State) => (u.die d).ports.at p {}
      let late := fun (l : PortLink) => l.fails.filter fun t => decide (s.time < t + 125000)
      (∀ k, l.st = 0 → k < l.replay.length → runs (.linkReplay d p k) fun u => u.pkg = s.pkg
        ∧ port u = { l with resend := max l.resend (l.replay.length - k), crc := min (l.crc + (l.replay.length - k - l.resend)) (2 ^ 32 - 1) })
      ∧ (∀ w, l.st = 0 → (r.out p).lock = [] → n = .die d → w ∈ [1, 2] → w ≠ l.lanes → runs (.laneShed d p w) fun u => u.pkg = s.pkg
        ∧ port u = { l with st := 1, lanes := w, want := 0, shed := min (l.shed + 1) (2 ^ 32 - 1) })
      ∧ (l.st = 1 → runs (.linkRetrain d p true) fun u => port u = { l with st := 0, resend := l.replay.length, rxSeq := none }
        ∧ u.pkg.portup = s.pkg.portup ||| (1#96 <<< (p / 4 * 16 + d * 4 + p % 4)))
      ∧ (l.st = 1 → 2 ≤ (late l).length → runs (.linkRetrain d p false) fun u => (port u).st = 3 ∧ (port u).replay = []
        ∧ u.pkg.fail = (if s.pkg.fail = 0 then 5 else s.pkg.fail) ∧ u.pkg.detail = (if s.pkg.fail = 0 then p / 4 * 16 + d * 4 + p % 4 else s.pkg.detail)
        ∧ u.pkg.portup = s.pkg.portup &&& ~~~(1#96 <<< (p / 4 * 16 + d * 4 + p % 4)))
      ∧ (l.st = 1 → (late l).length < 2 → runs (.linkRetrain d p false) fun u => u.pkg = s.pkg ∧ port u = { l with fails := late l ++ [s.time] })
      ∧ (l.st = 0 → l.resend = 0 → n = .die d → ni.txq = [] → ∀ vc key f, vc < 16 → s.offers n p = [(vc, key, f)] → runs (.flitSend n p) fun u =>
          (∃ g, (port u).replay = l.replay ++ [(vc, g)]) ∧ (port u).txSeq = l.txSeq + 1 ∧ (port u).used.at vc 0 = l.used.at vc 0 + 1)
      ∧ (l.st = 0 → 0 < l.resend → n = .die d → ni.txq = [] → runs (.flitSend n p) fun u => port u = { l with resend := l.resend - 1 }
          ∧ (u.router n).ins = r.ins ∧ ((u.router n).out p).pos = ((r.out p).pos + 1) % 16)
      ∧ (l.st = 0 ∨ l.st = 3 → ∀ ok, exec (.linkRetrain d p ok) s = .next s))

/-- R246, R364, R368 to R374, R394: what an interface does with a request that arrives (it performs, it waits for the one that it names, it is a duplicate, or the
window is full), with an answer, with a bunt header and with a let request, and when it asks again: the request of an answer that does not come within 2^ACKTO
cycles completes UNKNOWN, and a BUSY request goes out again after 256. A scratchpad request whose bytes lie in two 64-byte lines waits for the bank of each
(R156, R157). That a let request has every outstanding request sent again, with DED = 1 or from a base die too, is the model's reading (R374; DEDUCED, log entry
23); that an answer on stream 52 or 53 goes to the base die of its source is R364's BD (log entry 118). -/
def Obligations.FabricAnswers : Prop :=
  ∀ (s : State) (n : Node), isNode n = true →
    let ni := s.netIf n
    let runs := fun (i : Instr) (p : State → Prop) => ∃ u, exec i s = .next u ∧ MemKept s u ∧ p u
    let answers := fun (u : State) (h : Hdr) (st : Nat) => ∃ p, (u.netIf n).txq = ni.txq ++ [p] ∧ p.pay = [] ∧ p.h.kind = 3 ∧ p.h.status = st ∧ p.h.seq = h.seq
      ∧ p.h.stream = h.stream ∧ p.h.dpkg = h.spkg ∧ p.h.dtile = h.stile ∧ p.h.rtag = h.rtag ∧ p.h.bd = (h.stream == 52 || h.stream == 53)
    (∀ (p : Packet), ni.reqs = [p] → ni.reseq = [] →
      (∀ e : WinEnt, ni.win = [e] → e.pkg = p.h.spkg → e.tile = p.h.stile → e.stream = p.h.stream → p.h.seq < 2 ^ 32 → p.h.lowoff < 64 →
        e.base = (p.h.seq + 2 ^ 32 - p.h.lowoff) % 2 ^ 32 →
        (e.mask.getLsbD p.h.lowoff = true → e.perf.getLsbD p.h.lowoff = true → p.h.kind ≠ 0 →
          runs (.requestArrival n) fun u => answers u p.h 5 ∧ (u.netIf n).reqs = [] ∧ (u.netIf n).reseq = [])
        ∧ (e.mask.getLsbD p.h.lowoff = true → e.perf.getLsbD p.h.lowoff = false →
          runs (.requestArrival n) fun u => (u.netIf n).txq = ni.txq ∧ (u.netIf n).reqs = [] ∧ (u.netIf n).reseq = [])
        ∧ (e.mask.getLsbD p.h.lowoff = false → p.h.ord = true → 1 ≤ p.h.depoff → p.h.depoff ≤ p.h.lowoff → e.perf.getLsbD (p.h.lowoff - p.h.depoff) = false →
          runs (.requestArrival n) fun u => (u.netIf n).txq = ni.txq ∧ (u.netIf n).reqs = [] ∧ (u.netIf n).reseq = [p])
        ∧ (∀ t, n = .tile t → e.mask.getLsbD p.h.lowoff = false → p.h.ord = false →
          let x := s.tile t
          let len := p.h.nbm1 + 1
          let first := 64 - p.h.addr % 64
          let cut := fun (o l : Nat) => if p.h.kind = 0 then MemOp.read l else .write (((p.pay.take len).drop o).take l) none
          (p.h.unit = 0 → p.h.kind ≠ 6 → p.h.addr + len ≤ 2 ^ 22 → s.asidCheck t p.h.asid = none → p.h.kind = 2 ∨ len ≤ first →
            runs (.requestArrival n) fun u => (u.netIf n).txq = ni.txq ∧ (u.netIf n).reqs = []
              ∧ (u.tile t).netReq = x.netReq ++ [{ who := .net p.h, off := p.h.addr, op := p.op }])
          ∧ (p.h.unit = 0 → p.h.kind ∈ [0, 1, 4] → p.h.aop ≠ 12 → p.h.addr + len ≤ 2 ^ 22 → s.asidCheck t p.h.asid = none → first < len → len ≤ first + 64 →
            runs (.requestArrival n) fun u => (u.netIf n).txq = ni.txq ∧ (u.netIf n).reqs = []
              ∧ (u.tile t).netReq = x.netReq ++ [{ who := .part p.h 0, off := p.h.addr, op := cut 0 first },
                { who := .part p.h 1, off := p.h.addr + first, op := cut first (len - first) }]
              ∧ ∃ g, (u.tile t).gather = x.gather ++ [g] ∧ g.h = p.h ∧ g.left = 2)
          ∧ (p.h.unit = 1 → p.h.kind = 6 → s.asidCheck t p.h.asid = none → (s.slot t p.h.tslot).task.isSome = true → courtCrt x.reg.court = p.h.crt →
            (s.tileCourt t).isSome = true → (s.slot t p.h.tslot).chan.length < 8 →
            runs (.requestArrival n) fun u => answers u p.h 0 ∧ (u.slot t p.h.tslot).chan = (s.slot t p.h.tslot).chan
              ++ [{ val := BitVec.ofNat 64 (payWord (p.pay.take 8)), poi := (p.pay.take 8).any (·.poi) }])
          ∧ (s.asidCheck t p.h.asid = some .busy → runs (.requestArrival n) fun u => answers u p.h 4 ∧ (u.tile t).netReq = x.netReq)
          ∧ (s.asidCheck t p.h.asid = some .fail → runs (.requestArrival n) fun u => answers u p.h 3 ∧ (u.tile t).netReq = x.netReq)))
      ∧ (∀ d, n = .die d → p.h.unit = 3 → p.h.bd = true → p.h.mig = false → p.h.tgt = 0 → ni.win = [] → p.h.ord = false → p.h.lowoff = 0 → p.h.seq < 2 ^ 32 →
        runs (.requestArrival n) fun u => (u.netIf n).reqs = [] ∧ (u.netIf n).txq = ni.txq
          ∧ (u.die d).reqs = (s.die d).reqs ++ [{ h := p.h, pay := p.pay, home := .hbm p.h.addr, arrived := s.time }])
      ∧ (ni.win.length = 128 → (∀ e ∈ ni.win, e.isFor p.h = false ∧ s.time < e.used + 2 ^ 23) →
        runs (.requestArrival n) fun u => answers u p.h 4 ∧ (u.netIf n).reqs = [] ∧ (u.netIf n).win = ni.win))
    ∧ (∀ (p : Packet) (e : WinEnt) (t : Nat), n = .tile t → ni.reseq = [p] → ni.win = [e] → e.pkg = p.h.spkg → e.tile = p.h.stile → e.stream = p.h.stream →
      p.h.seq < 2 ^ 32 → p.h.lowoff < 64 → e.base = (p.h.seq + 2 ^ 32 - p.h.lowoff) % 2 ^ 32 → p.h.ord = true → 1 ≤ p.h.depoff → p.h.depoff ≤ p.h.lowoff →
      (e.perf.getLsbD (p.h.lowoff - p.h.depoff) = false → exec (.reseqRelease n) s = .next s)
      ∧ (e.perf.getLsbD (p.h.lowoff - p.h.depoff) = true → p.h.unit = 0 → p.h.kind ≠ 6 → p.h.addr + p.h.nbm1 + 1 ≤ 2 ^ 22 → s.asidCheck t p.h.asid = none →
        p.h.kind = 2 ∨ p.h.addr % 64 + p.h.nbm1 + 1 ≤ 64 → runs (.reseqRelease n) fun u => (u.netIf n).reseq = [] ∧ (u.tile t).netReq = (s.tile t).netReq ++ [{ who := .net p.h, off := p.h.addr, op := p.op }]))
    ∧ (∀ (t : Nat) (p : Packet), n = .tile t → ni.rsps = [p] →
      let meaning := fun (o : Outst) => if p.h.status = 1 then RStat.poison else if p.h.status = 2 then .notres else if p.h.status = 3 then .fail
        else if p.h.status = 5 ∧ o.h.kind = 2 then .unknown else .ok
      (ni.outst = [] → runs (.responseArrival n) fun u => (u.netIf n).rsps = [] ∧ (u.tile t).wdone = (s.tile t).wdone ∧ (u.tile t).cdone = (s.tile t).cdone)
      ∧ (∀ o : Outst, ni.outst = [o] → o.h.stream = p.h.stream → o.h.seq = p.h.seq → o.h.rtag = p.h.rtag →
        (p.h.status = 4 → runs (if o.h.bd then .baseDieReply t else .responseArrival n) fun u => (u.netIf n).rsps = []
          ∧ (u.netIf n).outst = [{ o with busy := some s.time }])
        ∧ (∀ k i, p.h.status ≠ 4 → o.h.bd = false → o.who = .task t k i → runs (.responseArrival n) fun u => (u.netIf n).rsps = [] ∧ (u.netIf n).outst = []
          ∧ (u.tile t).wdone = (s.tile t).wdone ++ [(k, i, ⟨meaning o, p.pay.take (p.h.nbm1 + 1)⟩)])
        ∧ (∀ m i, p.h.status ≠ 4 → o.h.bd = true → o.who = .cell t m i → runs (.baseDieReply t) fun u => (u.netIf n).rsps = [] ∧ (u.netIf n).outst = []
          ∧ (u.tile t).cdone = (s.tile t).cdone ++ [(m, i, ⟨meaning o, p.pay.take (p.h.nbm1 + 1)⟩)]
          ∧ ((u.tile t).col.mc.at m {}).tags = ((s.tile t).col.mc.at m {}).tags &&& ~~~(1#8 <<< o.h.rtag))))
    ∧ (∀ (h : Hdr) (rest : List Hdr), ni.bunts = h :: rest →
      (h.kind ≠ 3 → ni.letq.length < 64 → runs (.buntHeaderArrival n) fun u => (u.netIf n).bunts = rest ∧ (u.netIf n).outst = ni.outst
        ∧ (u.netIf n).letq = ni.letq ++ [{ pkg := h.spkg, tile := h.stile, stream := h.stream, seq := h.seq }])
      ∧ (h.kind ≠ 3 → 64 ≤ ni.letq.length → exec (.buntHeaderArrival n) s = .next s)
      ∧ (∀ o : Outst, h.kind = 3 → ni.outst = [o] → o.h.stream = h.stream → o.h.seq = h.seq → o.h.rtag = h.rtag → o.pay.length ≤ 256 →
        runs (.buntHeaderArrival n) fun u => (u.netIf n).bunts = rest ∧ ∃ q, (u.netIf n).outst = [q] ∧ q.h.seq = ni.seqs.at o.h.stream 0 ∧ q.pay = o.pay ∧ q.who = o.who
          ∧ q.h.kind = o.h.kind ∧ q.h.addr = o.h.addr ∧ (u.netIf n).txq = ni.txq ++ [{ h := q.h, pay := q.pay }]))
    ∧ (∀ (q : LetReq) (rest : List LetReq), ni.letq = q :: rest →
      (ni.bucket = 0 → exec (.letSend n) s = .next s)
      ∧ (ni.bucket ≠ 0 → runs (.letSend n) fun u => (u.netIf n).letq = rest ∧ (u.netIf n).bucket = ni.bucket - 1
        ∧ (u.netIf n).lettx = min (ni.lettx + 1) (2 ^ 32 - 1)
        ∧ ∃ p, (u.netIf n).txq = ni.txq ++ [p] ∧ p.pay = [] ∧ p.h.kind = 5 ∧ p.h.dpkg = q.pkg ∧ p.h.dtile = q.tile ∧ p.h.stream = q.stream ∧ p.h.seq = q.seq ∧ p.h.bd = (q.stream == 52 || q.stream == 53)))
    ∧ (let every := max 16 ((ni.nictl.extractLsb 22 11).toNat + 1)
       runs (.letBucketRefill n) fun u => { u.netIf n with bucket := ni.bucket, bucketAt := ni.bucketAt } = ni
         ∧ (u.netIf n).bucket = (if ni.bucketAt + every ≤ s.time then min (ni.bucket + 1) ((ni.nictl.extractLsb 10 5).toNat + 1) else ni.bucket)
         ∧ (u.netIf n).bucketAt = if ni.bucketAt + every ≤ s.time then ni.bucketAt + every else ni.bucketAt)
    ∧ (∀ (h : Hdr) (rest : List Hdr), ni.lets = h :: rest →
      (ni.outst = [] → runs (.letReceive n) fun u => (u.netIf n).lets = rest ∧ (u.netIf n).txq = ni.txq)
      ∧ (∀ o : Outst, ni.outst = [o] → o.h.stream = h.stream → o.h.seq = h.seq → o.h.kind ≠ 0 → runs (.letReceive n) fun u =>
        (u.netIf n).lets = rest ∧ (u.netIf n).txq = ni.txq ++ [{ h := o.h, pay := o.pay }] ∧ (u.netIf n).outst = [{ o with sent := s.time }]
        ∧ (u.netIf n).retx = min (ni.retx + 1) (2 ^ 32 - 1)))
    ∧ (∀ o : Outst, ni.outst = [o] →
      let limit := 2 ^ min 24 (max 16 (ni.nictl.extractLsb 4 0).toNat)
      (∀ t k i, o.busy = none → o.who = .task t k i → o.sent + limit ≤ s.time → runs (.ackTimeout n 0) fun u => (u.netIf n).outst = []
        ∧ (u.tile t).wdone = (s.tile t).wdone ++ [(k, i, ⟨.unknown, []⟩)])
      ∧ (s.time < o.sent + limit → exec (.ackTimeout n 0) s = .next s)
      ∧ (∀ b, o.busy = some b → (∀ t, n = .tile t → (s.tile t).stopAt = none) → b + 256 ≤ s.time → runs (.busyResend n 0) fun u =>
        (u.netIf n).txq = ni.txq ++ [{ h := o.h, pay := o.pay }] ∧ (u.netIf n).outst = [{ o with busy := none, sent := s.time }])
      ∧ (∀ b, o.busy = some b → s.time < b + 256 → exec (.busyResend n 0) s = .next s))

/-! ## Launches (R28, R78, R163, R379, R386, R402, R403, R406 to R428) -/

/-- R379, R386, R387, R402, R403, R406, R413, R415, R417, R428: what the host's requests and packets do: a request enters HQ from phase 5 on and a packet LQ in
phase 6; a packet that a check refuses posts a notice of its status; POST fills the free entry of lowest index, appends it to its predecessors' successors and
answers with its reference; ABORT begins the abort of a running launch, CANCEL takes a waiting entry, PREEMPT asks for the stop of a court, and RESUME brings a
saved court back. A task's packet travels to the dispatcher and its answer comes back by the fabric (log entry 118): a task's packet is answered with its status
and its reference, and the answer goes on to s[d] or is the trap LAUNCH_DENIED. That a refused resume's notice names the first listed launch or 0 (log entry 87) and
that a resumed launch's COURT becomes the resuming court (log entry 90) are the model's readings (DEDUCED). -/
def Obligations.PacketsHandled : Prop :=
  ∀ (s : State),
    let g := s.ngambi
    let runs := fun (i : Instr) (p : State → Prop) => ∃ u, exec i s = .next u ∧ p u
    let notice := fun (n : Notice) (kind status ref court : Nat) (tag : Word) => ∃ w0 w1 w2 w3 : Word, n.w = [w0, w1, w2, w3]
      ∧ w0.extractLsb' 0 8 = BitVec.ofNat 8 kind ∧ w0.extractLsb' 8 8 = BitVec.ofNat 8 status ∧ w0.extractLsb' 16 16 = BitVec.ofNat 16 ref
      ∧ w0.extractLsb' 32 6 = BitVec.ofNat 6 court ∧ w1.extractLsb' 0 32 = tag.extractLsb' 0 32 ∧ w2 = BitVec.ofNat 64 s.time
      ∧ w3.getLsbD 63 = true
    (∀ asid addr n data, s.pkg.phase < 5 ∨ s.pkg.fatal = true → exec (.hostRequest asid addr n data) s = .next s)
    ∧ (∀ asid addr n data, 5 ≤ s.pkg.phase → s.pkg.fatal = false → g.hq = [] → asid < 2048 → 1 ≤ n → addr % 64 + n ≤ 64 →
      (((s.die 0).ni.canSend 53 64 = false) → data = [] → runs (.hostRequest asid addr n data) fun u => MemKept s u ∧ (u.die 0).ni = (s.die 0).ni
        ∧ u.ngambi.hq = [{ asid := asid, addr := addr, wr := false, data := [], n := n }])
      ∧ (∀ p, (s.die 0).ni.canSend 53 64 = true → data = [] → s.translate none asid addr n .read = .ok (.hbm p) → p % 64 + n ≤ 64 →
        runs (.hostRequest asid addr n data) fun u => MemKept s u ∧ ∃ o, (u.die 0).ni.outst = (s.die 0).ni.outst ++ [o] ∧ o.h.kind = 0 ∧ o.h.stream = 53
          ∧ o.h.addr = p ∧ o.h.tgt = 0 ∧ o.h.nbm1 = n - 1 ∧ o.h.dtile = p / 2 ^ 8 % 8 / 2 * 2 ^ 8
          ∧ (u.die 0).ni.txq = (s.die 0).ni.txq ++ [{ h := o.h, pay := [] }]))
    ∧ (∀ ws, s.pkg.phase = 6 → s.pkg.fatal = false → g.lq.length < 64 → runs (.launchPacketArrival ws) fun u =>
        u.ngambi.lq = g.lq ++ [takePad 0 16 ws] ∧ { u with ngambi := g } = s)
    ∧ (∀ ws, s.pkg.phase ≠ 0 → s.pkg.thermtrip = false → s.pkg.phase ≠ 6 ∨ 64 ≤ g.lq.length → exec (.launchPacketArrival ws) s
        = .next { s with ngambi := { g with answers := g.answers ++ [⟨.busy, []⟩] } })
    ∧ (∀ ws, s.pkg.phase = 0 ∨ (s.pkg.thermtrip = true ∧ s.pkg.fatal = true) → exec (.launchPacketArrival ws) s = .next s)
    ∧ (∀ (ws : List Word) (rest : List (List Word)), s.dispQ = [] → g.lq = ws :: rest → s.hostWrites = false →
      let p : PostReq := { from_ := .host, words := ws }
      let w0 := ws.getD 0 0
      let tag := ws.getD 13 0
      let court := (w0.extractLsb 37 32).toNat
      let ref := (ws.getD 2 0).extractLsb 15 0
      let e := ref.toNat % 2 ^ 12
      let event : Instr := match p.kind with | 2 => .abort | 3 => .cancel | 4 => .preempt | 5 => .resume | _ => .post
      (∀ st, s.packetStatus p = st → st ≠ 0 → runs event fun u => MemKept s u ∧ u.entries = s.entries ∧ u.courts = s.courts ∧ u.tiles = s.tiles ∧ u.ngambi.lq = rest
        ∧ ∃ n, u.ngambi.nq = g.nq ++ [n] ∧ notice n 2 st 0 court tag)
      ∧ (∀ f, p.kind = 1 → s.packetStatus p = 0 → s.freeEntry = some f → p.preds.length ≤ 1 →
        let gen := ((s.entry f).gen + 1) % 16
        let live := fun (r : Nat) => (s.entry (r % 2 ^ 12)).gen = r / 2 ^ 12 ∧ (s.entry (r % 2 ^ 12)).st ∈ [1, 2, 3, 4]
        runs .post fun u => MemKept s u ∧ u.ngambi.lq = rest ∧ (∃ n, u.ngambi.nq = g.nq ++ [n] ∧ notice n 1 0 (gen * 2 ^ 12 + f) court tag)
          ∧ (∀ i ∈ [0, 1, 2, 5, 6, 7, 8, 9, 10, 11, 12, 13], (u.entry f).word i = ws.getD i 0)
          ∧ (u.entry f).gen = gen ∧ (u.entry f).eclass = (w0.extractLsb 17 16).toNat ∧ (u.entry f).extcnt = (w0.extractLsb 27 24).toNat
          ∧ (u.entry f).tpost = s.time % 2 ^ 32 ∧ (u.entry f).succ = [] ∧ (u.entry f).cause = 0
          ∧ (∀ r, p.preds = [r] → live r → (u.entry f).predcnt = 1 ∧ (u.entry f).st = 1 ∧ (u.entry (r % 2 ^ 12)).succ = (s.entry (r % 2 ^ 12)).succ ++ [gen * 2 ^ 12 + f])
          ∧ ((∀ r ∈ p.preds, ¬ live r) → (u.entry f).predcnt = 0 ∧ (u.entry f).st = if w0.extractLsb 27 24 = 0#4 then 2 else 1))
      ∧ (p.kind = 2 → s.packetStatus p = 0 → (s.entry e).aborting = false → runs .abort fun u => MemKept s u ∧ u.ngambi.lq = rest
        ∧ (u.entry e).aborting = true ∧ (u.entry e).st = (s.entry e).st ∧ (u.entry e).cause = (s.entry e).cause
        ∧ ∃ n, u.ngambi.nq = g.nq ++ [n] ∧ notice n 1 0 0 court tag)
      ∧ (p.kind = 3 → s.packetStatus p = 0 → (s.entry e).succ = [] → runs .cancel fun u => MemKept s u ∧ u.tiles = s.tiles ∧ u.ngambi.lq = rest ∧ (u.entry e).st = 0
        ∧ ∃ n m, u.ngambi.nq = g.nq ++ [n, m] ∧ notice n 1 0 0 court tag ∧ notice m 5 0 ref.toNat (s.entry e).courtNo ((s.entry e).word 13))
      ∧ (p.kind = 4 → s.packetStatus p = 0 → (s.court court).v = true → (s.court court).st = 1 → (s.court court).stop = none →
        (s.entries.all fun x => !(x.2.aborting && x.2.st == 3 && x.2.courtNo == court)) = true →
        runs .preempt fun u => MemKept s u ∧ u.ngambi.lq = rest ∧ (u.court court).st = 2
          ∧ (u.court court).stop = some { reason := 1, asked := s.time, phase := 2, began := s.time }
          ∧ (∀ t ∈ (s.court court).tiles, (u.tile t).stopAt = some s.time) ∧ ∃ n, u.ngambi.nq = g.nq ++ [n] ∧ notice n 1 0 0 court tag)
      ∧ (p.kind = 5 → s.packetStatus p = 0 →
        let area := ((ws.getD 2 0).extractLsb 38 0).toNat
        let ls := s.areaLaunches area
        let c := s.court court
        (s.resumeOk area court = false → runs .resume fun u => MemKept s u ∧ u.entries = s.entries ∧ u.courts = s.courts ∧ u.tiles = s.tiles ∧ u.ngambi.lq = rest
          ∧ ∃ n m, u.ngambi.nq = g.nq ++ [n, m] ∧ notice n 1 0 0 court tag ∧ notice m 8 0 (match ls with | a :: _ => s.refOf a | [] => 0) court tag)
        ∧ (∀ t, s.resumeOk area court = true → c.tiles = [t] → t < 768 → ls.Nodup → s.mem.wf = true →
          s.liveImages (s.sectionMap (hbmBase + area + 0x10000)) (let o := match ls with | a :: _ => s.court (s.entry a).courtNo | [] => c; tileNo o.stk o.lyr o.orgRow o.orgCol) = [] →
          runs .resume fun u => u.ngambi.lq = rest ∧ (u.court court).st = 1 ∧ (∀ a ∈ ls, (u.entry a).st = 3 ∧ (u.entry a).courtNo = court)
            ∧ (∀ k, k < 2 ^ 22 → u.mem.get (scratchKey t k) = s.mem.get (hbmBase + area + 0x810000 + k))
            ∧ (u.tile t).stopAt = none ∧ u.ngambi.nq.length = g.nq.length + 1 + ls.length)))
    ∧ (∀ (p : PostReq) (rest : List PostReq) (t k : Nat), s.dispQ = p :: rest → g.lq = [] → p.from_ = .task t k → p.kind = 1 →
      (p.came = s.time → ∀ e ∈ s.entries, e.2.st ≠ 3) →
      let told := fun (u : State) (st ref : Nat) => MemKept s u ∧ u.dispQ = rest ∧ u.tiles = s.tiles ∧ ∃ q, (u.die 0).ni.txq = (s.die 0).ni.txq ++ [q]
        ∧ q.h.isPostRsp = true ∧ q.h.dpkg = s.pkg.pkgid.toNat ∧ q.h.dtile = tileBits t ∧ q.h.tslot = k ∧ q.pay.length = 16
        ∧ payWord (q.pay.take 8) = st ∧ payWord (q.pay.drop 8) = ref
      (∀ st, s.packetStatus p = st → st ≠ 0 → runs .post fun u => told u st 0 ∧ u.entries = s.entries)
      ∧ (∀ f, s.packetStatus p = 0 → s.freeEntry = some f → runs .post fun u => told u 0 (((s.entry f).gen + 1) % 16 * 2 ^ 12 + f)))
    ∧ (∀ (q : Packet) (vc key : Nat) (bs : List MByte), vc < 16 → (s.die 0).ni.txq = [] → s.offers (.die 0) 27 = [(vc, key, .body bs true)] → (s.die 0).ni.rx.look vc = some q →
      q.h.isPost = true → s.dispQ = [] → runs (.flitSend (.die 0) 27) fun u => MemKept s u ∧ u.tiles = s.tiles ∧ (u.die 0).ni.rx.look vc = none
        ∧ ∃ p, u.dispQ = [p] ∧ p.from_ = .task (tileOfBits q.h.stile) q.h.tslot ∧ p.came = s.time ∧ p.poi = (q.pay ++ bs).any (·.poi)
          ∧ ∀ i, i < 16 → p.words.getD i 0 = BitVec.ofNat 64 (payWord (((q.pay ++ bs).drop (8 * i)).take 8)))
    ∧ (∀ (t k d : Nat) (v : Word) (ws : List PWord) (ti : TaskInfo) (q : Packet) (vc key : Nat) (bs : List MByte), t < 768 → vc < 16 → (s.tile t).ni.txq = [] →
      s.takesFlit (.tile t) 6 = true → s.offers (.tile t) 6 = [(vc, key, .body bs true)] → (s.tile t).ni.rx.look vc = some q → q.h.isPostRsp = true → q.h.tslot = k → k < 16 →
      (s.slot t k).task = some ti → ti.hold = .launch d v ws → ti.halted = false → d < 64 → d ≠ 0 → (s.slot t k).rf.loopEnd.pc ≠ 0x40000#32 →
      let st := payWord ((q.pay ++ bs).take 8)
      let ref := payWord (((q.pay ++ bs).drop 8).take 8)
      (st ≠ 4 → runs (.flitSend (.tile t) 6) fun u => MemKept s u ∧ (u.tile t).ni.rx.look vc = none ∧ (u.slot t k).rf.pc = (s.slot t k).rf.loopEnd.pc
        ∧ (u.slot t k).rf.get d = { val := if st = 0 then BitVec.ofNat 64 ref else BitVec.ofNat 64 (2 ^ 63 + st) })
      ∧ (st = 4 → (s.slot t k).accs.all (fun a => a.kind == .packet && a.window) = true → ti.scan = none → runs (.flitSend (.tile t) 6) fun u =>
        (u.slot t k).sr.tcause = 22#8 ∧ (u.slot t k).sr.tval = v ∧ (u.slot t k).sr.tepc = (s.slot t k).rf.pc ∧ (u.slot t k).rf = ((s.slot t k).drain).rf))

/-- R27, R28, R78, R386, R419 to R425, R427, R428, R435, R436: an interval boundary dispatches a READY entry whose resources are free, places its court, ends
one without images, refuses one that its court's grant denies, and ages one that it passes over (that LAUNCH_DENIED posts no fault record and that ASID is written
on every tile of the court are the model's readings: DEDUCED, log entry 44); the header and the bytes of an image are read, checked and
placed; the tasks of a launch start together with the values of R78; and a launch ends, or its abort does, with its notice and its successors released. -/
def Obligations.LaunchesRun : Prop :=
  ∀ (s : State) (e : Nat), e < 4096 →
    let en := s.entry e
    let n := en.courtNo
    let c := s.court n
    let b := (s.boundary + 1) * 5000
    let h := fun (i : Nat) => (en.imgs.at i {}).hdr
    let runs := fun (i : Instr) (p : State → Prop) => ∃ u, exec i s = .next u ∧ p u
    let noticed := fun (u : State) (kind status : Nat) => ∃ w, u.ngambi.nq = s.ngambi.nq ++ [w]
      ∧ ((w.w.getD 0 0).extractLsb' 0 8).toNat = kind ∧ ((w.w.getD 0 0).extractLsb' 8 8).toNat = status ∧ ((w.w.getD 0 0).extractLsb' 16 16).toNat = s.refOf e % 2 ^ 16
    (s.time / 5000 ≤ s.boundary → exec .intervalBoundary s = .next s)
    ∧ (s.boundary < s.time / 5000 → s.entries = [(e, en)] → s.courts = [(n, c)] → en.st = 2 → en.readyAt < b → en.eclass < 4 → c.st = 0 → c.stop = none →
      (∀ i, i < en.nimg → ∃ q, en.imgs.look i = some q ∧ q.ok = true ∧ q.cause = 0 ∧ q.readAt < b) →
      let denied := c.denies (en.word 0) (en.word 1)
      (en.nimg = 0 → denied = false → en.succ = [] → (en.word 0).getLsbD 20 = true → runs .intervalBoundary fun u =>
        MemKept s u ∧ u.boundary = s.boundary + 1 ∧ u.clsPtr.at en.eclass 0 = (e + 1) % 4096 ∧ (u.entry e).st = 0 ∧ noticed u 3 (en.cause % 256) ∧ u.courts = s.courts)
      ∧ (en.nimg = 0 → denied = true → en.succ = [] → en.cause = 0 → runs .intervalBoundary fun u =>
        MemKept s u ∧ u.clsPtr = s.clsPtr ∧ (u.entry e).st = 0 ∧ noticed u 4 cLaunchDenied.toNat ∧ u.courts = s.courts)
      ∧ (∀ l, 0 < en.nimg → denied = false → s.placeable n = true → s.roomForAll en = some l → runs .intervalBoundary fun u =>
        MemKept s u ∧ (u.entry e).st = 3 ∧ (u.entry e).placed = l ∧ (u.entry e).started = false ∧ (u.court n).st = 1 ∧ (u.court n).curasid = en.asid
        ∧ (∀ t ∈ c.tiles, (u.tile t).reg.asid = BitVec.ofNat 11 en.asid ∧ (u.tile t).reg.grant = BitVec.ofNat 25 c.grant)
        ∧ u.clsPtr.at en.eclass 0 = (e + 1) % 4096)
      ∧ (0 < en.nimg → s.placeable n = false → en.eclass ≠ 0 → runs .intervalBoundary fun u => MemKept s u ∧ u.tiles = s.tiles ∧ u.courts = s.courts
        ∧ u.entry e = if en.age + 1 < s.agelim then { en with age := en.age + 1 } else { en with age := 0, eclass := if 2 ≤ en.eclass then en.eclass - 1 else en.eclass }))
    ∧ (∀ (i : Nat) (s1 : State) (bs : List MByte), i < 4 → en.st = 2 → i < en.nimg → en.imgs.look i = none →
      s.dispRead c en.asid 64 (en.imgAddr i) 64 = (s1, .done bs) →
      let ws := wordsOf (bs.map (·.val)) 8
      runs (.imageHeaderRead e i) fun u => ∃ q, (u.entry e).imgs.look i = some q ∧ q.hdr = ws ∧ q.readAt = s.time ∧ (u.entry e).st = 2
        ∧ (imgHeaderOk ws = true → q.ok = true ∧ q.cause = 0) ∧ (imgHeaderOk ws = false → q.ok = false ∧ q.cause = cConfig.toNat))
    ∧ (∀ (i t k base spill : Nat) (s1 : State) (bs : List MByte), i < 4 → en.st = 3 → en.started = false → en.aborting = false → i < en.nimg →
      (en.imgs.at i {}).placed = false → s.dispRead c en.asid (imgSize (h i)) (en.imgAddr i) (imgSize (h i)) = (s1, .done bs) →
      let at_ := fun (k : Nat) => (bs.getD k {}).val
      (en.placed = [{ tile := t, slot := k, img := i, base := base, spill := spill }] → bs.length = imgSize (h i) → wordsOf (bs.map (·.val)) 8 = h i →
        imgHeaderOk (h i) = true → imgWholeOk (h i) (bs.map (·.val)) = true → t < 768 → base + imgStore (h i) ≤ 2 ^ 18 → s1.mem.wf = true →
        runs (.imageReadComplete e i) fun u => ((u.entry e).imgs.at i {}).placed = true ∧ (u.entry e).st = 3
          ∧ (∀ j, j < imgCode (h i) → u.mem.get (istoreKey t (base + j)) = at_ (64 + j))
          ∧ (∀ j, j < imgDataSz (h i) → u.mem.get (scratchKey t (imgDataOff (h i) + j)) = at_ (64 + imgStore (h i) + j)))
      ∧ (wordsOf (bs.map (·.val)) 8 ≠ h i ∨ imgWholeOk (h i) (bs.map (·.val)) = false → (s1.entry e) = en → en.succ = [] → en.cause = 0 →
        runs (.imageReadComplete e i) fun u => (u.entry e).st = 0 ∧ (u.entry e).placed = []))
    ∧ (∀ p : Placed, en.st = 3 → en.started = false → en.aborting = false → (∀ i, i < en.nimg → (en.imgs.at i {}).placed = true) → en.placed = [p] → p.slot < 16 →
      runs (.taskStart e) fun u =>
        let x := u.slot p.tile p.slot
        MemKept s u ∧ (u.entry e).started = true ∧ (u.entry e).live = 1 ∧ OtherThan s u p.tile p.slot
        ∧ x.rf.pc = BitVec.ofNat 32 (p.base + imgEntry (h p.img))
        ∧ (∀ r, r < 64 → x.rf.get r = { val := if r = 1 then ((en.word 2).extractLsb 55 0).setWidth 64
            else if r = 2 then BitVec.ofNat 64 ((tileRow p.tile - c.orgRow) * 256 + (tileCol p.tile - c.orgCol)) else if r = 3 then BitVec.ofNat 64 p.slot else 0 })
        ∧ (∀ q, q < 8 → x.rf.pred q = decide (q = 0)) ∧ x.sr.priv = (en.word 0).getLsbD 18 ∧ x.sr.prio = BitVec.ofNat 2 (imgPrio (h p.img))
        ∧ x.sr.spBase = BitVec.ofNat 16 p.spill ∧ x.sr.spSize = BitVec.ofNat 16 (imgSpill (h p.img)) ∧ x.accs = [] ∧ x.infl = []
        ∧ ∃ ti, x.task = some ti ∧ ti.entry = e ∧ ti.img = p.img)
    ∧ (en.st = 3 → en.started = true → en.live = 0 → en.aborting = false → s.engineDone e = true → (en.word 0).getLsbD 20 = true →
      runs (.launchEnd e) fun u => MemKept s u ∧ u.tiles = s.tiles ∧ noticed u 3 (en.cause % 256)
        ∧ (∀ r, en.succ = [r] → r % 2 ^ 12 ≠ e → (s.entry (r % 2 ^ 12)).st = 1 → (s.entry (r % 2 ^ 12)).gen = r / 2 ^ 12 → 1 ≤ (s.entry (r % 2 ^ 12)).predcnt →
            (u.entry (r % 2 ^ 12)).predcnt = (s.entry (r % 2 ^ 12)).predcnt - 1 ∧ (u.entry (r % 2 ^ 12)).st
              = if (s.entry (r % 2 ^ 12)).predcnt = 1 ∧ (s.entry (r % 2 ^ 12)).extcnt = 0 then 2 else 1)
        ∧ (u.entry e).st = 0)
    ∧ (en.st = 3 → en.aborting = true → en.succ = [] → (en.tiles.all fun t => (s.tile t).abortQuiet e) = true → runs (.launchAbort e) fun u =>
        MemKept s u ∧ (u.entry e).st = 0 ∧ noticed u 4 (en.cause % 256)
        ∧ (∀ t ∈ en.tiles, ∀ k ti, (s.slot t k).task = some ti → ti.entry = e → (u.slot t k).task = none))

/-! ## Courts: the stop, the save and the release (R387 to R391, R394, R396, R401), and the commands of the court command interface (R429 to R439, R444) -/

/-- R387, R388, R390, R396, R401, R417, R428, R436: a request for the pre-emption of a placed court stops its tiles in the same cycle; a whistle that has not come 16,384
collar cycles after the stop is replaced by a halt; once every tile is quiet the save area is written, with V and the next number of saves; a save area
that passes the end of HBM aborts the court's launches; and the release of a saved court makes its launches SAVED, frees its tiles and unplaces it, CURASID with
them. That the whole save area is written in one event (log entry 47) and that the first save has the number 1 (log entry 90) are the model's readings (DEDUCED). -/
def Obligations.CourtStops : Prop :=
  ∀ (s : State) (n : Nat), n < 64 →
    let c := s.court n
    let runs := fun (i : Instr) (p : State → Prop) => ∃ u, exec i s = .next u ∧ p u
    (∀ reason, reason < 4 → c.v = true → c.st = 1 → c.stop = none → (s.entries.all fun x => !(x.2.aborting && x.2.st == 3 && x.2.courtNo == n)) = true →
      runs (.preemptRequest n reason) fun u => MemKept s u ∧ u.entries = s.entries ∧ (u.court n).st = 2 ∧ (∀ m, m ≠ n → u.court m = s.court m)
        ∧ (u.court n).stop = some { reason := reason, asked := s.time, phase := 2, began := s.time }
        ∧ (∀ t ∈ c.tiles, (u.tile t).stopAt = some s.time ∧ (u.tile t).stopCyc = (s.tile t).cyc 1 s.time ∧ (∀ r, (u.tile t).col.rally = some r → r.drain = true)
          ∧ ∀ k, (u.slot t k).task = (s.slot t k).task ∧ (u.slot t k).rf = (s.slot t k).rf)
        ∧ ∀ t, t ∉ c.tiles → u.tile t = s.tile t)
    ∧ (∀ reason, c.st ≠ 1 → c.stop = none → exec (.preemptRequest n reason) s = .next s)
    ∧ (∀ t t0 r, t < 768 →
      let cycles := (s.tile t).cyc 1 s.time
      (s.tile t).stopAt = some t0 → (s.tile t).col.rally = some r → r.saved = false → r.whistle = none →
      ((s.tile t).stopCyc + 16384 ≤ cycles → runs (.drainTimeout t) fun u => OnlyTile s u t ∧ (u.tile t).col = { (s.tile t).col with rally := some { r with halt := true } })
      ∧ (cycles < (s.tile t).stopCyc + 16384 → exec (.drainTimeout t) s = .next s))
    ∧ (s.courtQuiet n = false → exec (.scanOut n) s = .next s)
    ∧ (∀ p, c.stop = some p → s.courtQuiet n = true →
      let a := hbmBase + c.saveAt
      (c.saveAt + c.areaLen ≤ 2 ^ 39 → s.mem.wf = true → (s.courtLaunches n).length ≤ 256 → runs (.scanOut n) fun u =>
        (u.court n).stop = some { p with phase := 3 } ∧ (u.court n).sseq = (c.sseq + 1) % 2 ^ 32 ∧ u.entries = s.entries
        ∧ u.mem.readN a 8 = 2 ^ 32 + 0x4B573953 ∧ u.mem.readN (a + 16) 8 = (s.courtLaunches n).length % 256 * 2 ^ 16 + p.reason % 256
        ∧ u.mem.readN (a + 24) 8 = p.began % 2 ^ 64 ∧ u.mem.readN (a + 56) 8 = 2 ^ 63 + (c.sseq + 1) % 2 ^ 32
        ∧ (∀ i e, (s.courtLaunches n)[i]? = some e → u.mem.readN (a + 128 + 8 * i) 8 = (2 ^ 63 + e) % 2 ^ 64)
        ∧ ∀ k, k < a → u.mem.get k = s.mem.get k)
      ∧ (2 ^ 39 < c.saveAt + c.areaLen → runs (.scanOut n) fun u => MemKept s u ∧ (u.court n).stop = some { p with phase := 4 }
        ∧ ∀ e ∈ s.courtLaunches n, (u.entry e).aborting = true ∧ (u.entry e).cause = if (s.entry e).cause = 0 then cRemoteFail.toNat else (s.entry e).cause))
    ∧ (∀ p, c.stop = some p → s.courts = [(n, c)] →
      (p.phase = 3 → (s.courtLaunches n).Nodup → runs .preemptRelease fun u => MemKept s u ∧ (u.court n).st = 3 ∧ (u.court n).stop = none ∧ (u.court n).curasid = 0
        ∧ (∀ e ∈ s.courtLaunches n, (u.entry e).st = 4) ∧ u.ngambi.nq.length = s.ngambi.nq.length + (s.courtLaunches n).length
        ∧ ∀ t ∈ c.tiles, (u.tile t).reg.court = 0 ∧ (u.tile t).reg.grant = 0 ∧ (u.tile t).stopAt = none ∧ (u.tile t).colq = [] ∧ (u.tile t).cpyq = []
          ∧ ∀ k, (u.slot t k).task = none)
      ∧ (p.phase = 2 → exec .preemptRelease s = .next s))

/-- R429 to R434, R437 to R439, R444: the command in execution acts and reports its status: CREATE writes an entry from the staging words and loads the quota, or
is refused STATE, FIELD or LIMIT; DESTROY clears V; GRANT writes word 1 and the tiles of a placed court; COURT_PREEMPT asks for the stop; RWRITE writes an entry
of a range table; ATTEST writes a report that begins with its header and the nonce; and a ring's tail takes a value in order. The model's readings (DEDUCED): RWRITE is
refused STATE for the old entry too, and before FIELD (log entry 54); ATTEST's FIELD refusals (log entry 55); GRANT's STATE and FIELD refusals, and DESTROY of an
invalid court, which reports OK (log entry 56). -/
def Obligations.CourtCommands : Prop :=
  ∀ (s : State),
    let q := s.cport
    let n := (q.cmd.extractLsb 9 4).toNat
    let c := s.court n
    let runs := fun (i : Instr) (p : State → Prop) => ∃ u, exec i s = .next u ∧ p u
    let ends := fun (st : Nat) (u : State) => u.cport = { q with busy := false, status := st }
    let refused := fun (i : Instr) (st : Nat) => exec i s = .next { s with cport := { q with busy := false, status := st } }
    let on := fun (op : Nat) => q.busy = true ∧ q.cmd.extractLsb 3 0 = BitVec.ofNat 4 op
    (q.busy = false → ∀ i ∈ [Instr.create, .destroy, .grant, .courtPreempt, .rwrite, .attest], exec i s = .next s)
    ∧ (on 1 →
      let new : Court := { w := (List.range 9).map fun i => (i, q.copy.at i 0) }
      (c.v = true → refused .create 2)
      ∧ (c.v = false → new.badField = true → refused .create 4)
      ∧ (c.v = false → 5 < new.orgRow + new.rowsM1 ∨ 7 < new.orgCol + new.colsM1 → refused .create 4)
      ∧ (c.v = false → new.badField = false → new.badLimit = true → refused .create 5)
      ∧ (c.v = false → new.badField = false → new.badLimit = false → runs .create fun u => ends 0 u ∧ MemKept s u ∧ u.tiles = s.tiles
        ∧ (∀ m, m ≠ n → u.court m = s.court m) ∧ (u.court n).v = true ∧ (u.court n).st = 0 ∧ (u.court n).w = new.w ∧ (u.court n).eqrem = new.equota * 1000
        ∧ (u.court n).ex = false ∧ (u.court n).lastE = c.lastE
        ∧ (u.court n).unpl = !new.fits s.roles.roles.toNat))
    ∧ (on 2 →
      (c.st ≠ 0 → refused .destroy 2)
      ∧ (∀ e ∈ s.entries, 1 ≤ e.2.st → e.2.st ≤ 4 → e.2.courtNo = n → refused .destroy 2)
      ∧ (c.st = 0 → (∀ e ∈ s.entries, 1 ≤ e.2.st → e.2.st ≤ 4 → e.2.courtNo ≠ n) →
        exec .destroy s = .next { s with courts := s.courts.put n { c with v := false }, cport := { q with busy := false, status := 0 } }))
    ∧ (on 3 →
      let w := q.copy.at 1 0
      (c.v = false → refused .grant 2)
      ∧ (c.v = true → w.extractLsb 31 25 ≠ 0#7 → refused .grant 4)
      ∧ (c.v = true → w.extractLsb 31 25 = 0#7 → c.badLock (w.extractLsb 24 0).toNat = true → refused .grant 5)
      ∧ (c.v = true → w.extractLsb 31 25 = 0#7 → c.badLock (w.extractLsb 24 0).toNat = false → runs .grant fun u => ends 0 u ∧ MemKept s u
        ∧ (u.court n).word 1 = w ∧ (u.court n).eqrem = (w.extractLsb 63 32).toNat * 1000 ∧ (u.court n).ex = false ∧ (u.court n).st = c.st
        ∧ ∀ t ∈ c.tiles, (c.st = 1 → (u.tile t).reg.grant = w.extractLsb 24 0) ∧ (c.st = 0 → u.tile t = s.tile t)))
    ∧ (on 4 → c.v = true → c.st = 1 → c.stop = none → (s.entries.all fun x => !(x.2.aborting && x.2.st == 3 && x.2.courtNo == n)) = true →
      runs .courtPreempt fun u => ends 0 u ∧ MemKept s u ∧ (u.court n).st = 2
        ∧ (u.court n).stop = some { reason := 2, asked := s.time, phase := 2, began := s.time } ∧ ∀ t ∈ c.tiles, (u.tile t).stopAt = some s.time)
    ∧ (on 5 →
      let a := (q.cmd.extractLsb 20 10).toNat
      let i := (q.cmd.extractLsb 26 21).toNat
      let e := q.copy.at 3 0 ++ q.copy.at 2 0 ++ q.copy.at 1 0 ++ q.copy.at 0 0
      let layer := fun (x : BitVec 256) => x.getLsbD 63 = true ∧ rgTgt x = 3 ∧ rgTstk x = s.roles.rstk
      (s.roles.closing = true → layer e ∨ layer (s.range a i) → refused .rwrite 2)
      ∧ (s.roles.closing = false → e.getLsbD 63 = true → rgBase e % 64 ≠ 0 ∨ rgLen e % 64 ≠ 0 ∨ rgLen e = 0 ∨ 2 ^ 56 < rgBase e + rgLen e → refused .rwrite 4)
      ∧ (s.roles.closing = false → e.getLsbD 63 = true → rgBase e % 64 = 0 → rgLen e % 64 = 0 → 0 < rgLen e → rgBase e + rgLen e ≤ 2 ^ 56 →
        (∃ j, j < 64 ∧ j ≠ i ∧ rgV (s.range a j) = true ∧ rgBase e < rgBase (s.range a j) + rgLen (s.range a j) ∧ rgBase (s.range a j) < rgBase e + rgLen e) →
        refused .rwrite 3)
      ∧ (s.roles.closing = false → e.getLsbD 63 = true → s.rangeRefused a i e = none → (s.range a i).getLsbD 63 = false → runs .rwrite fun u =>
        ends 0 u ∧ MemKept s u ∧ u.range a i = e ∧ ∀ b j, j < 64 → ¬(b = a ∧ j = i) → u.range b j = s.range b j)
      ∧ (s.roles.closing = false → e.getLsbD 63 = false → (s.range a i).getLsbD 63 = true → rgMig (s.range a i) = false → Rising s.ranges → runs .rwrite fun u =>
        ends 0 u ∧ MemKept s u ∧ rgV (u.range a i) = false ∧ ∀ b j, j < 64 → ¬(b = a ∧ j = i) → u.range b j = s.range b j))
    ∧ (on 6 →
      let nonce := (q.copy.at 0 0).toNat
      let at_ := (q.copy.at 1 0).toNat
      (c.v = false → refused .attest 2)
      ∧ (c.v = true → at_ % 64 ≠ 0 ∨ 2 ^ 39 < at_ + 0x1C0 + 4627 → refused .attest 4)
      ∧ (c.v = true → at_ % 64 = 0 → at_ + 0x1C0 + 4627 ≤ 2 ^ 39 → nonce + 64 ≤ 2 ^ 39 → s.mem.wf = true → runs .attest fun u => ends 0 u ∧ u.tiles = s.tiles
        ∧ u.pkg = { s.pkg with reports := s.pkg.reports + 1 }
        ∧ (∀ j, j < 96 → u.mem.get (hbmBase + at_ + j) = (toBytes 8 0x14B573941 ++ toBytes 8 s.pkg.reports ++ toBytes 8 s.time ++ toBytes 8 (s.pkg.pkgid.toNat + n * 2 ^ 16)
            ++ (List.range 64).map fun i => s.mem.get (hbmBase + nonce + i)).getD j 0)
        ∧ ∀ k, k < hbmBase + at_ ∨ hbmBase + at_ + 0x1C0 + 4627 ≤ k → u.mem.get k = s.mem.get k))
    ∧ (∀ (m : Nat) (v : BitVec 32), m < 64 →
      let o := s.court m
      let order := fun (head : Nat) (lg : Nat) => (head + 2 ^ 32 - v.toNat) % 2 ^ 32 ≤ 2 ^ lg
      (order o.frhead ((o.word 4).extractLsb 4 0).toNat → exec (.ringTailWrite m false v) s = .next { s with courts := s.courts.put m { o with frtail := v.toNat } })
      ∧ (order o.dlhead ((o.word 5).extractLsb 4 0).toNat → exec (.ringTailWrite m true v) s = .next { s with courts := s.courts.put m { o with dltail := v.toNat } })
      ∧ (¬ order o.frhead ((o.word 4).extractLsb 4 0).toNat → ∃ u, exec (.ringTailWrite m false v) s = .next u ∧ ∀ j, u.court j = s.court j))

/-! ## Layer roles, power, and writes from outside the tiles (R2, R15, R16, R54, R104, R139, R149, R152, R441, R442, R456, R458, R459) -/

/-- R15, R441, R442: a step of a role change acts only while it runs, and ends with BUSY clear: DRAIN refuses a value that R16 or the pattern table does not permit and
otherwise closes the layer and ends when no affected court is placed; FLUSH copies write-back layer memory to its backing address; GATE writes LYEN and zeroes the
scratchpads of the tiles whose role changes, whatever the roles are, and of the memory layers; ENUM writes ROLES, LMSIZE and UNPL; CHECK compares the power-good
inputs; RELEASE and ABORT open the layer again, and an ABORT after FLUSH loses the layer memory that no write-back range holds. The model's readings: a flush that
passes the end of HBM fails, and POWER leaves RDONE (DEDUCED, log entry 58); RSTK and ROLES stand as they do at each step (DEDUCED, log entry 57); what an ABORT
loses reads as memory that nothing has written (DESIGN CHOICE, log entry 119). -/
def Obligations.RoleSteps : Prop :=
  ∀ (s : State),
    let r := s.roles
    let new := setRole r.roles.toNat r.rstk r.rlyr r.rrole
    let runs := fun (i : Instr) (p : State → Prop) => ∃ u, exec i s = .next u ∧ p u
    let at_ := fun (n : Nat) => s.held = false ∧ r.busy = true ∧ r.step = n
    (∀ pg, r.busy = false ∨ s.held = true → ∀ i ∈ [Instr.roleDrain, .roleFlush, .roleGate, .roleEnum, .roleCheck pg, .roleRelease, .roleAbort], exec i s = .next s)
    ∧ (at_ 1 → s.pkg.phase ≠ 5 →
      (r.closing = false → r.permits new = false → exec .roleDrain s = .next { s with roles := { r with busy := false, rstat := 1 } })
      ∧ (r.closing = false → r.permits new = true → runs .roleDrain fun u => MemKept s u ∧ u.entries = s.entries
        ∧ u.roles = { r with closing := true, newRoles := BitVec.ofNat 32 new }
        ∧ ∀ n ∈ s.courtNos, (s.court n).v = true → (s.court n).st = 1 → (s.court n).stop = none → (s.court n).touchedBy r.rstk r.rlyr = true →
            ∃ p, (u.court n).stop = some p ∧ p.reason = 3)
      ∧ (r.closing = true → s.roleCourts = [] → exec .roleDrain s = .next { s with roles := { r with busy := false, rdone := 1, rstat := 0 } }))
    ∧ (at_ 2 →
      ((∀ q ∈ s.ranges, ¬(rgV q.2 = true ∧ rgTgt q.2 = 3 ∧ rgTstk q.2 = r.rstk ∧ rgWb q.2 = true)) →
        exec .roleFlush s = .next { s with roles := { r with busy := false, rdone := 2, rstat := 0 } })
      ∧ (∀ k e t o, s.ranges = [(k, e)] → rgV e = true → rgTgt e = 3 → rgTstk e = r.rstk → rgWb e = true → 0 < rgLen e → rgToff e % 4096 + rgLen e ≤ 4096 →
        s.layerAt r.rstk (rgToff e) = some (t, o) → t < 768 → s.soft = [] → s.hard = [] → s.mem.wf = true →
        (2 ^ 39 < rgWbaddr e + rgLen e → exec .roleFlush s = .next { s with roles := { r with busy := false, rstat := 3 } })
        ∧ (rgWbaddr e + rgLen e ≤ 2 ^ 39 → runs .roleFlush fun u =>
          u.roles = { r with busy := false, rdone := 2, rstat := 0 } ∧ u.tiles = s.tiles
          ∧ (∀ i, i < rgLen e → u.mem.get (hbmBase + rgWbaddr e + i) = s.mem.get (scratchKey t o + i))
          ∧ ∀ a, a < hbmBase + rgWbaddr e ∨ hbmBase + rgWbaddr e + rgLen e ≤ a → u.mem.get a = s.mem.get a)))
    ∧ (at_ 3 → runs .roleGate fun u =>
        let was := fun (t : Nat) => roleIn r.roles.toNat (tileStk t) (tileLyr t)
        let is := fun (t : Nat) => roleIn r.newRoles.toNat (tileStk t) (tileLyr t)
        u.roles = { r with busy := false, rdone := 3, rstat := 0 }
        ∧ (∀ y, y < 16 → u.pkg.lyen.getLsbD y = decide (roleIn r.newRoles.toNat (y / 4) (y % 4) ≠ 0))
        ∧ (∀ t k, t < 768 → k < 2 ^ 22 → was t ≠ is t ∨ (tileStk t = r.rstk ∧ was t = 2) → s.mem.wf = true → u.mem.get (scratchKey t k) = 0
            ∧ u.marks.contains (scratchKey t k) = false)
        ∧ (∀ t k, t < 768 → k < 2 ^ 22 → was t = is t → ¬(tileStk t = r.rstk ∧ was t = 2) → s.mem.wf = true → u.mem.get (scratchKey t k) = s.mem.get (scratchKey t k))
        ∧ (∀ a, a < scratchBase → s.mem.wf = true → u.mem.get a = s.mem.get a)
        ∧ (∀ t, t < 768 → was t = is t → u.tile t = s.tile t)
        ∧ ∀ t, t < 768 → was t ≠ is t → (u.tile t).reg = {} ∧ (u.tile t).slots = [] ∧ (u.tile t).col = {} ∧ (u.tile t).ni.seqs = (s.tile t).ni.seqs)
    ∧ (at_ 4 → runs .roleEnum fun u => MemKept s u ∧ u.tiles = s.tiles ∧ u.roles.roles = r.newRoles ∧ u.roles.busy = false ∧ u.roles.rdone = 4 ∧ u.roles.closing = r.closing
        ∧ (∀ k, k < 4 → u.roles.lmsize.at k 0 = 48 * ((List.range 4).filter fun y => roleIn r.newRoles.toNat k y == 2).length)
        ∧ ∀ n, n < 64 → u.court n = { s.court n with unpl := !(s.court n).fits r.newRoles.toNat })
    ∧ (∀ pg : BitVec 16, at_ 5 →
      let good := ∀ y, y < 16 → pg.getLsbD y = decide (roleIn r.roles.toNat (y / 4) (y % 4) ≠ 0)
      (good → exec (.roleCheck pg) s = .next { s with roles := { r with busy := false, rdone := 5, rstat := 0 } })
      ∧ (¬ good → runs (.roleCheck pg) fun u => u.roles.busy = false ∧ u.roles.rstat = 4 ∧ u.roles.rdone = r.rdone
        ∧ ∀ y, y < 16 → pg.getLsbD y ≠ decide (roleIn r.roles.toNat (y / 4) (y % 4) ≠ 0) →
            roleIn u.roles.roles.toNat (y / 4) (y % 4) = 0 ∧ u.pkg.lyen.getLsbD y = false))
    ∧ (at_ 6 → exec .roleRelease s = .next { s with roles := { r with busy := false, rdone := 6, rstat := 0, closing := false } })
    ∧ (at_ 7 →
      let opened := { r with busy := false, closing := false, rstat := 0 }
      let memory := fun (t : Nat) => tileStk t = r.rstk ∧ roleIn r.roles.toNat (tileStk t) (tileLyr t) = 2
      (r.rdone ≠ 2 → exec .roleAbort s = .next { s with roles := opened })
      ∧ (r.rdone = 2 → s.mem.wf = true → runs .roleAbort fun u => u.roles = opened ∧ u.tiles = s.tiles
        ∧ (∀ k, (∀ t o, t < 768 → o < 2 ^ 22 → memory t → k ≠ scratchKey t o) → u.mem.get k = s.mem.get k)
        ∧ ((∀ q ∈ s.ranges, ¬(rgV q.2 = true ∧ rgTgt q.2 = 3 ∧ rgTstk q.2 = r.rstk ∧ rgWb q.2 = true)) → ∀ t o, t < 768 → o < 2 ^ 22 → memory t → u.mem.get (scratchKey t o) = 0)
        ∧ (∀ i e t o j, (i, e) ∈ s.ranges → rgV e = true → rgTgt e = 3 → rgTstk e = r.rstk → rgWb e = true → rgToff e % 4096 + rgLen e ≤ 4096 →
          s.layerAt r.rstk (rgToff e) = some (t, o) → t < 768 → j < rgLen e → u.mem.get (scratchKey t o + j) = s.mem.get (scratchKey t o + j))))

/-- R54, R104, R139: a word that is no instruction traps ILLEGAL with the word as TVAL, whatever its guard bits say. R152: an error strikes the word of 8 bytes at its
place, and no byte changes: a word with a single-bit error is corrected and counted by the next read of its memory, the array's and ACCR's of the enabled columns of a
row of the accumulator memory too, and a word of the accumulator memory with an uncorrectable one is poisoned at once (that a single-bit error stands until the next
read is the model's reading: DEDUCED, log entry 67). That a PC past the store traps RANGE is the model's choice (DESIGN CHOICE, log entry 97). R456, R458, R459: at a multiple of 2,500 cycles the
controller steps a placed court's meter levels by the energy measured against its grant, and takes it from the quota. -/
def Obligations.OutsideEvents : Prop :=
  ∀ (s : State),
    let runs := fun (i : Instr) (p : State → Prop) => ∃ u, exec i s = .next u ∧ p u
    (∀ w : BitVec 32, MayIssue s → s.cur.rf.pc.toNat ≤ 0x3FFFC → s.hard.contains (istoreKey s.focusT (s.cur.rf.pc.toNat / 8 * 8)) = false →
      exec (.illegal w) s = .next (Traps s cIllegal (w.setWidth 64) s.cur.rf.pc))
    ∧ (∀ w : BitVec 32, MayIssue s → 0x3FFFC < s.cur.rf.pc.toNat → exec (.illegal w) s = .next (Traps s cRange (s.cur.rf.pc.setWidth 64) s.cur.rf.pc))
    ∧ (∀ (t w : Nat) (p : ErrPlace) (key : Nat), t < 768 →
      (p = .spill t w ∧ w < 8192 ∧ key = spillKey t (8 * w)) ∨ (p = .scratch t w ∧ w < 524288 ∧ key = scratchKey t (8 * w))
        ∨ (p = .istore t w ∧ w < 32768 ∧ key = istoreKey t (8 * w)) ∨ (p = .ctx t w ∧ w < 32768 ∧ key = ctxKey t (8 * w)) →
      (runs (.softError p true) fun u => MemKept s u ∧ u.hard.contains key = true ∧ (s.soft.Pairwise (· < ·) → u.soft.contains key = false) ∧ u.tiles = s.tiles)
      ∧ (s.hard.contains key = false → runs (.softError p false) fun u => MemKept s u ∧ u.hard = s.hard ∧ u.soft.contains key = true ∧ u.tiles = s.tiles)
      ∧ (s.hard.contains key = true → exec (.softError p false) s = .next s))
    ∧ (∀ t w, t < 768 → w < 131072 →
      (runs (.softError (.acc t w) false) fun u => OnlyTile s u t ∧ (u.tile t).col.arr.acc = (s.tile t).col.arr.acc ∧ (u.tile t).col.arr.accBad = (s.tile t).col.arr.accBad
        ∧ ((s.tile t).col.arr.accBad.contains w = false → (u.tile t).col.arr.accSoft.contains w = true))
      ∧ runs (.softError (.acc t w) true) fun u => OnlyTile s u t ∧ (u.tile t).col.arr.accBad.contains w = true ∧ (u.tile t).col.arr.acc = (s.tile t).col.arr.acc)
    ∧ (∀ key w : Nat, key / 8 * 8 = w → s.soft.Pairwise (· < ·) → s.soft.contains w = true → s.hard.contains w = false →
        let u := s.scrub key 1
        u = { s with soft := u.soft, secded := s.secded + 1 } ∧ u.soft.contains w = false ∧ ∀ j, j ≠ w → u.soft.contains j = s.soft.contains j)
    ∧ (∀ t row : Nat, t < 768 →
        let c := (s.tile t).col
        let u := s.accScrub t row
        let read := fun (k : Nat) => k / 256 == row && c.active.colOn (k % 256)
        OnlyTile { s with secded := s.secded + (c.arr.accSoft.filter read).length } u t ∧ (u.tile t).col = { c with arr := { c.arr with accSoft := (u.tile t).col.arr.accSoft } }
        ∧ ∀ k, (u.tile t).col.arr.accSoft.contains k = (c.arr.accSoft.contains k && !read k))
    ∧ (∀ l, s.time < 2500 * (s.powerAt + 1) → exec (.powerControllerStep l) s = .next s)
    ∧ (∀ (n : Nat) (c : Court) (l : List (Nat × Nat)) (t e : Nat), 2500 * (s.powerAt + 1) ≤ s.time → s.courts = [(n, c)] → c.v = true → c.st = 1 → t ∈ c.tiles →
      c.tiles.Nodup → l = [(n, e)] →
      let pwr := ((c.word 1).extractLsb 15 0).toNat
      let steps := fun (level : Nat) => if pwr < e then max 1 (level - 8) else if 8 * e ≤ 7 * pwr then min 64 (level + 8) else level
      runs (.powerControllerStep l) fun u => MemKept s u ∧ u.powerAt = s.powerAt + 1
        ∧ (u.tile t).reg.mlevel = steps (s.tile t).reg.mlevel ∧ (u.tile t).reg.clevel = steps (s.tile t).reg.clevel
        ∧ ((c.word 1).extractLsb 63 32 = 0#32 → (u.court n).eqrem = c.eqrem ∧ (u.court n).ex = c.ex)
        ∧ ((c.word 1).extractLsb 63 32 ≠ 0#32 → (u.court n).eqrem = c.eqrem - e ∧ (u.court n).ex = (decide (c.eqrem ≤ e) || c.ex)))

/-- R2, R147, R149, R153, R381, R405, R429, R442: a register write from outside the tiles applies the access codes of the item at a scan address: AGELIM takes a
nonzero value, a staging word any value, a valid command starts and a second one while it runs sets MISS, RCMD starts a step in order, and a word of the HBM
window takes its eight bytes; a read-only item, an address that names no item and one with SELF change nothing. That a write with SELF changes nothing (log entry 72)
and that none acts after a thermal trip (log entry 63) are the model's readings (DEDUCED). -/
def Obligations.RegisterWrites : Prop :=
  ∀ (s : State) (v : Word),
    let item := fun (d u o : Nat) => BitVec.ofNat 64 (d * 2 ^ 42 + 2 ^ 33 + u * 2 ^ 28 + o)
    let writes := fun (a : Word) (u : State) => exec (.registerWrite a v) s = .next u
    let q := s.cport
    let r := s.roles
    (∀ a : Word, s.held = true ∨ a.getLsbD 44 = true ∨ a.extractLsb 63 45 ≠ 0#19 → writes a s)
    ∧ (s.held = false →
    (∀ o, o ∈ [0, 1, 2, 3] → writes (item 0 13 o) s)
    ∧ (v.extractLsb 7 0 ≠ 0#8 → writes (item 0 7 0x10000) { s with agelim := (v.extractLsb 7 0).toNat })
    ∧ (v.extractLsb 7 0 = 0#8 → writes (item 0 7 0x10000) s)
    ∧ (∀ i, i < 16 → writes (item 0 8 (0x4000 + i)) { s with cport := { q with stage := q.stage.put i v } })
    ∧ (q.busy = true → writes (item 0 8 0x4010) { s with cport := { q with miss := true } })
    ∧ (q.busy = false → v.extractLsb 63 27 = 0#37 → 1 ≤ (v.extractLsb 3 0).toNat → (v.extractLsb 3 0).toNat ≤ 6 →
        writes (item 0 8 0x4010) { s with cport := { q with cmd := v, copy := q.stage, busy := true } })
    ∧ (q.busy = false → v.extractLsb 63 27 ≠ 0#37 ∨ v.extractLsb 3 0 = 0#4 ∨ 6 < (v.extractLsb 3 0).toNat →
        writes (item 0 8 0x4010) { s with cport := { q with cmd := v, copy := q.stage, status := 1 } })
    ∧ (r.busy = false → v.extractLsb 2 0 = 1#3 → r.closing = false → writes (item 0 10 2) { s with roles := { r with busy := true, step := 1 } })
    ∧ (r.busy = false → v.extractLsb 2 0 = 1#3 → r.closing = true → writes (item 0 10 2) { s with roles := { r with rstat := 2 } })
    ∧ (∀ d o, d < 4 → o < 2 ^ 28 → o % 8 = 0 → s.mem.wf = true → ∃ u, writes (item d 1 o) u ∧
        let a := hbmBase + (s.die d).hwbase.toNat * 2 ^ 28 + o
        (∀ j, j < 8 → u.mem.get (a + j) = v.extractLsb' (8 * j) 8) ∧ (∀ k, k < a ∨ a + 8 ≤ k → u.mem.get k = s.mem.get k) ∧ u.tiles = s.tiles ∧ u.dies = s.dies)
    ∧ (∀ d o, d < 4 → o < 2 ^ 28 → o % 8 ≠ 0 → writes (item d 1 o) s))

/-! ## Reset and bring-up (R10, R11, R153, R160, R443, R475 to R482) -/

/-- R475 to R482: the events of bring-up, each in the phase before its own and none once a fatal failure has stopped it: RSTN's rise samples PKGID and starts the ROM
phase; an authentic image is measured; the base phase sets DEVOK and the base dies' items; the links train, and a training word that names the right partner
brings its port up, a wrong one, one that comes late or 100 ms without one takes it DOWN, with FAIL 5; the role phase locks the pattern table; the run phase starts
with empty queues. The thermal trip and RSTN low put the package into its reset state. The model's readings: the agenda and the memory outside the package stay over
package reset (DESIGN CHOICE, log entry 62); a rise of RSTN while the trip stands, and what the trip keeps (DEDUCED, log entry 63); the training word of a DOWN port is
its retraining (log entry 64); PHASE_RUN resets the interfaces with their sequence numbers (log entry 65). -/
def Obligations.BringUp : Prop :=
  ∀ (s : State),
    let p := s.pkg
    let runs := fun (i : Instr) (q : State → Prop) => ∃ u, exec i s = .next u ∧ q u
    let open_ := fun (n : Nat) => p.rstn = true ∧ p.fatal = false ∧ p.phase = n
    let fatal := fun (q : Pkg) (cause detail : Nat) => { q with fatal := true, prior := q.fail != 0, fail := cause, detail := detail }
    let next := fun (n : Nat) => { p with phase := n, msAt := s.time }
    (∀ id, p.rstn = true → ∀ g, exec (.rstnRise id g) s = .next s)
    ∧ (∀ id, p.rstn = false → p.thermtrip = false → exec (.rstnRise id true) s = .next { s with pkg := { p with rstn := true, pkgid := id, riseAt := s.time, msAt := s.time, phase := 1 } })
    ∧ (∀ id g, p.rstn = false → p.thermtrip = true → p.fatal = true →
        exec (.rstnRise id g) s = .next { s with pkg := { p with rstn := true, pkgid := id, riseAt := s.time, msAt := s.time } })
    ∧ (∀ id, p.rstn = false → p.fatal = false →
        exec (.rstnRise id false) s = .next { s with pkg := fatal { p with rstn := true, pkgid := id, riseAt := s.time, msAt := s.time } 9 0 })
    ∧ (p.fatal = true ∨ p.rstn = false → (∀ f, exec (.phaseAuth f) s = .next s) ∧ (∀ h c b, exec (.phaseBase h c b) s = .next s)
        ∧ (∀ o, exec (.phaseLinks o) s = .next s) ∧ (∀ l, exec (.phaseRoles l) s = .next s) ∧ exec .phaseRun s = .next s)
    ∧ (∀ m, open_ 1 → exec (.phaseAuth (.ok m)) s = .next { s with pkg := { next 2 with measure := BitVec.ofNat 512 (ofBytes (sha3 m)) } })
    ∧ (open_ 1 → exec (.phaseAuth .badSignature) s = .next { s with pkg := fatal p 1 0 } ∧ exec (.phaseAuth .badFormat) s = .next { s with pkg := fatal p 2 0 })
    ∧ (∀ hbm cxl base, open_ 2 → runs (.phaseBase hbm cxl base) fun u => MemKept s u ∧ u.tiles = s.tiles ∧ u.pkg.phase = 3
        ∧ (∀ i, i < 8 → u.pkg.devok.getLsbD i = hbm.getLsbD i ∧ u.pkg.devok.getLsbD (8 + i) = decide (cxl.getD i 0 ≠ 0))
        ∧ (hbm = 0xFF#8 → (∀ i, i < 8 → cxl.getD i 0 ≠ 0) → u.pkg.fatal = false ∧ u.pkg.fail = p.fail)
        ∧ (hbm.getLsbD 0 = false → u.pkg.fatal = true ∧ u.pkg.fail = 3 ∧ u.pkg.detail = 0)
        ∧ (hbm = 0xFF#8 → cxl.getD 0 0 = 0 → p.fail = 0 → u.pkg.fatal = false ∧ u.pkg.fail = 4 ∧ u.pkg.detail = 0)
        ∧ ∀ d, d < 4 → (u.die d).cxlwin0 = BitVec.ofNat 64 (min (cxl.getD (2 * d) 0 / 2 ^ 28) 3072)
          ∧ (u.die d).cxlwin1 = BitVec.ofNat 64 (min (cxl.getD (2 * d + 1) 0 / 2 ^ 28) 3072)
          ∧ (u.die d).mpbase = (base.getD d []).getD 2 0 ∧ (u.die d).ni = (s.die d).ni)
    ∧ (∀ ok, open_ 3 → runs (.phaseLinks ok) fun u => MemKept s u ∧ u.tiles = s.tiles ∧ u.pkg.phase = 4 ∧ u.pkg.msAt = s.time
        ∧ (∀ d q, d < 4 → q < 24 → ((u.die d).ports.at q {}).st = 2) ∧ ((u.die 0).ports.at 76 {}).st = (if ok then 0 else 3)
        ∧ (ok = true → u.pkg.devok.getLsbD 16 = true ∧ u.pkg.fatal = false) ∧ (ok = false → u.pkg.fatal = true ∧ u.pkg.fail = 6))
    ∧ (∀ (dir k : Nat) (w : TrainWord), dir < 6 → k < 16 → 4 ≤ p.phase → p.fatal = false →
        let link := fun (u : State) => (u.die (k / 4)).ports.at (dir * 4 + k % 4) {}
        let bit := 1#96 <<< (16 * dir + k)
        let partner := partnerOk p.pkgid.toNat dir k w
        let late := (link s).st = 2 ∧ p.phase = 4 ∧ p.msAt + 250000000 ≤ s.time
        let failed : Pkg := { p with portup := p.portup &&& ~~~bit, fail := if p.fail = 0 then 5 else p.fail, detail := if p.fail = 0 then 16 * dir + k else p.detail }
        let down := fun (u : State) => MemKept s u ∧ (link u).st = 3 ∧ u.pkg = failed
        ((link s).st = 0 → exec (.portTraining dir k w) s = .next s)
        ∧ ((link s).st = 2 ∨ (link s).st = 3 → partner = true → ¬ late → runs (.portTraining dir k w) fun u => MemKept s u ∧ (link u).st = 0 ∧ u.pkg = { p with portup := p.portup ||| bit })
        ∧ ((link s).st = 2 ∨ (link s).st = 3 → partner = false ∨ late → runs (.portTraining dir k w) down)
        ∧ (late → runs (.portTrainingTimeout dir k) down)
        ∧ (s.time < p.msAt + 250000000 → exec (.portTrainingTimeout dir k) s = .next s))
    ∧ (∀ l : List (BitVec 32), open_ 4 → s.portsDone = true → runs (.phaseRoles l) fun u => MemKept s u ∧ u.tiles = s.tiles ∧ u.pkg = next 5 ∧ u.roles.tplock = true
        ∧ u.roles.tpcnt = min 32 l.length ∧ (∀ i w, i < 32 → l[i]? = some w → u.roles.tpat.at i 0 = w) ∧ u.roles.roles = s.roles.roles)
    ∧ (∀ l, s.portsDone = false → exec (.phaseRoles l) s = .next s)
    ∧ (open_ 5 → s.roles.busy = false → s.roles.closing = false → runs .phaseRun fun u => MemKept s u ∧ u.pkg = next 6 ∧ u.ngambi = {}
        ∧ ∀ t, (u.tile t).colq = [] ∧ (u.tile t).cpyq = [] ∧ (u.tile t).fifo = [] ∧ (u.tile t).outbox = [] ∧ (u.tile t).netReq = [] ∧ (u.tile t).rt = {} ∧ (u.tile t).ni = {}
          ∧ (u.tile t).reg.pmcnt = [] ∧ (u.tile t).col.cnt = [] ∧ (u.tile t).col.acnt = [] ∧ (u.tile t).slots = (s.tile t).slots ∧ (u.tile t).col.active = (s.tile t).col.active
        ∧ ∀ d q, (u.die d).reqs = [] ∧ ((u.die d).ports.at q {}).shed = 0 ∧ ((u.die d).ports.at q {}).crc = 0 ∧ ((u.die d).ports.at q {}).replay = []
          ∧ ((u.die d).ports.at q {}).st = ((s.die d).ports.at q {}).st)
    ∧ (s.roles.busy = true → exec .phaseRun s = .next s)
    ∧ runs .packageReset (fun u => { u with mem := [], marks := [], agenda := [] } = State.reset ∧ u.agenda = s.agenda)
    ∧ (runs .thermtrip fun u => u.pkg.thermtrip = true ∧ u.pkg.lyen = 0 ∧ u.pkg.fatal = true ∧ u.held = true ∧ u.pkg.rstn = p.rstn ∧ u.time = s.time ∧ u.tiles = [] ∧ u.dies = []
        ∧ u.entries = [] ∧ u.courts = [] ∧ (p.fatal = false → u.pkg.fail = 8 ∧ u.pkg.prior = decide (p.fail ≠ 0)) ∧ (p.fatal = true → u.pkg.fail = p.fail))

/-! ## The state after reset, decoding and the step -/

/-- R10, R11, R475, R478: right after reset TIME is 0, PHASE is 0, no launch entry is in use, no court exists, every role is off, every queue is empty, no
task is live, every error and poison mark is clear, and every memory byte that nothing has written reads 0. That memory reads 0 there is this model's choice
(notes/assumptions/1.md). -/
def Obligations.AfterReset : Prop :=
  let s := State.reset
  s.time = 0 ∧ s.pkg.rstn = false ∧ s.pkg.phase = 0 ∧ s.pkg.fatal = false ∧ s.pkg.fail = 0 ∧ s.pkg.portup = 0#96 ∧ s.pkg.devok = 0#17 ∧ s.agelim = 64
    ∧ (∀ e, (s.entry e).st = 0) ∧ (∀ n, (s.court n).v = false ∧ (s.court n).st = 0) ∧ s.roles.roles = 0#32 ∧ s.roles.closing = false ∧ (∀ a i, s.range a i = 0#256)
    ∧ (∀ t k, (s.slot t k).task = none ∧ (s.slot t k).chan = [] ∧ (s.slot t k).accs = [])
    ∧ (∀ t, (s.tile t).colq = [] ∧ (s.tile t).cpyq = [] ∧ (∀ i, (s.tile t).fifoAt i = []) ∧ (s.tile t).reg.tccm1 = 0 ∧ (s.tile t).reg.colm1 = 1 ∧ (s.tile t).reg.cpym1 = 1
      ∧ (s.tile t).reg.handler = 0#5 ∧ (s.tile t).reg.trapset = 0#16 ∧ (s.tile t).col.av = false ∧ (s.tile t).col.dv = false ∧ (s.tile t).ni.nictl = 0x0001F8F5#32)
    ∧ (∀ a, s.mem.get a = 0) ∧ s.marks = [] ∧ s.soft = [] ∧ s.hard = [] ∧ s.ngambi.lq = [] ∧ s.ngambi.hq = [] ∧ s.mem.wf = true

/-- Words written bit by bit from the spec's encodings decode to the instructions that they stand for, and the words of no instruction decode to nothing: all zeros, all
ones, the guard 0b1000, and a nonzero bit where the encoding has zero (a sanity statement). -/
def Obligations.WordsDecode : Prop :=
  decodeWord 0x04000000#32 = .ok (.add 0 0 0 0) ∧ decodeWord 0x06851870#32 = .ok (.add 10 5 6 7) ∧ decodeWord 0x8C0913FD#32 = .ok (.ldd 0 9 4 0x3FD)
    ∧ decodeWord 0x2806FFFE#32 = .ok (.movi 0 6 0xFFFE) ∧ decodeWord 0x341C33FF#32 = .ok (.cmpi 0 3 4 12 0x3FF) ∧ decodeWord 0xF0061E42#32 = .ok (.fire 0 6 7 9)
    ∧ decodeWord 0x2005190C#32 = .ok (.shri 0 5 6 12) ∧ decodeWord 0x40051873#32 = .ok (.adds 0 5 6 7 3) ∧ decodeWord 0x38010830#32 = .ok (.pand 0 1 2 3)
    ∧ decodeWord 0x507FFFFD#32 = .ok (.br 1 0x3FFFFD) ∧ decodeWord 0x5C011402#32 = .ok (.loop 0 1 5 2) ∧ decodeWord 0xD00000C0#32 = .ok (.exit 0)
    ∧ decodeWord 0#32 = .error .major ∧ decodeWord 0xFFFFFFFF#32 = .error .major ∧ decodeWord 0x06051870#32 = .error .guard
    ∧ decodeWord 0xF0041000#32 = .error .reserved

/-- R42 to R54: decoding the word of an instruction gives the instruction back, with every operand at every value that its encoding admits, whatever bytes
follow. -/
def Obligations.DecodeOfEncode : Prop :=
  ∀ (i : Instr) (w : BitVec 32) (rest : List Byte), i.wf = true → encode i = some w → decode (bytesOfWord w ++ rest) = .ok (i, rest)

/-- R42 to R54: a word that decodes has one meaning: the instruction that it decodes to is well formed, and its encoding is that word, so that no bit is dropped. -/
def Obligations.EncodeOfDecode : Prop :=
  ∀ (w : BitVec 32) (i : Instr), decodeWord w = .ok i → i.wf = true ∧ encode i = some w

/-- R30, R44: when it is the turn of the TCCs and the schedule picks slot k of tile t, whose four bytes at PC, lowest address first, decode to i, the step is exec of i with
the focus on that slot, one cycle of TIME later, and then the pointer of its priority and the count of issues; the slot's registers and memory are as they stood. That
one TCC issues in a turn and TIME goes on by one cycle for each (log entry 3), and that an overwritten word is fetched as the store holds it now, where R57 allows
either (log entry 102), are the model's choices (DESIGN CHOICE). -/
def Obligations.StepRunsDecoded : Prop :=
  ∀ (s : State) (t k : Nat) (i : Instr) (rest : List Byte), s.agenda = [] → (s.evTurn = false ∨ s.nextEvent.isNone = true) →
    let s1 := { s.advance 1 with evTurn := true, evNo := 0 }
    let f := s1.focusOn t k
    let pc := (s.slot t k).rf.pc.toNat
    s1.pickIssue = some (t, k) → pc ≤ 0x3FFFC → decode (s.mem.read (istoreKey t pc) 4) = .ok (i, rest) → s.hard.contains (istoreKey t (pc / 8 * 8)) = false →
    f.focusT = t ∧ f.focusS = k ∧ f.cur = { s.slot t k with stop := f.cur.stop } ∧ f.mem = s.mem ∧ f.time = s.time + 1
    ∧ step s = (match exec i f with | .next u => .next (State.afterIssue f u) | o => o)

/-- The other steps: the head of the agenda is the environment's turn, in which something comes in from outside or an event happens; with an empty agenda the events of
the schedule happen one by one while the cycle holds any, and then TIME goes on by one cycle. The order of events is this model's choice (notes/assumptions/3.md). -/
def Obligations.StepTurns : Prop :=
  ∀ (s : State),
    (∀ dt e rest, s.agenda = ⟨dt, some e, none⟩ :: rest → isEvent e = true → step s = exec e ({ s with agenda := rest }.advance dt))
    ∧ (∀ dt i rest, s.agenda = ⟨dt, none, some i⟩ :: rest → step s = .next (({ s with agenda := rest }.advance dt).inbound i))
    ∧ (∀ dt rest, s.agenda = ⟨dt, none, none⟩ :: rest → step s = .next ({ s with agenda := rest }.advance dt))
    ∧ (∀ f, s.agenda = [] → s.evTurn = true → s.evNo < 65536 → s.nextEvent = some f → step s = f { s with evNo := s.evNo + 1 })
    ∧ (s.agenda = [] → (s.evTurn = false ∨ 65536 ≤ s.evNo ∨ s.nextEvent.isNone = true) →
        ({ s.advance 1 with evTurn := true, evNo := 0 } : State).pickIssue = none → step s = .next { s.advance 1 with evTurn := true, evNo := 0 })

/-- Every step keeps memory in its canonical form: addresses rise strictly, and no listed byte equals what an unlisted one reads as. -/
def Obligations.MemoryStays : Prop :=
  Kept fun s => s.mem.wf = true

/-- R154, R168, R171, R172, R219, R220, R366, R372, R376 to R378, R453, R454: where these forms complete, from conditions on the state and the operands alone. On a word
of the tile's scratchpad with room for one more access, an AMO of each ordering, a BPOST and a BWAIT go out, and their answer ends them: the AMO writes the old value to s[d],
and the BWAIT goes on past itself once its counter is posted and 0. A FENCE with nothing of the task outstanding but SENDs, which are no part of its work (R219), goes on, and FENCE.ACQ and FENCE.REL always do, and hold the
instructions of their lists for each access before them. A header that routes to an idle output whose far buffer is empty moves there; one that has waited past TRIMTH is trimmed; a
link that is up queues flits to send again and sheds lanes; a link in training comes up, or keeps the failure. -/
def Obligations.FormsComplete : Prop :=
  (∀ (s : State) (g : BitVec 4) (d a b : BitVec 6) (w : Nat), Stays s → (s.reg a.toNat).toNat = 0x400000 + 8 * w → w < 0x80000 →
    (∀ e ∈ s.cur.accs, e.k ≠ s.nextId) → s.cur.task.map (·.ending) = some false →
    let answered := fun (u : State) (r : Reply) => u.deliverTask s.focusT s.focusS s.nextId r
    let word := fun (r : Reply) => (BitVec.ofNat 64 (ofBytes (r.data.map (·.val))) : Word)
    let poi := fun (r : Reply) => r.data.any (·.poi)
    let acc : TaskAcc := { k := s.nextId, kind := .amo, window := false, ea := s.reg a.toNat }
    (s.curTile.tccReq.length < 4 → Runs s { g := g, rd := [a.toNat, b.toNat, d.toNat], wr := [d.toNat], cls := .amo } → Clean s [a.toNat, b.toNat, d.toNat] →
      ∀ o : BitVec 4, o.toNat < 10 →
      ∀ p ∈ [((.amo g d a b o : Instr), false, false), (.amoAcq g d a b o, true, false), (.amoRel g d a b o, false, true), (.amoAr g d a b o, true, true)],
        (p.2.2 = true → s.cur.accs = []) → ∃ u, exec p.1 s = .next u ∧ GoesOn s u
          ∧ Requests s u (.loc (8 * w)) { acc with dst := d.toNat, acq := p.2.1 } (.atomic 8 o.toNat (s.reg b.toNat) false (s.reg d.toNat))
          ∧ ∀ r, r.stat = .ok → (answered u r).cur.accs = s.cur.accs ∧ MemKept s (answered u r) ∧ GoesOn s (answered u r)
              ∧ WritesReg s (answered u r) d.toNat { val := word r, poi := poi r })
    ∧ ((s.cur.accs.filter fun e => !e.window && (e.kind == .store || e.kind == .post)).length < 4 → Runs s { g := g, rd := [a.toNat, b.toNat], cls := .post } →
      Clean s [a.toNat, b.toNat] → s.reg b.toNat ≠ 0 → (s.reg b.toNat).toNat < 2 ^ 47 → ∃ u, exec (.bpost g a b) s = .next u ∧ GoesOn s u
        ∧ Requests s u (.loc (8 * w)) { acc with kind := .post } (.post (s.reg b.toNat).toNat)
        ∧ ∀ r, r.stat = .ok → (answered u r).cur.accs = s.cur.accs ∧ MemKept s (answered u r) ∧ GoesOn s (answered u r) ∧ RegsKept s (answered u r))
    ∧ (s.curTile.tccReq.length < 4 → Runs s { g := g, rd := [a.toNat], cls := .bwait } → Clean s [a.toNat] → ∃ u, exec (.bwait g a) s = .next u
        ∧ Requests s u (.loc (8 * w)) { acc with kind := .bwait } .watch
        ∧ ∀ r, r.stat = .ok → poi r = false → (word r).getLsbD 62 = false → (word r).getLsbD 63 = true → (word r).toNat % 2 ^ 48 = 0 →
            (answered u r).cur.accs = s.cur.accs ∧ MemKept s (answered u r) ∧ GoesOn s (answered u r) ∧ RegsKept s (answered u r)
            ∧ (answered u r).cur.task.map (·.hold) = some .none))
  ∧ (∀ (s : State) (g : BitVec 4) (sc : BitVec 2), Runs s { g := g } → Stays s →
    let goes := fun (i : Instr) (p : State → Prop) => ∃ u, exec i s = .next u ∧ MemKept s u ∧ OtherSlots s u ∧ RegsKept s u ∧ GoesOn s u ∧ u.cur.accs = s.cur.accs ∧ p u
    let read := fun (e : TaskAcc) => match e.kind with | .load _ _ | .amo | .bwait => True | _ => False
    ((∀ e ∈ s.cur.accs, e.kind = .send) → (∀ c ∈ s.curTile.colq ++ s.curTile.cpyq, c.slot ≠ s.focusS) → goes (.fence g sc) fun _ => True)
    ∧ goes (.fenceAcq g sc) (fun u => ∀ e ∈ s.cur.accs, sc ≠ 0 ∨ e.window = false → read e →
        ∀ c ∈ [Cls.load, .bwait, .tokw, .store, .amo, .post, .send, .toks, .cmd], u.cur.fenced u.curTile c = true)
    ∧ goes (.fenceRel g sc) (fun u => ∀ e ∈ s.cur.accs, e.kind ≠ .send → sc ≠ 0 ∨ e.window = false →
        ∀ c ∈ [Cls.store, .amo, .post, .send, .toks, .depdone, .launch, .cmd], u.cur.fenced u.curTile c = true))
  ∧ (∀ (s : State) (n : Node) (out key since : Nat) (h : Hdr) (rest : List Flit), isNode n = true → isOut n out = true → out < 126 →
    (s.router n).ins = [(key, .head h since :: rest)] → s.routeAt n (key / 16) h = some out →
    let o := (s.router n).out out
    (∀ m port, linkEnd n out = some (m, port) → m ≠ n → s.takesFlit m port = true → (s.netIf n).txq = [] → o.lock = [] → (s.router m).ins.at (port * 16 + o.vcFor h) [] = [] →
      ∃ u, exec (.flitSend n out) s = .next u ∧ MemKept s u ∧ (u.router n).ins.at key [] = freshen s.time rest
        ∧ (u.router m).ins.at (port * 16 + o.vcFor h) [] = [.head { h with vc := o.vcFor h } s.time])
    ∧ (key % 16 ≠ 2 → key / 16 ≠ 77 → o.trimmable h = true → since + o.trimth < s.time → ∃ u, exec (.trim n out) s = .next u ∧ MemKept s u
        ∧ (u.router n).ins.at (key / 16 * 16 + 2) [] = [.head { h with trim := true, len := 0 } s.time] ∧ (u.router n).ins.at key [] = freshen s.time rest))
  ∧ (∀ (s : State) (d p : Nat), d < 4 → p < 24 →
    let l := (s.die d).ports.at p {}
    let goes := fun (i : Instr) (p : State → Prop) => ∃ u, exec i s = .next u ∧ MemKept s u ∧ p u
    let port := fun (u : State) => (u.die d).ports.at p {}
    (∀ k, l.st = 0 → k < l.replay.length → goes (.linkReplay d p k) fun u => l.replay.length - k ≤ (port u).resend ∧ (port u).replay = l.replay)
    ∧ (∀ lanes, l.st = 0 → (((s.die d).rt).out p).lock = [] → (lanes = 1 ∨ lanes = 2) → lanes ≠ l.lanes →
        goes (.laneShed d p lanes) fun u => (port u).st = 1 ∧ (port u).lanes = lanes ∧ (port u).replay = l.replay)
    ∧ (l.st = 1 → goes (.linkRetrain d p true) fun u => (port u).st = 0 ∧ (port u).resend = l.replay.length ∧ (port u).replay = l.replay)
    ∧ (l.st = 1 → l.fails = [] → goes (.linkRetrain d p false) fun u => (port u).st = 1 ∧ (port u).fails = [s.time] ∧ (port u).replay = l.replay))
end

