-- ==== Sys2Proof/Laws/Dispatch.lean ====
section
/-! SUPPORT. The meaning that exec gives each constructor, one equation per arm. -/

namespace Sys2Proof.Laws

open Sys2Proof.Machine

set_option Elab.async false

theorem exec_add (g : BitVec 4) (d : BitVec 6) (a : BitVec 6) (b : BitVec 6) (s : State) : exec (.add g d a b) s = execAdd g d a b s := rfl
theorem exec_sub (g : BitVec 4) (d : BitVec 6) (a : BitVec 6) (b : BitVec 6) (s : State) : exec (.sub g d a b) s = execSub g d a b s := rfl
theorem exec_and (g : BitVec 4) (d : BitVec 6) (a : BitVec 6) (b : BitVec 6) (s : State) : exec (.and g d a b) s = execAnd g d a b s := rfl
theorem exec_or (g : BitVec 4) (d : BitVec 6) (a : BitVec 6) (b : BitVec 6) (s : State) : exec (.or g d a b) s = execOr g d a b s := rfl
theorem exec_xor (g : BitVec 4) (d : BitVec 6) (a : BitVec 6) (b : BitVec 6) (s : State) : exec (.xor g d a b) s = execXor g d a b s := rfl
theorem exec_andn (g : BitVec 4) (d : BitVec 6) (a : BitVec 6) (b : BitVec 6) (s : State) : exec (.andn g d a b) s = execAndn g d a b s := rfl
theorem exec_shl (g : BitVec 4) (d : BitVec 6) (a : BitVec 6) (b : BitVec 6) (s : State) : exec (.shl g d a b) s = execShl g d a b s := rfl
theorem exec_shr (g : BitVec 4) (d : BitVec 6) (a : BitVec 6) (b : BitVec 6) (s : State) : exec (.shr g d a b) s = execShr g d a b s := rfl
theorem exec_sra (g : BitVec 4) (d : BitVec 6) (a : BitVec 6) (b : BitVec 6) (s : State) : exec (.sra g d a b) s = execSra g d a b s := rfl
theorem exec_rol (g : BitVec 4) (d : BitVec 6) (a : BitVec 6) (b : BitVec 6) (s : State) : exec (.rol g d a b) s = execRol g d a b s := rfl
theorem exec_min (g : BitVec 4) (d : BitVec 6) (a : BitVec 6) (b : BitVec 6) (s : State) : exec (.min g d a b) s = execMin g d a b s := rfl
theorem exec_max (g : BitVec 4) (d : BitVec 6) (a : BitVec 6) (b : BitVec 6) (s : State) : exec (.max g d a b) s = execMax g d a b s := rfl
theorem exec_minu (g : BitVec 4) (d : BitVec 6) (a : BitVec 6) (b : BitVec 6) (s : State) : exec (.minu g d a b) s = execMinu g d a b s := rfl
theorem exec_maxu (g : BitVec 4) (d : BitVec 6) (a : BitVec 6) (b : BitVec 6) (s : State) : exec (.maxu g d a b) s = execMaxu g d a b s := rfl
theorem exec_mul (g : BitVec 4) (d : BitVec 6) (a : BitVec 6) (b : BitVec 6) (s : State) : exec (.mul g d a b) s = execMul g d a b s := rfl
theorem exec_mulh (g : BitVec 4) (d : BitVec 6) (a : BitVec 6) (b : BitVec 6) (s : State) : exec (.mulh g d a b) s = execMulh g d a b s := rfl
theorem exec_mulhu (g : BitVec 4) (d : BitVec 6) (a : BitVec 6) (b : BitVec 6) (s : State) : exec (.mulhu g d a b) s = execMulhu g d a b s := rfl
theorem exec_madd (g : BitVec 4) (d : BitVec 6) (a : BitVec 6) (b : BitVec 6) (s : State) : exec (.madd g d a b) s = execMadd g d a b s := rfl
theorem exec_div (g : BitVec 4) (d : BitVec 6) (a : BitVec 6) (b : BitVec 6) (s : State) : exec (.div g d a b) s = execDiv g d a b s := rfl
theorem exec_divu (g : BitVec 4) (d : BitVec 6) (a : BitVec 6) (b : BitVec 6) (s : State) : exec (.divu g d a b) s = execDivu g d a b s := rfl
theorem exec_rem (g : BitVec 4) (d : BitVec 6) (a : BitVec 6) (b : BitVec 6) (s : State) : exec (.rem g d a b) s = execRem g d a b s := rfl
theorem exec_remu (g : BitVec 4) (d : BitVec 6) (a : BitVec 6) (b : BitVec 6) (s : State) : exec (.remu g d a b) s = execRemu g d a b s := rfl
theorem exec_clz (g : BitVec 4) (d : BitVec 6) (a : BitVec 6) (s : State) : exec (.clz g d a) s = execClz g d a s := rfl
theorem exec_ctz (g : BitVec 4) (d : BitVec 6) (a : BitVec 6) (s : State) : exec (.ctz g d a) s = execCtz g d a s := rfl
theorem exec_popc (g : BitVec 4) (d : BitVec 6) (a : BitVec 6) (s : State) : exec (.popc g d a) s = execPopc g d a s := rfl
theorem exec_brev (g : BitVec 4) (d : BitVec 6) (a : BitVec 6) (s : State) : exec (.brev g d a) s = execBrev g d a s := rfl
theorem exec_bswap (g : BitVec 4) (d : BitVec 6) (a : BitVec 6) (s : State) : exec (.bswap g d a) s = execBswap g d a s := rfl
theorem exec_sextb (g : BitVec 4) (d : BitVec 6) (a : BitVec 6) (s : State) : exec (.sextb g d a) s = execSextb g d a s := rfl
theorem exec_sexth (g : BitVec 4) (d : BitVec 6) (a : BitVec 6) (s : State) : exec (.sexth g d a) s = execSexth g d a s := rfl
theorem exec_sextw (g : BitVec 4) (d : BitVec 6) (a : BitVec 6) (s : State) : exec (.sextw g d a) s = execSextw g d a s := rfl
theorem exec_zextb (g : BitVec 4) (d : BitVec 6) (a : BitVec 6) (s : State) : exec (.zextb g d a) s = execZextb g d a s := rfl
theorem exec_zexth (g : BitVec 4) (d : BitVec 6) (a : BitVec 6) (s : State) : exec (.zexth g d a) s = execZexth g d a s := rfl
theorem exec_zextw (g : BitVec 4) (d : BitVec 6) (a : BitVec 6) (s : State) : exec (.zextw g d a) s = execZextw g d a s := rfl
theorem exec_addi (g : BitVec 4) (d : BitVec 6) (a : BitVec 6) (i : BitVec 10) (s : State) : exec (.addi g d a i) s = execAddi g d a i s := rfl
theorem exec_andi (g : BitVec 4) (d : BitVec 6) (a : BitVec 6) (i : BitVec 10) (s : State) : exec (.andi g d a i) s = execAndi g d a i s := rfl
theorem exec_ori (g : BitVec 4) (d : BitVec 6) (a : BitVec 6) (i : BitVec 10) (s : State) : exec (.ori g d a i) s = execOri g d a i s := rfl
theorem exec_xori (g : BitVec 4) (d : BitVec 6) (a : BitVec 6) (i : BitVec 10) (s : State) : exec (.xori g d a i) s = execXori g d a i s := rfl
theorem exec_shli (g : BitVec 4) (d : BitVec 6) (a : BitVec 6) (n : BitVec 6) (s : State) : exec (.shli g d a n) s = execShli g d a n s := rfl
theorem exec_shri (g : BitVec 4) (d : BitVec 6) (a : BitVec 6) (n : BitVec 6) (s : State) : exec (.shri g d a n) s = execShri g d a n s := rfl
theorem exec_srai (g : BitVec 4) (d : BitVec 6) (a : BitVec 6) (n : BitVec 6) (s : State) : exec (.srai g d a n) s = execSrai g d a n s := rfl
theorem exec_movi (g : BitVec 4) (d : BitVec 6) (i : BitVec 16) (s : State) : exec (.movi g d i) s = execMovi g d i s := rfl
theorem exec_movh (g : BitVec 4) (d : BitVec 6) (i : BitVec 16) (s : State) : exec (.movh g d i) s = execMovh g d i s := rfl
theorem exec_cmp (g : BitVec 4) (p : BitVec 3) (c : BitVec 3) (a : BitVec 6) (b : BitVec 6) (s : State) : exec (.cmp g p c a b) s = execCmp g p c a b s := rfl
theorem exec_cmpi (g : BitVec 4) (p : BitVec 3) (c : BitVec 3) (a : BitVec 6) (i : BitVec 10) (s : State) : exec (.cmpi g p c a i) s = execCmpi g p c a i s := rfl
theorem exec_pand (g : BitVec 4) (d : BitVec 3) (a : BitVec 3) (b : BitVec 3) (s : State) : exec (.pand g d a b) s = execPand g d a b s := rfl
theorem exec_por (g : BitVec 4) (d : BitVec 3) (a : BitVec 3) (b : BitVec 3) (s : State) : exec (.por g d a b) s = execPor g d a b s := rfl
theorem exec_pxor (g : BitVec 4) (d : BitVec 3) (a : BitVec 3) (b : BitVec 3) (s : State) : exec (.pxor g d a b) s = execPxor g d a b s := rfl
theorem exec_pandn (g : BitVec 4) (d : BitVec 3) (a : BitVec 3) (b : BitVec 3) (s : State) : exec (.pandn g d a b) s = execPandn g d a b s := rfl
theorem exec_pnot (g : BitVec 4) (d : BitVec 3) (a : BitVec 3) (s : State) : exec (.pnot g d a) s = execPnot g d a s := rfl
theorem exec_pmov (g : BitVec 4) (d : BitVec 3) (a : BitVec 3) (s : State) : exec (.pmov g d a) s = execPmov g d a s := rfl
theorem exec_sel (g : BitVec 4) (d : BitVec 6) (a : BitVec 6) (b : BitVec 6) (n : BitVec 1) (p : BitVec 3) (s : State) : exec (.sel g d a b n p) s = execSel g d a b n p s := rfl
theorem exec_adds (g : BitVec 4) (d : BitVec 6) (a : BitVec 6) (b : BitVec 6) (k : BitVec 4) (s : State) : exec (.adds g d a b k) s = execAdds g d a b k s := rfl
theorem exec_fadd (g : BitVec 4) (d : BitVec 6) (a : BitVec 6) (b : BitVec 6) (s : State) : exec (.fadd g d a b) s = execFadd g d a b s := rfl
theorem exec_fsub (g : BitVec 4) (d : BitVec 6) (a : BitVec 6) (b : BitVec 6) (s : State) : exec (.fsub g d a b) s = execFsub g d a b s := rfl
theorem exec_fmul (g : BitVec 4) (d : BitVec 6) (a : BitVec 6) (b : BitVec 6) (s : State) : exec (.fmul g d a b) s = execFmul g d a b s := rfl
theorem exec_fma (g : BitVec 4) (d : BitVec 6) (a : BitVec 6) (b : BitVec 6) (s : State) : exec (.fma g d a b) s = execFma g d a b s := rfl
theorem exec_fdiv (g : BitVec 4) (d : BitVec 6) (a : BitVec 6) (b : BitVec 6) (s : State) : exec (.fdiv g d a b) s = execFdiv g d a b s := rfl
theorem exec_fsqrt (g : BitVec 4) (d : BitVec 6) (a : BitVec 6) (s : State) : exec (.fsqrt g d a) s = execFsqrt g d a s := rfl
theorem exec_fmin (g : BitVec 4) (d : BitVec 6) (a : BitVec 6) (b : BitVec 6) (s : State) : exec (.fmin g d a b) s = execFmin g d a b s := rfl
theorem exec_fmax (g : BitVec 4) (d : BitVec 6) (a : BitVec 6) (b : BitVec 6) (s : State) : exec (.fmax g d a b) s = execFmax g d a b s := rfl
theorem exec_fabs (g : BitVec 4) (d : BitVec 6) (a : BitVec 6) (s : State) : exec (.fabs g d a) s = execFabs g d a s := rfl
theorem exec_fneg (g : BitVec 4) (d : BitVec 6) (a : BitVec 6) (s : State) : exec (.fneg g d a) s = execFneg g d a s := rfl
theorem exec_fclass (g : BitVec 4) (d : BitVec 6) (a : BitVec 6) (s : State) : exec (.fclass g d a) s = execFclass g d a s := rfl
theorem exec_fcvt (g : BitVec 4) (d : BitVec 6) (a : BitVec 6) (x : BitVec 3) (y : BitVec 3) (r : BitVec 2) (s : State) : exec (.fcvt g d a x y r) s = execFcvt g d a x y r s := rfl
theorem exec_fcmp (g : BitVec 4) (p : BitVec 3) (c : BitVec 3) (a : BitVec 6) (b : BitVec 6) (s : State) : exec (.fcmp g p c a b) s = execFcmp g p c a b s := rfl
theorem exec_br (g : BitVec 4) (d : BitVec 22) (s : State) : exec (.br g d) s = execBr g d s := rfl
theorem exec_call (g : BitVec 4) (d : BitVec 22) (s : State) : exec (.call g d) s = execCall g d s := rfl
theorem exec_jmpr (g : BitVec 4) (a : BitVec 6) (s : State) : exec (.jmpr g a) s = execJmpr g a s := rfl
theorem exec_callr (g : BitVec 4) (a : BitVec 6) (s : State) : exec (.callr g a) s = execCallr g a s := rfl
theorem exec_ret (g : BitVec 4) (s : State) : exec (.ret g) s = execRet g s := rfl
theorem exec_loop (g : BitVec 4) (n : BitVec 1) (a : BitVec 6) (i : BitVec 10) (s : State) : exec (.loop g n a i) s = execLoop g n a i s := rfl
theorem exec_ldb (g : BitVec 4) (d : BitVec 6) (b : BitVec 6) (i : BitVec 10) (s : State) : exec (.ldb g d b i) s = execLdb g d b i s := rfl
theorem exec_ldh (g : BitVec 4) (d : BitVec 6) (b : BitVec 6) (i : BitVec 10) (s : State) : exec (.ldh g d b i) s = execLdh g d b i s := rfl
theorem exec_ldw (g : BitVec 4) (d : BitVec 6) (b : BitVec 6) (i : BitVec 10) (s : State) : exec (.ldw g d b i) s = execLdw g d b i s := rfl
theorem exec_ldd (g : BitVec 4) (d : BitVec 6) (b : BitVec 6) (i : BitVec 10) (s : State) : exec (.ldd g d b i) s = execLdd g d b i s := rfl
theorem exec_ldbu (g : BitVec 4) (d : BitVec 6) (b : BitVec 6) (i : BitVec 10) (s : State) : exec (.ldbu g d b i) s = execLdbu g d b i s := rfl
theorem exec_ldhu (g : BitVec 4) (d : BitVec 6) (b : BitVec 6) (i : BitVec 10) (s : State) : exec (.ldhu g d b i) s = execLdhu g d b i s := rfl
theorem exec_ldwu (g : BitVec 4) (d : BitVec 6) (b : BitVec 6) (i : BitVec 10) (s : State) : exec (.ldwu g d b i) s = execLdwu g d b i s := rfl
theorem exec_stb (g : BitVec 4) (d : BitVec 6) (b : BitVec 6) (i : BitVec 10) (s : State) : exec (.stb g d b i) s = execStb g d b i s := rfl
theorem exec_sth (g : BitVec 4) (d : BitVec 6) (b : BitVec 6) (i : BitVec 10) (s : State) : exec (.sth g d b i) s = execSth g d b i s := rfl
theorem exec_stw (g : BitVec 4) (d : BitVec 6) (b : BitVec 6) (i : BitVec 10) (s : State) : exec (.stw g d b i) s = execStw g d b i s := rfl
theorem exec_std (g : BitVec 4) (d : BitVec 6) (b : BitVec 6) (i : BitVec 10) (s : State) : exec (.std g d b i) s = execStd g d b i s := rfl
theorem exec_amo (g : BitVec 4) (d : BitVec 6) (a : BitVec 6) (b : BitVec 6) (o : BitVec 4) (s : State) : exec (.amo g d a b o) s = execAmo g d a b o s := rfl
theorem exec_amoAcq (g : BitVec 4) (d : BitVec 6) (a : BitVec 6) (b : BitVec 6) (o : BitVec 4) (s : State) : exec (.amoAcq g d a b o) s = execAmoAcq g d a b o s := rfl
theorem exec_amoRel (g : BitVec 4) (d : BitVec 6) (a : BitVec 6) (b : BitVec 6) (o : BitVec 4) (s : State) : exec (.amoRel g d a b o) s = execAmoRel g d a b o s := rfl
theorem exec_amoAr (g : BitVec 4) (d : BitVec 6) (a : BitVec 6) (b : BitVec 6) (o : BitVec 4) (s : State) : exec (.amoAr g d a b o) s = execAmoAr g d a b o s := rfl
theorem exec_fence (g : BitVec 4) (sc : BitVec 2) (s : State) : exec (.fence g sc) s = execFence g sc s := rfl
theorem exec_fenceAcq (g : BitVec 4) (sc : BitVec 2) (s : State) : exec (.fenceAcq g sc) s = execFenceAcq g sc s := rfl
theorem exec_fenceRel (g : BitVec 4) (sc : BitVec 2) (s : State) : exec (.fenceRel g sc) s = execFenceRel g sc s := rfl
theorem exec_bpost (g : BitVec 4) (a : BitVec 6) (b : BitVec 6) (s : State) : exec (.bpost g a b) s = execBpost g a b s := rfl
theorem exec_bwait (g : BitVec 4) (a : BitVec 6) (s : State) : exec (.bwait g a) s = execBwait g a s := rfl
theorem exec_tokw (g : BitVec 4) (e : BitVec 1) (s : State) : exec (.tokw g e) s = execTokw g e s := rfl
theorem exec_toks (g : BitVec 4) (e : BitVec 1) (s : State) : exec (.toks g e) s = execToks g e s := rfl
theorem exec_send (g : BitVec 4) (a : BitVec 6) (b : BitVec 6) (s : State) : exec (.send g a b) s = execSend g a b s := rfl
theorem exec_recv (g : BitVec 4) (d : BitVec 6) (s : State) : exec (.recv g d) s = execRecv g d s := rfl
theorem exec_trap (g : BitVec 4) (c : BitVec 6) (s : State) : exec (.trap g c) s = execTrap g c s := rfl
theorem exec_svc (g : BitVec 4) (c : BitVec 6) (s : State) : exec (.svc g c) s = execSvc g c s := rfl
theorem exec_eret (g : BitVec 4) (s : State) : exec (.eret g) s = execEret g s := rfl
theorem exec_exit (g : BitVec 4) (s : State) : exec (.exit g) s = execExit g s := rfl
theorem exec_yield (g : BitVec 4) (s : State) : exec (.yield g) s = execYield g s := rfl
theorem exec_wait (g : BitVec 4) (d : BitVec 6) (a : BitVec 6) (s : State) : exec (.wait g d a) s = execWait g d a s := rfl
theorem exec_gets (g : BitVec 4) (d : BitVec 6) (sc : BitVec 10) (s : State) : exec (.gets g d sc) s = execGets g d sc s := rfl
theorem exec_scnr (g : BitVec 4) (d : BitVec 6) (a : BitVec 6) (s : State) : exec (.scnr g d a) s = execScnr g d a s := rfl
theorem exec_puts (g : BitVec 4) (a : BitVec 6) (sc : BitVec 10) (s : State) : exec (.puts g a sc) s = execPuts g a sc s := rfl
theorem exec_scnw (g : BitVec 4) (d : BitVec 6) (a : BitVec 6) (s : State) : exec (.scnw g d a) s = execScnw g d a s := rfl
theorem exec_clkdiv (g : BitVec 4) (d : BitVec 6) (a : BitVec 6) (e : BitVec 2) (s : State) : exec (.clkdiv g d a e) s = execClkdiv g d a e s := rfl
theorem exec_launch (g : BitVec 4) (d : BitVec 6) (a : BitVec 6) (s : State) : exec (.launch g d a) s = execLaunch g d a s := rfl
theorem exec_depdone (g : BitVec 4) (a : BitVec 6) (s : State) : exec (.depdone g a) s = execDepdone g a s := rfl
theorem exec_cfgld (g : BitVec 4) (a : BitVec 6) (f : BitVec 4) (s : State) : exec (.cfgld g a f) s = execCfgld g a f s := rfl
theorem exec_cfgpart (g : BitVec 4) (a : BitVec 6) (b : BitVec 6) (f : BitVec 4) (s : State) : exec (.cfgpart g a b f) s = execCfgpart g a b f s := rfl
theorem exec_fire (g : BitVec 4) (a : BitVec 6) (b : BitVec 6) (f : BitVec 4) (s : State) : exec (.fire g a b f) s = execFire g a b f s := rfl
theorem exec_bind (g : BitVec 4) (a : BitVec 6) (b : BitVec 6) (f : BitVec 4) (s : State) : exec (.bind g a b f) s = execBind g a b f s := rfl
theorem exec_tset (g : BitVec 4) (a : BitVec 6) (b : BitVec 6) (f : BitVec 4) (s : State) : exec (.tset g a b f) s = execTset g a b f s := rfl
theorem exec_cstop (g : BitVec 4) (a : BitVec 6) (f : BitVec 4) (s : State) : exec (.cstop g a f) s = execCstop g a f s := rfl
theorem exec_cpys (g : BitVec 4) (a : BitVec 6) (b : BitVec 6) (f : BitVec 4) (s : State) : exec (.cpys g a b f) s = execCpys g a b f s := rfl
theorem exec_cpyd (g : BitVec 4) (a : BitVec 6) (b : BitVec 6) (f : BitVec 4) (s : State) : exec (.cpyd g a b f) s = execCpyd g a b f s := rfl
theorem exec_copy (g : BitVec 4) (a : BitVec 6) (b : BitVec 6) (f : BitVec 4) (s : State) : exec (.copy g a b f) s = execCopy g a b f s := rfl
theorem exec_cpyf (g : BitVec 4) (a : BitVec 6) (b : BitVec 6) (f : BitVec 4) (s : State) : exec (.cpyf g a b f) s = execCpyf g a b f s := rfl
theorem exec_efence (g : BitVec 4) (m : BitVec 2) (s : State) : exec (.efence g m) s = execEfence g m s := rfl
theorem exec_eqry (g : BitVec 4) (d : BitVec 6) (m : BitVec 2) (s : State) : exec (.eqry g d m) s = execEqry g d m s := rfl
theorem exec_instructionCompletion (tile : Nat) (slot : Nat) (k : Nat) (s : State) : exec (.instructionCompletion tile slot k) s = execInstructionCompletion tile slot k s := rfl
theorem exec_trapEntry (tile : Nat) (slot : Nat) (s : State) : exec (.trapEntry tile slot) s = execTrapEntry tile slot s := rfl
theorem exec_waitTimerExpiry (tile : Nat) (slot : Nat) (s : State) : exec (.waitTimerExpiry tile slot) s = execWaitTimerExpiry tile slot s := rfl
theorem exec_taskState2Stop (tile : Nat) (slot : Nat) (s : State) : exec (.taskState2Stop tile slot) s = execTaskState2Stop tile slot s := rfl
theorem exec_taskState1Stop (tile : Nat) (slot : Nat) (s : State) : exec (.taskState1Stop tile slot) s = execTaskState1Stop tile slot s := rfl
theorem exec_preemptOverrun (tile : Nat) (slot : Nat) (s : State) : exec (.preemptOverrun tile slot) s = execPreemptOverrun tile slot s := rfl
theorem exec_courtWindowCompletion (tile : Nat) (slot : Nat) (s : State) : exec (.courtWindowCompletion tile slot) s = execCourtWindowCompletion tile slot s := rfl
theorem exec_scanCompletion (tile : Nat) (slot : Nat) (s : State) : exec (.scanCompletion tile slot) s = execScanCompletion tile slot s := rfl
theorem exec_clkdivEffect (tile : Nat) (s : State) : exec (.clkdivEffect tile) s = execClkdivEffect tile s := rfl
theorem exec_commandStart (tile : Nat) (eng : Eng) (s : State) : exec (.commandStart tile eng) s = execCommandStart tile eng s := rfl
theorem exec_commandRetire (tile : Nat) (eng : Eng) (s : State) : exec (.commandRetire tile eng) s = execCommandRetire tile eng s := rfl
theorem exec_cfgldCheck (tile : Nat) (s : State) : exec (.cfgldCheck tile) s = execCfgldCheck tile s := rfl
theorem exec_cfgpartWrite (tile : Nat) (s : State) : exec (.cfgpartWrite tile) s = execCfgpartWrite tile s := rfl
theorem exec_bindPlace (tile : Nat) (s : State) : exec (.bindPlace tile) s = execBindPlace tile s := rfl
theorem exec_copyComplete (tile : Nat) (k : Nat) (s : State) : exec (.copyComplete tile k) s = execCopyComplete tile k s := rfl
theorem exec_busyResend (node : Node) (k : Nat) (s : State) : exec (.busyResend node k) s = execBusyResend node k s := rfl
theorem exec_bankGrant (tile : Nat) (bank : Nat) (s : State) : exec (.bankGrant tile bank) s = execBankGrant tile bank s := rfl
theorem exec_changeNotice (tile : Nat) (word : Nat) (s : State) : exec (.changeNotice tile word) s = execChangeNotice tile word s := rfl
theorem exec_bwaitRepoll (tile : Nat) (slot : Nat) (s : State) : exec (.bwaitRepoll tile slot) s = execBwaitRepoll tile slot s := rfl
theorem exec_baseDieRequest (die : Nat) (k : Nat) (s : State) : exec (.baseDieRequest die k) s = execBaseDieRequest die k s := rfl
theorem exec_rmwWritePhase (die : Nat) (k : Nat) (s : State) : exec (.rmwWritePhase die k) s = execRmwWritePhase die k s := rfl
theorem exec_hbmWheelSlot (hbm : Nat) (pch : Nat) (s : State) : exec (.hbmWheelSlot hbm pch) s = execHbmWheelSlot hbm pch s := rfl
theorem exec_baseDieReply (tile : Nat) (s : State) : exec (.baseDieReply tile) s = execBaseDieReply tile s := rfl
theorem exec_granuleEviction (die : Nat) (frame : Nat) (s : State) : exec (.granuleEviction die frame) s = execGranuleEviction die frame s := rfl
theorem exec_granuleMigration (die : Nat) (frame : Nat) (s : State) : exec (.granuleMigration die frame) s = execGranuleMigration die frame s := rfl
theorem exec_residentNotice (tile : Nat) (s : State) : exec (.residentNotice tile) s = execResidentNotice tile s := rfl
theorem exec_mcellReply (tile : Nat) (m : Nat) (s : State) : exec (.mcellReply tile m) s = execMcellReply tile m s := rfl
theorem exec_decodeTableLoad (tile : Nat) (m : Nat) (s : State) : exec (.decodeTableLoad tile m) s = execDecodeTableLoad tile m s := rfl
theorem exec_xboxTokenMove (tile : Nat) (net : Net) (xbox : Nat) (port : Nat) (s : State) : exec (.xboxTokenMove tile net xbox port) s = execXboxTokenMove tile net xbox port s := rfl
theorem exec_whistleWave (tile : Nat) (s : State) : exec (.whistleWave tile) s = execWhistleWave tile s := rfl
theorem exec_statusRecordWrite (tile : Nat) (s : State) : exec (.statusRecordWrite tile) s = execStatusRecordWrite tile s := rfl
theorem exec_cellAdd (tile : Nat) (cell : Nat) (slot : Nat) (s : State) : exec (.cellAdd tile cell slot) s = execCellAdd tile cell slot s := rfl
theorem exec_cellSub (tile : Nat) (cell : Nat) (slot : Nat) (s : State) : exec (.cellSub tile cell slot) s = execCellSub tile cell slot s := rfl
theorem exec_cellMul (tile : Nat) (cell : Nat) (slot : Nat) (s : State) : exec (.cellMul tile cell slot) s = execCellMul tile cell slot s := rfl
theorem exec_cellMulh (tile : Nat) (cell : Nat) (slot : Nat) (s : State) : exec (.cellMulh tile cell slot) s = execCellMulh tile cell slot s := rfl
theorem exec_cellMac (tile : Nat) (cell : Nat) (slot : Nat) (s : State) : exec (.cellMac tile cell slot) s = execCellMac tile cell slot s := rfl
theorem exec_cellAnd (tile : Nat) (cell : Nat) (slot : Nat) (s : State) : exec (.cellAnd tile cell slot) s = execCellAnd tile cell slot s := rfl
theorem exec_cellOr (tile : Nat) (cell : Nat) (slot : Nat) (s : State) : exec (.cellOr tile cell slot) s = execCellOr tile cell slot s := rfl
theorem exec_cellXor (tile : Nat) (cell : Nat) (slot : Nat) (s : State) : exec (.cellXor tile cell slot) s = execCellXor tile cell slot s := rfl
theorem exec_cellShl (tile : Nat) (cell : Nat) (slot : Nat) (s : State) : exec (.cellShl tile cell slot) s = execCellShl tile cell slot s := rfl
theorem exec_cellShr (tile : Nat) (cell : Nat) (slot : Nat) (s : State) : exec (.cellShr tile cell slot) s = execCellShr tile cell slot s := rfl
theorem exec_cellSra (tile : Nat) (cell : Nat) (slot : Nat) (s : State) : exec (.cellSra tile cell slot) s = execCellSra tile cell slot s := rfl
theorem exec_cellMin (tile : Nat) (cell : Nat) (slot : Nat) (s : State) : exec (.cellMin tile cell slot) s = execCellMin tile cell slot s := rfl
theorem exec_cellMax (tile : Nat) (cell : Nat) (slot : Nat) (s : State) : exec (.cellMax tile cell slot) s = execCellMax tile cell slot s := rfl
theorem exec_cellAbs (tile : Nat) (cell : Nat) (slot : Nat) (s : State) : exec (.cellAbs tile cell slot) s = execCellAbs tile cell slot s := rfl
theorem exec_cellSat (tile : Nat) (cell : Nat) (slot : Nat) (s : State) : exec (.cellSat tile cell slot) s = execCellSat tile cell slot s := rfl
theorem exec_cellClamp (tile : Nat) (cell : Nat) (slot : Nat) (s : State) : exec (.cellClamp tile cell slot) s = execCellClamp tile cell slot s := rfl
theorem exec_cellCmp (tile : Nat) (cell : Nat) (slot : Nat) (s : State) : exec (.cellCmp tile cell slot) s = execCellCmp tile cell slot s := rfl
theorem exec_cellSel (tile : Nat) (cell : Nat) (slot : Nat) (s : State) : exec (.cellSel tile cell slot) s = execCellSel tile cell slot s := rfl
theorem exec_cellFadd (tile : Nat) (cell : Nat) (slot : Nat) (s : State) : exec (.cellFadd tile cell slot) s = execCellFadd tile cell slot s := rfl
theorem exec_cellFsub (tile : Nat) (cell : Nat) (slot : Nat) (s : State) : exec (.cellFsub tile cell slot) s = execCellFsub tile cell slot s := rfl
theorem exec_cellFmul (tile : Nat) (cell : Nat) (slot : Nat) (s : State) : exec (.cellFmul tile cell slot) s = execCellFmul tile cell slot s := rfl
theorem exec_cellFma (tile : Nat) (cell : Nat) (slot : Nat) (s : State) : exec (.cellFma tile cell slot) s = execCellFma tile cell slot s := rfl
theorem exec_cellFmin (tile : Nat) (cell : Nat) (slot : Nat) (s : State) : exec (.cellFmin tile cell slot) s = execCellFmin tile cell slot s := rfl
theorem exec_cellFmax (tile : Nat) (cell : Nat) (slot : Nat) (s : State) : exec (.cellFmax tile cell slot) s = execCellFmax tile cell slot s := rfl
theorem exec_cellFabs (tile : Nat) (cell : Nat) (slot : Nat) (s : State) : exec (.cellFabs tile cell slot) s = execCellFabs tile cell slot s := rfl
theorem exec_cellFneg (tile : Nat) (cell : Nat) (slot : Nat) (s : State) : exec (.cellFneg tile cell slot) s = execCellFneg tile cell slot s := rfl
theorem exec_cellFcmp (tile : Nat) (cell : Nat) (slot : Nat) (s : State) : exec (.cellFcmp tile cell slot) s = execCellFcmp tile cell slot s := rfl
theorem exec_rcp (tile : Nat) (cell : Nat) (slot : Nat) (s : State) : exec (.rcp tile cell slot) s = execRcp tile cell slot s := rfl
theorem exec_rsqrt (tile : Nat) (cell : Nat) (slot : Nat) (s : State) : exec (.rsqrt tile cell slot) s = execRsqrt tile cell slot s := rfl
theorem exec_exp2 (tile : Nat) (cell : Nat) (slot : Nat) (s : State) : exec (.exp2 tile cell slot) s = execExp2 tile cell slot s := rfl
theorem exec_log2 (tile : Nat) (cell : Nat) (slot : Nat) (s : State) : exec (.log2 tile cell slot) s = execLog2 tile cell slot s := rfl
theorem exec_scale (tile : Nat) (cell : Nat) (slot : Nat) (s : State) : exec (.scale tile cell slot) s = execScale tile cell slot s := rfl
theorem exec_rsum (tile : Nat) (cell : Nat) (slot : Nat) (s : State) : exec (.rsum tile cell slot) s = execRsum tile cell slot s := rfl
theorem exec_rmax (tile : Nat) (cell : Nat) (slot : Nat) (s : State) : exec (.rmax tile cell slot) s = execRmax tile cell slot s := rfl
theorem exec_rmin (tile : Nat) (cell : Nat) (slot : Nat) (s : State) : exec (.rmin tile cell slot) s = execRmin tile cell slot s := rfl
theorem exec_acc (tile : Nat) (cell : Nat) (slot : Nat) (s : State) : exec (.acc tile cell slot) s = execAcc tile cell slot s := rfl
theorem exec_shuf (tile : Nat) (cell : Nat) (slot : Nat) (s : State) : exec (.shuf tile cell slot) s = execShuf tile cell slot s := rfl
theorem exec_rot (tile : Nat) (cell : Nat) (slot : Nat) (s : State) : exec (.rot tile cell slot) s = execRot tile cell slot s := rfl
theorem exec_bcast (tile : Nat) (cell : Nat) (slot : Nat) (s : State) : exec (.bcast tile cell slot) s = execBcast tile cell slot s := rfl
theorem exec_pack (tile : Nat) (cell : Nat) (slot : Nat) (s : State) : exec (.pack tile cell slot) s = execPack tile cell slot s := rfl
theorem exec_unpack (tile : Nat) (cell : Nat) (slot : Nat) (s : State) : exec (.unpack tile cell slot) s = execUnpack tile cell slot s := rfl
theorem exec_reord (tile : Nat) (cell : Nat) (slot : Nat) (s : State) : exec (.reord tile cell slot) s = execReord tile cell slot s := rfl
theorem exec_pass (tile : Nat) (cell : Nat) (slot : Nat) (s : State) : exec (.pass tile cell slot) s = execPass tile cell slot s := rfl
theorem exec_fifo (tile : Nat) (cell : Nat) (slot : Nat) (s : State) : exec (.fifo tile cell slot) s = execFifo tile cell slot s := rfl
theorem exec_steer (tile : Nat) (cell : Nat) (slot : Nat) (s : State) : exec (.steer tile cell slot) s = execSteer tile cell slot s := rfl
theorem exec_merge (tile : Nat) (cell : Nat) (slot : Nat) (s : State) : exec (.merge tile cell slot) s = execMerge tile cell slot s := rfl
theorem exec_gate (tile : Nat) (cell : Nat) (slot : Nat) (s : State) : exec (.gate tile cell slot) s = execGate tile cell slot s := rfl
theorem exec_tagget (tile : Nat) (cell : Nat) (slot : Nat) (s : State) : exec (.tagget tile cell slot) s = execTagget tile cell slot s := rfl
theorem exec_tagput (tile : Nat) (cell : Nat) (slot : Nat) (s : State) : exec (.tagput tile cell slot) s = execTagput tile cell slot s := rfl
theorem exec_cellCnt (tile : Nat) (cell : Nat) (slot : Nat) (s : State) : exec (.cellCnt tile cell slot) s = execCellCnt tile cell slot s := rfl
theorem exec_join (tile : Nat) (cell : Nat) (slot : Nat) (s : State) : exec (.join tile cell slot) s = execJoin tile cell slot s := rfl
theorem exec_sink (tile : Nat) (cell : Nat) (slot : Nat) (s : State) : exec (.sink tile cell slot) s = execSink tile cell slot s := rfl
theorem exec_aff (tile : Nat) (acell : Nat) (s : State) : exec (.aff tile acell) s = execAff tile acell s := rfl
theorem exec_idx (tile : Nat) (acell : Nat) (s : State) : exec (.idx tile acell) s = execIdx tile acell s := rfl
theorem exec_acellCnt (tile : Nat) (acell : Nat) (s : State) : exec (.acellCnt tile acell) s = execAcellCnt tile acell s := rfl
theorem exec_lds (tile : Nat) (m : Nat) (s : State) : exec (.lds tile m) s = execLds tile m s := rfl
theorem exec_sts (tile : Nat) (m : Nat) (s : State) : exec (.sts tile m) s = execSts tile m s := rfl
theorem exec_gath (tile : Nat) (m : Nat) (s : State) : exec (.gath tile m) s = execGath tile m s := rfl
theorem exec_scat (tile : Nat) (m : Nat) (s : State) : exec (.scat tile m) s = execScat tile m s := rfl
theorem exec_atom (tile : Nat) (m : Nat) (s : State) : exec (.atom tile m) s = execAtom tile m s := rfl
theorem exec_tas (tile : Nat) (m : Nat) (s : State) : exec (.tas tile m) s = execTas tile m s := rfl
theorem exec_dcmp (tile : Nat) (m : Nat) (s : State) : exec (.dcmp tile m) s = execDcmp tile m s := rfl
theorem exec_qnt (tile : Nat) (m : Nat) (s : State) : exec (.qnt tile m) s = execQnt tile m s := rfl
theorem exec_rld (tile : Nat) (m : Nat) (s : State) : exec (.rld tile m) s = execRld tile m s := rfl
theorem exec_rst (tile : Nat) (m : Nat) (s : State) : exec (.rst tile m) s = execRst tile m s := rfl
theorem exec_ramo (tile : Nat) (m : Nat) (s : State) : exec (.ramo tile m) s = execRamo tile m s := rfl
theorem exec_counterPort (tile : Nat) (m : Nat) (s : State) : exec (.counterPort tile m) s = execCounterPort tile m s := rfl
theorem exec_wld (tile : Nat) (s : State) : exec (.wld tile) s = execWld tile s := rfl
theorem exec_scaleRowTake (tile : Nat) (s : State) : exec (.scaleRowTake tile) s = execScaleRowTake tile s := rfl
theorem exec_arrayPass (tile : Nat) (s : State) : exec (.arrayPass tile) s = execArrayPass tile s := rfl
theorem exec_accw (tile : Nat) (s : State) : exec (.accw tile) s = execAccw tile s := rfl
theorem exec_mma (tile : Nat) (s : State) : exec (.mma tile) s = execMma tile s := rfl
theorem exec_mmaG (tile : Nat) (s : State) : exec (.mmaG tile) s = execMmaG tile s := rfl
theorem exec_accr (tile : Nat) (s : State) : exec (.accr tile) s = execAccr tile s := rfl
theorem exec_flitSend (node : Node) (out : Nat) (s : State) : exec (.flitSend node out) s = execFlitSend node out s := rfl
theorem exec_trim (node : Node) (out : Nat) (s : State) : exec (.trim node out) s = execTrim node out s := rfl
theorem exec_requestArrival (node : Node) (s : State) : exec (.requestArrival node) s = execRequestArrival node s := rfl
theorem exec_reseqRelease (node : Node) (s : State) : exec (.reseqRelease node) s = execReseqRelease node s := rfl
theorem exec_responseArrival (node : Node) (s : State) : exec (.responseArrival node) s = execResponseArrival node s := rfl
theorem exec_buntHeaderArrival (node : Node) (s : State) : exec (.buntHeaderArrival node) s = execBuntHeaderArrival node s := rfl
theorem exec_letSend (node : Node) (s : State) : exec (.letSend node) s = execLetSend node s := rfl
theorem exec_letBucketRefill (node : Node) (s : State) : exec (.letBucketRefill node) s = execLetBucketRefill node s := rfl
theorem exec_letReceive (node : Node) (s : State) : exec (.letReceive node) s = execLetReceive node s := rfl
theorem exec_imageHeaderRead (entry : Nat) (img : Nat) (s : State) : exec (.imageHeaderRead entry img) s = execImageHeaderRead entry img s := rfl
theorem exec_imageReadComplete (entry : Nat) (img : Nat) (s : State) : exec (.imageReadComplete entry img) s = execImageReadComplete entry img s := rfl
theorem exec_taskStart (entry : Nat) (s : State) : exec (.taskStart entry) s = execTaskStart entry s := rfl
theorem exec_launchEnd (entry : Nat) (s : State) : exec (.launchEnd entry) s = execLaunchEnd entry s := rfl
theorem exec_launchAbort (entry : Nat) (s : State) : exec (.launchAbort entry) s = execLaunchAbort entry s := rfl
theorem exec_scanOut (court : Nat) (s : State) : exec (.scanOut court) s = execScanOut court s := rfl
theorem exec_illegal (w : BitVec 32) (s : State) : exec (.illegal w) s = execIllegal w s := rfl
theorem exec_registerWrite (addr : BitVec 64) (value : BitVec 64) (s : State) : exec (.registerWrite addr value) s = execRegisterWrite addr value s := rfl
theorem exec_hostRequest (asid : Nat) (addr : Nat) (n : Nat) (data : List (BitVec 8)) (s : State) : exec (.hostRequest asid addr n data) s = execHostRequest asid addr n data s := rfl
theorem exec_launchPacketArrival (words : List (BitVec 64)) (s : State) : exec (.launchPacketArrival words) s = execLaunchPacketArrival words s := rfl
theorem exec_preemptRequest (court : Nat) (reason : Nat) (s : State) : exec (.preemptRequest court reason) s = execPreemptRequest court reason s := rfl
theorem exec_ackTimeout (node : Node) (k : Nat) (s : State) : exec (.ackTimeout node k) s = execAckTimeout node k s := rfl
theorem exec_pairTimeout (tile : Nat) (s : State) : exec (.pairTimeout tile) s = execPairTimeout tile s := rfl
theorem exec_drainTimeout (tile : Nat) (s : State) : exec (.drainTimeout tile) s = execDrainTimeout tile s := rfl
theorem exec_trapsetWrite (tile : Nat) (value : BitVec 16) (s : State) : exec (.trapsetWrite tile value) s = execTrapsetWrite tile value s := rfl
theorem exec_engineReset (tile : Nat) (mask : BitVec 2) (s : State) : exec (.engineReset tile mask) s = execEngineReset tile mask s := rfl
theorem exec_ringTailWrite (court : Nat) (dirty : Bool) (value : BitVec 32) (s : State) : exec (.ringTailWrite court dirty value) s = execRingTailWrite court dirty value s := rfl
theorem exec_laneShed (die : Nat) (port : Nat) (lanes : Nat) (s : State) : exec (.laneShed die port lanes) s = execLaneShed die port lanes s := rfl
theorem exec_linkRetrain (die : Nat) (port : Nat) (ok : Bool) (s : State) : exec (.linkRetrain die port ok) s = execLinkRetrain die port ok s := rfl
theorem exec_linkReplay (die : Nat) (port : Nat) (n : Nat) (s : State) : exec (.linkReplay die port n) s = execLinkReplay die port n s := rfl
theorem exec_roleCheck (powerGood : BitVec 16) (s : State) : exec (.roleCheck powerGood) s = execRoleCheck powerGood s := rfl
theorem exec_powerControllerStep (energy : List (Nat × Nat)) (s : State) : exec (.powerControllerStep energy) s = execPowerControllerStep energy s := rfl
theorem exec_rstnRise (pkgid : BitVec 12) (railsGood : Bool) (s : State) : exec (.rstnRise pkgid railsGood) s = execRstnRise pkgid railsGood s := rfl
theorem exec_phaseAuth (fw : FwResult) (s : State) : exec (.phaseAuth fw) s = execPhaseAuth fw s := rfl
theorem exec_phaseBase (hbmOk : BitVec 8) (cxl : List Nat) (base : List (List (BitVec 64))) (s : State) : exec (.phaseBase hbmOk cxl base) s = execPhaseBase hbmOk cxl base s := rfl
theorem exec_phaseLinks (ngambiOk : Bool) (s : State) : exec (.phaseLinks ngambiOk) s = execPhaseLinks ngambiOk s := rfl
theorem exec_portTraining (dir : Nat) (port : Nat) (word : TrainWord) (s : State) : exec (.portTraining dir port word) s = execPortTraining dir port word s := rfl
theorem exec_portTrainingTimeout (dir : Nat) (port : Nat) (s : State) : exec (.portTrainingTimeout dir port) s = execPortTrainingTimeout dir port s := rfl
theorem exec_phaseRoles (pats : List (BitVec 32)) (s : State) : exec (.phaseRoles pats) s = execPhaseRoles pats s := rfl
theorem exec_softError (place : ErrPlace) (multi : Bool) (s : State) : exec (.softError place multi) s = execSoftError place multi s := rfl
theorem exec_preemptRelease (s : State) : exec (.preemptRelease) s = execPreemptRelease s := rfl
theorem exec_post (s : State) : exec (.post) s = execPost s := rfl
theorem exec_abort (s : State) : exec (.abort) s = execAbort s := rfl
theorem exec_cancel (s : State) : exec (.cancel) s = execCancel s := rfl
theorem exec_preempt (s : State) : exec (.preempt) s = execPreempt s := rfl
theorem exec_resume (s : State) : exec (.resume) s = execResume s := rfl
theorem exec_intervalBoundary (s : State) : exec (.intervalBoundary) s = execIntervalBoundary s := rfl
theorem exec_create (s : State) : exec (.create) s = execCreate s := rfl
theorem exec_destroy (s : State) : exec (.destroy) s = execDestroy s := rfl
theorem exec_grant (s : State) : exec (.grant) s = execGrant s := rfl
theorem exec_courtPreempt (s : State) : exec (.courtPreempt) s = execCourtPreempt s := rfl
theorem exec_rwrite (s : State) : exec (.rwrite) s = execRwrite s := rfl
theorem exec_attest (s : State) : exec (.attest) s = execAttest s := rfl
theorem exec_roleDrain (s : State) : exec (.roleDrain) s = execRoleDrain s := rfl
theorem exec_roleFlush (s : State) : exec (.roleFlush) s = execRoleFlush s := rfl
theorem exec_roleGate (s : State) : exec (.roleGate) s = execRoleGate s := rfl
theorem exec_roleEnum (s : State) : exec (.roleEnum) s = execRoleEnum s := rfl
theorem exec_roleRelease (s : State) : exec (.roleRelease) s = execRoleRelease s := rfl
theorem exec_roleAbort (s : State) : exec (.roleAbort) s = execRoleAbort s := rfl
theorem exec_phaseRun (s : State) : exec (.phaseRun) s = execPhaseRun s := rfl
theorem exec_thermtrip (s : State) : exec (.thermtrip) s = execThermtrip s := rfl
theorem exec_packageReset (s : State) : exec (.packageReset) s = execPackageReset s := rfl

end Sys2Proof.Laws
end

