-- ==== Sys2Proof/Laws/Map.lean ====
section
/-! SUPPORT. What reads of sparse maps and number sets give after a write: no order of the keys is assumed. -/

namespace Sys2Proof.Machine

@[simp] theorem look_put_self {α : Type} (m : AMap α) (k : Nat) (v : α) : (m.put k v).look k = some v := by
  induction m with
  | nil => simp [AMap.put, AMap.look]
  | cons p t ih =>
    obtain ⟨j, w⟩ := p
    unfold AMap.put
    split
    · simp [AMap.look]
    · split
      · simp [AMap.look]
      · rename_i h1 h2
        simp [AMap.look, Ne.symm h2, ih]

theorem look_put_ne {α : Type} (m : AMap α) {k j : Nat} (v : α) (h : j ≠ k) : (m.put k v).look j = m.look j := by
  induction m with
  | nil => simp [AMap.put, AMap.look, h.symm]
  | cons p t ih =>
    obtain ⟨i, w⟩ := p
    unfold AMap.put
    split
    · simp [AMap.look, h.symm]
    · split
      · rename_i _ e
        subst e
        simp [AMap.look, h.symm]
      · simp [AMap.look, ih]

@[simp] theorem at_put_self {α : Type} (m : AMap α) (k : Nat) (v d : α) : (m.put k v).at k d = v := by
  simp [AMap.at]

theorem at_put_ne {α : Type} (m : AMap α) {k j : Nat} (v d : α) (h : j ≠ k) : (m.put k v).at j d = m.at j d := by
  simp [AMap.at, look_put_ne m v h]

/-- A write over a write leaves the second alone. -/
theorem put_put {α : Type} (m : AMap α) (k : Nat) (v w : α) : (m.put k v).put k w = m.put k w := by
  induction m with
  | nil => simp [AMap.put]
  | cons p t ih =>
    obtain ⟨j, u⟩ := p
    simp only [AMap.put]
    split
    · simp [AMap.put]
    · split
      · simp [AMap.put]
      · rename_i h1 h2
        simp [AMap.put, h1, h2, ih]

/-- Writing back what is listed changes nothing. -/
theorem put_of_look {α : Type} (m : AMap α) (k : Nat) (v : α) (h : m.look k = some v)
    (s : m.Pairwise fun p q => p.1 < q.1) : m.put k v = m := by
  induction m with
  | nil => simp [AMap.look] at h
  | cons p t ih =>
    obtain ⟨j, u⟩ := p
    simp only [AMap.look] at h
    simp only [AMap.put]
    have st := List.pairwise_cons.1 s
    split at h
    · rename_i e
      subst e
      simp at h
      simp [h]
    · rename_i e
      have hk : ∀ t' : AMap α, t'.look k = some v → ∃ q ∈ t', q.1 = k := by
        intro t'
        induction t' with
        | nil => simp [AMap.look]
        | cons q r ihr =>
          intro hq
          simp only [AMap.look] at hq
          split at hq
          · exact ⟨q, by simp, by assumption⟩
          · obtain ⟨x, hx, hxk⟩ := ihr hq
            exact ⟨x, by simp [hx], hxk⟩
      obtain ⟨q, hq, hqk⟩ := hk t h
      have := st.1 q hq
      rw [if_neg (by omega), if_neg (by omega), ih h st.2]

@[simp] theorem mem_setAdd (l : List Nat) (k j : Nat) : j ∈ setAdd l k ↔ j = k ∨ j ∈ l := by
  induction l with
  | nil => simp [setAdd]
  | cons i t ih =>
    simp only [setAdd]
    split
    · simp
    · split
      · rename_i _ e
        subst e
        simp
      · simp [ih]
        tauto

end Sys2Proof.Machine
end

