-- ==== Sys2Proof/Laws/Mem.lean ====
section
/-! SUPPORT. The laws of memory: what a read gives after a write, and that every operation keeps the canonical form. -/

namespace Sys2Proof.Machine

theorem wfFrom_mono {m : Memory} {a b : Nat} (h : Memory.wfFrom b m = true) (ab : a ≤ b) : Memory.wfFrom a m = true := by
  cases m with
  | nil => rfl
  | cons p t =>
    obtain ⟨i, v⟩ := p
    simp only [Memory.wfFrom, Bool.and_eq_true, decide_eq_true_eq] at *
    exact ⟨⟨by omega, h.1.2⟩, h.2⟩

theorem get_below {m : Memory} {lo k : Nat} (h : Memory.wfFrom lo m = true) (hk : k < lo) : m.get k = blankByte := by
  cases m with
  | nil => rfl
  | cons p t =>
    obtain ⟨i, v⟩ := p
    simp only [Memory.wfFrom, Bool.and_eq_true, decide_eq_true_eq] at h
    simp only [Memory.get]
    rw [if_neg (by omega), if_pos (by omega)]

/-- A read of the byte just written. -/
@[simp] theorem get_set_self {m : Memory} {lo : Nat} (h : Memory.wfFrom lo m = true) (k : Nat) (v : Byte) : (m.set k v).get k = v := by
  induction m generalizing lo with
  | nil =>
    simp only [Memory.set]
    split
    · rename_i e; simp [Memory.get, e]
    · simp [Memory.get]
  | cons p t ih =>
    obtain ⟨i, b⟩ := p
    simp only [Memory.wfFrom, Bool.and_eq_true, decide_eq_true_eq] at h
    simp only [Memory.set]
    split
    · split
      · rename_i h1 e
        simp only [Memory.get]
        rw [if_neg (by omega), if_pos h1, e]
      · simp [Memory.get]
    · split
      · rename_i h1 e
        subst e
        split
        · rename_i ev
          rw [get_below h.2 (by omega), ev]
        · simp [Memory.get]
      · rename_i h1 h2
        simp only [Memory.get]
        rw [if_neg (by omega), if_neg (by omega)]
        exact ih h.2

/-- A read of another byte. -/
theorem get_set_ne {m : Memory} {lo : Nat} (h : Memory.wfFrom lo m = true) {k j : Nat} (v : Byte) (hj : j ≠ k) :
    (m.set k v).get j = m.get j := by
  induction m generalizing lo with
  | nil =>
    simp only [Memory.set]
    split
    · rfl
    · simp only [Memory.get]
      rw [if_neg (by omega)]
      split <;> rfl
  | cons p t ih =>
    obtain ⟨i, b⟩ := p
    simp only [Memory.wfFrom, Bool.and_eq_true, decide_eq_true_eq] at h
    simp only [Memory.set]
    split
    · split
      · rfl
      · rename_i h1 _
        simp only [Memory.get]
        rw [if_neg (by omega)]
        by_cases hk : j < k
        · rw [if_pos hk, if_neg (by omega), if_pos (by omega)]
        · rw [if_neg hk]
    · split
      · rename_i h1 e
        subst e
        split
        · simp only [Memory.get]
          rw [if_neg (by omega)]
          by_cases hk : j < k
          · rw [if_pos hk, get_below h.2 (by omega)]
          · rw [if_neg hk]
        · simp only [Memory.get]
          rw [if_neg (by omega)]
          simp [Ne.symm hj]
      · rename_i h1 h2
        simp only [Memory.get]
        rw [ih h.2]

/-- One byte written keeps the canonical form. -/
theorem set_wfFrom {m : Memory} {lo k : Nat} (h : Memory.wfFrom lo m = true) (v : Byte) (hk : lo ≤ k) : Memory.wfFrom lo (m.set k v) = true := by
  induction m generalizing lo with
  | nil =>
    simp only [Memory.set]
    split
    · rfl
    · rename_i e
      simp [Memory.wfFrom, hk, e]
  | cons p t ih =>
    obtain ⟨i, b⟩ := p
    have h' := h
    simp only [Memory.wfFrom, Bool.and_eq_true, decide_eq_true_eq] at h
    simp only [Memory.set]
    split
    · split
      · exact h'
      · rename_i h1 e
        simp only [Memory.wfFrom, Bool.and_eq_true, decide_eq_true_eq]
        exact ⟨⟨hk, e⟩, ⟨by omega, h.1.2⟩, h.2⟩
    · split
      · rename_i h1 e
        subst e
        split
        · exact wfFrom_mono h.2 (by omega)
        · rename_i ev
          simp only [Memory.wfFrom, Bool.and_eq_true, decide_eq_true_eq]
          exact ⟨⟨hk, ev⟩, h.2⟩
      · rename_i h1 h2
        simp only [Memory.wfFrom, Bool.and_eq_true, decide_eq_true_eq]
        exact ⟨h.1, ih h.2 (by omega)⟩

theorem set_wf {m : Memory} (h : m.wf = true) (k : Nat) (v : Byte) : (m.set k v).wf = true := set_wfFrom h v (Nat.zero_le k)

theorem write_wf {m : Memory} (h : m.wf = true) (a : Nat) (bs : List Byte) : (m.write a bs).wf = true := by
  induction bs generalizing m a with
  | nil => exact h
  | cons b t ih => exact ih (set_wf h a b) (a + 1)

theorem writeN_wf {m : Memory} (h : m.wf = true) (a n v : Nat) : (m.writeN a n v).wf = true := write_wf h a _

theorem writeM_wf {m : Memory} (h : m.wf = true) (a : Nat) (bs : List MByte) : (m.writeM a bs).wf = true := by
  induction bs generalizing m a with
  | nil => exact h
  | cons b t ih =>
    simp only [Memory.writeM]
    split
    · exact ih (set_wf h a b.val) (a + 1)
    · exact ih h (a + 1)

theorem filter_wfFrom {m : Memory} {lo : Nat} (h : Memory.wfFrom lo m = true) (p : Host.Cell → Bool) :
    Memory.wfFrom lo (m.filter p) = true := by
  induction m generalizing lo with
  | nil => rfl
  | cons c t ih =>
    obtain ⟨i, b⟩ := c
    simp only [Memory.wfFrom, Bool.and_eq_true, decide_eq_true_eq] at h
    rw [List.filter_cons]
    split
    · simp only [Memory.wfFrom, Bool.and_eq_true, decide_eq_true_eq]
      exact ⟨h.1, ih h.2⟩
    · exact wfFrom_mono (ih h.2) (by omega)

theorem filter_wf {m : Memory} (h : m.wf = true) (p : Host.Cell → Bool) : Memory.wf (m.filter p) = true := filter_wfFrom h p

/-- Two memories, the first below an address and the second from it on, joined. -/
theorem append_wfFrom {m n : Memory} {lo mid : Nat} (h : Memory.wfFrom lo m = true) (hm : ∀ c ∈ m, c.1 < mid) (hn : Memory.wfFrom mid n = true)
    (hl : lo ≤ mid) : Memory.wfFrom lo (m ++ n) = true := by
  induction m generalizing lo with
  | nil => exact wfFrom_mono hn hl
  | cons c t ih =>
    obtain ⟨i, b⟩ := c
    simp only [Memory.wfFrom, Bool.and_eq_true, decide_eq_true_eq] at h
    simp only [List.cons_append, Memory.wfFrom, Bool.and_eq_true, decide_eq_true_eq]
    have hi : i < mid := hm (i, b) (by simp)
    exact ⟨h.1, ih h.2 (fun c hc => hm c (by simp [hc])) (by omega)⟩

/-- Bytes outside those written read as before. -/
theorem get_write_ne {m : Memory} (h : m.wf = true) (a j : Nat) (bs : List Byte) (hj : j < a ∨ a + bs.length ≤ j) :
    (m.write a bs).get j = m.get j := by
  induction bs generalizing m a with
  | nil => rfl
  | cons b t ih =>
    simp only [List.length_cons] at hj
    rw [Memory.write, ih (set_wf h a b) (a + 1) (by omega), get_set_ne h b (by omega)]

theorem get_writeM_ne {m : Memory} (h : m.wf = true) (a j : Nat) (bs : List MByte) (hj : j < a ∨ a + bs.length ≤ j) :
    (m.writeM a bs).get j = m.get j := by
  induction bs generalizing m a with
  | nil => rfl
  | cons b t ih =>
    simp only [List.length_cons] at hj
    simp only [Memory.writeM]
    split
    · rw [ih (set_wf h a b.val) (a + 1) (by omega), get_set_ne h b.val (by omega)]
    · exact ih h (a + 1) (by omega)

/-! ## What a write leaves behind -/

theorem get_write_in {m : Memory} (h : m.wf = true) (a : Nat) (bs : List Byte) {i : Nat} (hi : i < bs.length) : (m.write a bs).get (a + i) = bs[i] := by
  induction bs generalizing m a i with
  | nil => simp at hi
  | cons b t ih =>
    cases i with
    | zero =>
      show ((m.set a b).write (a + 1) t).get a = b
      rw [get_write_ne (set_wf h a b) _ _ _ (.inl (Nat.lt_succ_self a))]
      exact get_set_self h a b
    | succ i =>
      have := ih (set_wf h a b) (a + 1) (i := i) (by simpa using hi)
      rw [show a + (i + 1) = a + 1 + i by omega]
      simpa [Memory.write] using this

theorem get_writeM_in {m : Memory} (h : m.wf = true) (a : Nat) (bs : List MByte) {i : Nat} (hi : i < bs.length) (he : bs[i].en = true) :
    (m.writeM a bs).get (a + i) = bs[i].val := by
  induction bs generalizing m a i with
  | nil => simp at hi
  | cons b t ih =>
    have hw : Memory.wf (if b.en then m.set a b.val else m) = true := by
      split
      · exact set_wf h a _
      · exact h
    cases i with
    | zero =>
      simp only [List.getElem_cons_zero] at he ⊢
      show (Memory.writeM (if b.en then m.set a b.val else m) (a + 1) t).get a = b.val
      rw [get_writeM_ne hw _ _ _ (.inl (Nat.lt_succ_self a)), if_pos he]
      exact get_set_self h a _
    | succ i =>
      have := ih hw (a + 1) (i := i) (by simpa using hi) (by simpa using he)
      rw [show a + (i + 1) = a + 1 + i by omega]
      simpa [Memory.writeM] using this

theorem length_read (m : Memory) (a n : Nat) : (m.read a n).length = n := by
  induction n generalizing a with
  | zero => rfl
  | succ n ih => simp [Memory.read, ih]

theorem length_toBytes (n v : Nat) : (toBytes n v).length = n := by
  induction n generalizing v with
  | zero => rfl
  | succ n ih => simp [toBytes, ih]

theorem read_eq {m q : Memory} {a n : Nat} (h : ∀ j, j < n → m.get (a + j) = q.get (a + j)) : m.read a n = q.read a n := by
  induction n generalizing a with
  | zero => rfl
  | succ n ih =>
    simp only [Memory.read]
    rw [show m.get a = q.get a from h 0 (Nat.succ_pos n), ih fun j hj => by have := h (j + 1) (by omega); rwa [show a + 1 + j = a + (j + 1) by omega]]

theorem read_write {m : Memory} (h : m.wf = true) (a : Nat) (bs : List Byte) : (m.write a bs).read a bs.length = bs := by
  induction bs generalizing m a with
  | nil => rfl
  | cons b t ih =>
    show ((m.set a b).write (a + 1) t).get a :: ((m.set a b).write (a + 1) t).read (a + 1) t.length = b :: t
    rw [ih (set_wf h a b), get_write_ne (set_wf h a b) _ _ _ (.inl (Nat.lt_succ_self a)), get_set_self h]

theorem ofBytes_lt (bs : List Byte) : ofBytes bs < 256 ^ bs.length := by
  induction bs with
  | nil => simp [ofBytes]
  | cons b t ih =>
    have := b.isLt
    simp only [ofBytes, List.length_cons, Nat.pow_succ]
    omega

theorem ofBytes_toBytes (n v : Nat) : ofBytes (toBytes n v) = v % 256 ^ n := by
  induction n generalizing v with
  | zero => simp [toBytes, ofBytes, Nat.mod_one]
  | succ n ih =>
    simp only [toBytes, ofBytes, ih]
    rw [BitVec.toNat_ofNat, show (2 : Nat) ^ 8 = 256 from rfl, show (256 : Nat) ^ (n + 1) = 256 * 256 ^ n from by rw [Nat.pow_succ, Nat.mul_comm], Nat.mod_mul]

/-- A number written comes back, cut to the bytes written. -/
theorem readN_writeN {m : Memory} (h : m.wf = true) (a n v : Nat) : (m.writeN a n v).readN a n = v % 256 ^ n := by
  have := read_write h a (toBytes n v)
  rw [length_toBytes] at this
  rw [Memory.readN, Memory.writeN, this, ofBytes_toBytes]

theorem readN_lt (m : Memory) (a n : Nat) : m.readN a n < 256 ^ n := by
  have := ofBytes_lt (m.read a n)
  rwa [length_read] at this

theorem get_writeN_ne {m : Memory} (h : m.wf = true) (a n v j : Nat) (hj : j < a ∨ a + n ≤ j) : (m.writeN a n v).get j = m.get j :=
  get_write_ne h a j _ (by rwa [length_toBytes])

end Sys2Proof.Machine
end

