-- ==== Sys2Proof/Laws/State.lean ====
section
/-! SUPPORT. What the updates of the state leave alone: one lemma per field per update, and what the accessors of tiles and slots read after an update. -/

namespace Sys2Proof.Machine

/-! ## putTile -/

@[simp] theorem putTile_time (s : State) (t : Nat) (x : Tile) : (s.putTile t x).time = s.time := rfl
@[simp] theorem putTile_mem (s : State) (t : Nat) (x : Tile) : (s.putTile t x).mem = s.mem := rfl
@[simp] theorem putTile_marks (s : State) (t : Nat) (x : Tile) : (s.putTile t x).marks = s.marks := rfl
@[simp] theorem putTile_soft (s : State) (t : Nat) (x : Tile) : (s.putTile t x).soft = s.soft := rfl
@[simp] theorem putTile_hard (s : State) (t : Nat) (x : Tile) : (s.putTile t x).hard = s.hard := rfl
@[simp] theorem putTile_secded (s : State) (t : Nat) (x : Tile) : (s.putTile t x).secded = s.secded := rfl
@[simp] theorem putTile_dies (s : State) (t : Nat) (x : Tile) : (s.putTile t x).dies = s.dies := rfl
@[simp] theorem putTile_entries (s : State) (t : Nat) (x : Tile) : (s.putTile t x).entries = s.entries := rfl
@[simp] theorem putTile_agelim (s : State) (t : Nat) (x : Tile) : (s.putTile t x).agelim = s.agelim := rfl
@[simp] theorem putTile_clsPtr (s : State) (t : Nat) (x : Tile) : (s.putTile t x).clsPtr = s.clsPtr := rfl
@[simp] theorem putTile_dispQ (s : State) (t : Nat) (x : Tile) : (s.putTile t x).dispQ = s.dispQ := rfl
@[simp] theorem putTile_farReads (s : State) (t : Nat) (x : Tile) : (s.putTile t x).farReads = s.farReads := rfl
@[simp] theorem putTile_boundary (s : State) (t : Nat) (x : Tile) : (s.putTile t x).boundary = s.boundary := rfl
@[simp] theorem putTile_courts (s : State) (t : Nat) (x : Tile) : (s.putTile t x).courts = s.courts := rfl
@[simp] theorem putTile_cport (s : State) (t : Nat) (x : Tile) : (s.putTile t x).cport = s.cport := rfl
@[simp] theorem putTile_ranges (s : State) (t : Nat) (x : Tile) : (s.putTile t x).ranges = s.ranges := rfl
@[simp] theorem putTile_roles (s : State) (t : Nat) (x : Tile) : (s.putTile t x).roles = s.roles := rfl
@[simp] theorem putTile_pkg (s : State) (t : Nat) (x : Tile) : (s.putTile t x).pkg = s.pkg := rfl
@[simp] theorem putTile_ngambi (s : State) (t : Nat) (x : Tile) : (s.putTile t x).ngambi = s.ngambi := rfl
@[simp] theorem putTile_powerAt (s : State) (t : Nat) (x : Tile) : (s.putTile t x).powerAt = s.powerAt := rfl
@[simp] theorem putTile_focusT (s : State) (t : Nat) (x : Tile) : (s.putTile t x).focusT = s.focusT := rfl
@[simp] theorem putTile_focusS (s : State) (t : Nat) (x : Tile) : (s.putTile t x).focusS = s.focusS := rfl
@[simp] theorem putTile_nextId (s : State) (t : Nat) (x : Tile) : (s.putTile t x).nextId = s.nextId := rfl
@[simp] theorem putTile_agenda (s : State) (t : Nat) (x : Tile) : (s.putTile t x).agenda = s.agenda := rfl
@[simp] theorem putTile_parked (s : State) (t : Nat) (x : Tile) : (s.putTile t x).parked = s.parked := rfl
@[simp] theorem putTile_evTurn (s : State) (t : Nat) (x : Tile) : (s.putTile t x).evTurn = s.evTurn := rfl
@[simp] theorem putTile_evNo (s : State) (t : Nat) (x : Tile) : (s.putTile t x).evNo = s.evNo := rfl
@[simp] theorem putTile_lastTile (s : State) (t : Nat) (x : Tile) : (s.putTile t x).lastTile = s.lastTile := rfl

/-! ## modTile -/

@[simp] theorem modTile_time (s : State) (t : Nat) (f : Tile → Tile) : (s.modTile t f).time = s.time := rfl
@[simp] theorem modTile_mem (s : State) (t : Nat) (f : Tile → Tile) : (s.modTile t f).mem = s.mem := rfl
@[simp] theorem modTile_marks (s : State) (t : Nat) (f : Tile → Tile) : (s.modTile t f).marks = s.marks := rfl
@[simp] theorem modTile_soft (s : State) (t : Nat) (f : Tile → Tile) : (s.modTile t f).soft = s.soft := rfl
@[simp] theorem modTile_hard (s : State) (t : Nat) (f : Tile → Tile) : (s.modTile t f).hard = s.hard := rfl
@[simp] theorem modTile_secded (s : State) (t : Nat) (f : Tile → Tile) : (s.modTile t f).secded = s.secded := rfl
@[simp] theorem modTile_dies (s : State) (t : Nat) (f : Tile → Tile) : (s.modTile t f).dies = s.dies := rfl
@[simp] theorem modTile_entries (s : State) (t : Nat) (f : Tile → Tile) : (s.modTile t f).entries = s.entries := rfl
@[simp] theorem modTile_agelim (s : State) (t : Nat) (f : Tile → Tile) : (s.modTile t f).agelim = s.agelim := rfl
@[simp] theorem modTile_clsPtr (s : State) (t : Nat) (f : Tile → Tile) : (s.modTile t f).clsPtr = s.clsPtr := rfl
@[simp] theorem modTile_dispQ (s : State) (t : Nat) (f : Tile → Tile) : (s.modTile t f).dispQ = s.dispQ := rfl
@[simp] theorem modTile_farReads (s : State) (t : Nat) (f : Tile → Tile) : (s.modTile t f).farReads = s.farReads := rfl
@[simp] theorem modTile_boundary (s : State) (t : Nat) (f : Tile → Tile) : (s.modTile t f).boundary = s.boundary := rfl
@[simp] theorem modTile_courts (s : State) (t : Nat) (f : Tile → Tile) : (s.modTile t f).courts = s.courts := rfl
@[simp] theorem modTile_cport (s : State) (t : Nat) (f : Tile → Tile) : (s.modTile t f).cport = s.cport := rfl
@[simp] theorem modTile_ranges (s : State) (t : Nat) (f : Tile → Tile) : (s.modTile t f).ranges = s.ranges := rfl
@[simp] theorem modTile_roles (s : State) (t : Nat) (f : Tile → Tile) : (s.modTile t f).roles = s.roles := rfl
@[simp] theorem modTile_pkg (s : State) (t : Nat) (f : Tile → Tile) : (s.modTile t f).pkg = s.pkg := rfl
@[simp] theorem modTile_ngambi (s : State) (t : Nat) (f : Tile → Tile) : (s.modTile t f).ngambi = s.ngambi := rfl
@[simp] theorem modTile_powerAt (s : State) (t : Nat) (f : Tile → Tile) : (s.modTile t f).powerAt = s.powerAt := rfl
@[simp] theorem modTile_focusT (s : State) (t : Nat) (f : Tile → Tile) : (s.modTile t f).focusT = s.focusT := rfl
@[simp] theorem modTile_focusS (s : State) (t : Nat) (f : Tile → Tile) : (s.modTile t f).focusS = s.focusS := rfl
@[simp] theorem modTile_nextId (s : State) (t : Nat) (f : Tile → Tile) : (s.modTile t f).nextId = s.nextId := rfl
@[simp] theorem modTile_agenda (s : State) (t : Nat) (f : Tile → Tile) : (s.modTile t f).agenda = s.agenda := rfl
@[simp] theorem modTile_parked (s : State) (t : Nat) (f : Tile → Tile) : (s.modTile t f).parked = s.parked := rfl
@[simp] theorem modTile_evTurn (s : State) (t : Nat) (f : Tile → Tile) : (s.modTile t f).evTurn = s.evTurn := rfl
@[simp] theorem modTile_evNo (s : State) (t : Nat) (f : Tile → Tile) : (s.modTile t f).evNo = s.evNo := rfl
@[simp] theorem modTile_lastTile (s : State) (t : Nat) (f : Tile → Tile) : (s.modTile t f).lastTile = s.lastTile := rfl

/-! ## modSlot -/

@[simp] theorem modSlot_time (s : State) (t k : Nat) (f : Slot → Slot) : (s.modSlot t k f).time = s.time := rfl
@[simp] theorem modSlot_mem (s : State) (t k : Nat) (f : Slot → Slot) : (s.modSlot t k f).mem = s.mem := rfl
@[simp] theorem modSlot_marks (s : State) (t k : Nat) (f : Slot → Slot) : (s.modSlot t k f).marks = s.marks := rfl
@[simp] theorem modSlot_soft (s : State) (t k : Nat) (f : Slot → Slot) : (s.modSlot t k f).soft = s.soft := rfl
@[simp] theorem modSlot_hard (s : State) (t k : Nat) (f : Slot → Slot) : (s.modSlot t k f).hard = s.hard := rfl
@[simp] theorem modSlot_secded (s : State) (t k : Nat) (f : Slot → Slot) : (s.modSlot t k f).secded = s.secded := rfl
@[simp] theorem modSlot_dies (s : State) (t k : Nat) (f : Slot → Slot) : (s.modSlot t k f).dies = s.dies := rfl
@[simp] theorem modSlot_entries (s : State) (t k : Nat) (f : Slot → Slot) : (s.modSlot t k f).entries = s.entries := rfl
@[simp] theorem modSlot_agelim (s : State) (t k : Nat) (f : Slot → Slot) : (s.modSlot t k f).agelim = s.agelim := rfl
@[simp] theorem modSlot_clsPtr (s : State) (t k : Nat) (f : Slot → Slot) : (s.modSlot t k f).clsPtr = s.clsPtr := rfl
@[simp] theorem modSlot_dispQ (s : State) (t k : Nat) (f : Slot → Slot) : (s.modSlot t k f).dispQ = s.dispQ := rfl
@[simp] theorem modSlot_farReads (s : State) (t k : Nat) (f : Slot → Slot) : (s.modSlot t k f).farReads = s.farReads := rfl
@[simp] theorem modSlot_boundary (s : State) (t k : Nat) (f : Slot → Slot) : (s.modSlot t k f).boundary = s.boundary := rfl
@[simp] theorem modSlot_courts (s : State) (t k : Nat) (f : Slot → Slot) : (s.modSlot t k f).courts = s.courts := rfl
@[simp] theorem modSlot_cport (s : State) (t k : Nat) (f : Slot → Slot) : (s.modSlot t k f).cport = s.cport := rfl
@[simp] theorem modSlot_ranges (s : State) (t k : Nat) (f : Slot → Slot) : (s.modSlot t k f).ranges = s.ranges := rfl
@[simp] theorem modSlot_roles (s : State) (t k : Nat) (f : Slot → Slot) : (s.modSlot t k f).roles = s.roles := rfl
@[simp] theorem modSlot_pkg (s : State) (t k : Nat) (f : Slot → Slot) : (s.modSlot t k f).pkg = s.pkg := rfl
@[simp] theorem modSlot_ngambi (s : State) (t k : Nat) (f : Slot → Slot) : (s.modSlot t k f).ngambi = s.ngambi := rfl
@[simp] theorem modSlot_powerAt (s : State) (t k : Nat) (f : Slot → Slot) : (s.modSlot t k f).powerAt = s.powerAt := rfl
@[simp] theorem modSlot_focusT (s : State) (t k : Nat) (f : Slot → Slot) : (s.modSlot t k f).focusT = s.focusT := rfl
@[simp] theorem modSlot_focusS (s : State) (t k : Nat) (f : Slot → Slot) : (s.modSlot t k f).focusS = s.focusS := rfl
@[simp] theorem modSlot_nextId (s : State) (t k : Nat) (f : Slot → Slot) : (s.modSlot t k f).nextId = s.nextId := rfl
@[simp] theorem modSlot_agenda (s : State) (t k : Nat) (f : Slot → Slot) : (s.modSlot t k f).agenda = s.agenda := rfl
@[simp] theorem modSlot_parked (s : State) (t k : Nat) (f : Slot → Slot) : (s.modSlot t k f).parked = s.parked := rfl
@[simp] theorem modSlot_evTurn (s : State) (t k : Nat) (f : Slot → Slot) : (s.modSlot t k f).evTurn = s.evTurn := rfl
@[simp] theorem modSlot_evNo (s : State) (t k : Nat) (f : Slot → Slot) : (s.modSlot t k f).evNo = s.evNo := rfl
@[simp] theorem modSlot_lastTile (s : State) (t k : Nat) (f : Slot → Slot) : (s.modSlot t k f).lastTile = s.lastTile := rfl

/-! ## modCur -/

@[simp] theorem modCur_time (s : State) (f : Slot → Slot) : (s.modCur f).time = s.time := rfl
@[simp] theorem modCur_mem (s : State) (f : Slot → Slot) : (s.modCur f).mem = s.mem := rfl
@[simp] theorem modCur_marks (s : State) (f : Slot → Slot) : (s.modCur f).marks = s.marks := rfl
@[simp] theorem modCur_soft (s : State) (f : Slot → Slot) : (s.modCur f).soft = s.soft := rfl
@[simp] theorem modCur_hard (s : State) (f : Slot → Slot) : (s.modCur f).hard = s.hard := rfl
@[simp] theorem modCur_secded (s : State) (f : Slot → Slot) : (s.modCur f).secded = s.secded := rfl
@[simp] theorem modCur_dies (s : State) (f : Slot → Slot) : (s.modCur f).dies = s.dies := rfl
@[simp] theorem modCur_entries (s : State) (f : Slot → Slot) : (s.modCur f).entries = s.entries := rfl
@[simp] theorem modCur_agelim (s : State) (f : Slot → Slot) : (s.modCur f).agelim = s.agelim := rfl
@[simp] theorem modCur_clsPtr (s : State) (f : Slot → Slot) : (s.modCur f).clsPtr = s.clsPtr := rfl
@[simp] theorem modCur_dispQ (s : State) (f : Slot → Slot) : (s.modCur f).dispQ = s.dispQ := rfl
@[simp] theorem modCur_farReads (s : State) (f : Slot → Slot) : (s.modCur f).farReads = s.farReads := rfl
@[simp] theorem modCur_boundary (s : State) (f : Slot → Slot) : (s.modCur f).boundary = s.boundary := rfl
@[simp] theorem modCur_courts (s : State) (f : Slot → Slot) : (s.modCur f).courts = s.courts := rfl
@[simp] theorem modCur_cport (s : State) (f : Slot → Slot) : (s.modCur f).cport = s.cport := rfl
@[simp] theorem modCur_ranges (s : State) (f : Slot → Slot) : (s.modCur f).ranges = s.ranges := rfl
@[simp] theorem modCur_roles (s : State) (f : Slot → Slot) : (s.modCur f).roles = s.roles := rfl
@[simp] theorem modCur_pkg (s : State) (f : Slot → Slot) : (s.modCur f).pkg = s.pkg := rfl
@[simp] theorem modCur_ngambi (s : State) (f : Slot → Slot) : (s.modCur f).ngambi = s.ngambi := rfl
@[simp] theorem modCur_powerAt (s : State) (f : Slot → Slot) : (s.modCur f).powerAt = s.powerAt := rfl
@[simp] theorem modCur_focusT (s : State) (f : Slot → Slot) : (s.modCur f).focusT = s.focusT := rfl
@[simp] theorem modCur_focusS (s : State) (f : Slot → Slot) : (s.modCur f).focusS = s.focusS := rfl
@[simp] theorem modCur_nextId (s : State) (f : Slot → Slot) : (s.modCur f).nextId = s.nextId := rfl
@[simp] theorem modCur_agenda (s : State) (f : Slot → Slot) : (s.modCur f).agenda = s.agenda := rfl
@[simp] theorem modCur_parked (s : State) (f : Slot → Slot) : (s.modCur f).parked = s.parked := rfl
@[simp] theorem modCur_evTurn (s : State) (f : Slot → Slot) : (s.modCur f).evTurn = s.evTurn := rfl
@[simp] theorem modCur_evNo (s : State) (f : Slot → Slot) : (s.modCur f).evNo = s.evNo := rfl
@[simp] theorem modCur_lastTile (s : State) (f : Slot → Slot) : (s.modCur f).lastTile = s.lastTile := rfl

/-! ## modCol -/

@[simp] theorem modCol_time (s : State) (t : Nat) (f : Collar → Collar) : (s.modCol t f).time = s.time := rfl
@[simp] theorem modCol_mem (s : State) (t : Nat) (f : Collar → Collar) : (s.modCol t f).mem = s.mem := rfl
@[simp] theorem modCol_marks (s : State) (t : Nat) (f : Collar → Collar) : (s.modCol t f).marks = s.marks := rfl
@[simp] theorem modCol_soft (s : State) (t : Nat) (f : Collar → Collar) : (s.modCol t f).soft = s.soft := rfl
@[simp] theorem modCol_hard (s : State) (t : Nat) (f : Collar → Collar) : (s.modCol t f).hard = s.hard := rfl
@[simp] theorem modCol_secded (s : State) (t : Nat) (f : Collar → Collar) : (s.modCol t f).secded = s.secded := rfl
@[simp] theorem modCol_dies (s : State) (t : Nat) (f : Collar → Collar) : (s.modCol t f).dies = s.dies := rfl
@[simp] theorem modCol_entries (s : State) (t : Nat) (f : Collar → Collar) : (s.modCol t f).entries = s.entries := rfl
@[simp] theorem modCol_agelim (s : State) (t : Nat) (f : Collar → Collar) : (s.modCol t f).agelim = s.agelim := rfl
@[simp] theorem modCol_clsPtr (s : State) (t : Nat) (f : Collar → Collar) : (s.modCol t f).clsPtr = s.clsPtr := rfl
@[simp] theorem modCol_dispQ (s : State) (t : Nat) (f : Collar → Collar) : (s.modCol t f).dispQ = s.dispQ := rfl
@[simp] theorem modCol_farReads (s : State) (t : Nat) (f : Collar → Collar) : (s.modCol t f).farReads = s.farReads := rfl
@[simp] theorem modCol_boundary (s : State) (t : Nat) (f : Collar → Collar) : (s.modCol t f).boundary = s.boundary := rfl
@[simp] theorem modCol_courts (s : State) (t : Nat) (f : Collar → Collar) : (s.modCol t f).courts = s.courts := rfl
@[simp] theorem modCol_cport (s : State) (t : Nat) (f : Collar → Collar) : (s.modCol t f).cport = s.cport := rfl
@[simp] theorem modCol_ranges (s : State) (t : Nat) (f : Collar → Collar) : (s.modCol t f).ranges = s.ranges := rfl
@[simp] theorem modCol_roles (s : State) (t : Nat) (f : Collar → Collar) : (s.modCol t f).roles = s.roles := rfl
@[simp] theorem modCol_pkg (s : State) (t : Nat) (f : Collar → Collar) : (s.modCol t f).pkg = s.pkg := rfl
@[simp] theorem modCol_ngambi (s : State) (t : Nat) (f : Collar → Collar) : (s.modCol t f).ngambi = s.ngambi := rfl
@[simp] theorem modCol_powerAt (s : State) (t : Nat) (f : Collar → Collar) : (s.modCol t f).powerAt = s.powerAt := rfl
@[simp] theorem modCol_focusT (s : State) (t : Nat) (f : Collar → Collar) : (s.modCol t f).focusT = s.focusT := rfl
@[simp] theorem modCol_focusS (s : State) (t : Nat) (f : Collar → Collar) : (s.modCol t f).focusS = s.focusS := rfl
@[simp] theorem modCol_nextId (s : State) (t : Nat) (f : Collar → Collar) : (s.modCol t f).nextId = s.nextId := rfl
@[simp] theorem modCol_agenda (s : State) (t : Nat) (f : Collar → Collar) : (s.modCol t f).agenda = s.agenda := rfl
@[simp] theorem modCol_parked (s : State) (t : Nat) (f : Collar → Collar) : (s.modCol t f).parked = s.parked := rfl
@[simp] theorem modCol_evTurn (s : State) (t : Nat) (f : Collar → Collar) : (s.modCol t f).evTurn = s.evTurn := rfl
@[simp] theorem modCol_evNo (s : State) (t : Nat) (f : Collar → Collar) : (s.modCol t f).evNo = s.evNo := rfl
@[simp] theorem modCol_lastTile (s : State) (t : Nat) (f : Collar → Collar) : (s.modCol t f).lastTile = s.lastTile := rfl

/-! ## modDie -/

@[simp] theorem modDie_time (s : State) (d : Nat) (f : Die → Die) : (s.modDie d f).time = s.time := rfl
@[simp] theorem modDie_mem (s : State) (d : Nat) (f : Die → Die) : (s.modDie d f).mem = s.mem := rfl
@[simp] theorem modDie_marks (s : State) (d : Nat) (f : Die → Die) : (s.modDie d f).marks = s.marks := rfl
@[simp] theorem modDie_soft (s : State) (d : Nat) (f : Die → Die) : (s.modDie d f).soft = s.soft := rfl
@[simp] theorem modDie_hard (s : State) (d : Nat) (f : Die → Die) : (s.modDie d f).hard = s.hard := rfl
@[simp] theorem modDie_secded (s : State) (d : Nat) (f : Die → Die) : (s.modDie d f).secded = s.secded := rfl
@[simp] theorem modDie_tiles (s : State) (d : Nat) (f : Die → Die) : (s.modDie d f).tiles = s.tiles := rfl
@[simp] theorem modDie_entries (s : State) (d : Nat) (f : Die → Die) : (s.modDie d f).entries = s.entries := rfl
@[simp] theorem modDie_agelim (s : State) (d : Nat) (f : Die → Die) : (s.modDie d f).agelim = s.agelim := rfl
@[simp] theorem modDie_clsPtr (s : State) (d : Nat) (f : Die → Die) : (s.modDie d f).clsPtr = s.clsPtr := rfl
@[simp] theorem modDie_dispQ (s : State) (d : Nat) (f : Die → Die) : (s.modDie d f).dispQ = s.dispQ := rfl
@[simp] theorem modDie_farReads (s : State) (d : Nat) (f : Die → Die) : (s.modDie d f).farReads = s.farReads := rfl
@[simp] theorem modDie_boundary (s : State) (d : Nat) (f : Die → Die) : (s.modDie d f).boundary = s.boundary := rfl
@[simp] theorem modDie_courts (s : State) (d : Nat) (f : Die → Die) : (s.modDie d f).courts = s.courts := rfl
@[simp] theorem modDie_cport (s : State) (d : Nat) (f : Die → Die) : (s.modDie d f).cport = s.cport := rfl
@[simp] theorem modDie_ranges (s : State) (d : Nat) (f : Die → Die) : (s.modDie d f).ranges = s.ranges := rfl
@[simp] theorem modDie_roles (s : State) (d : Nat) (f : Die → Die) : (s.modDie d f).roles = s.roles := rfl
@[simp] theorem modDie_pkg (s : State) (d : Nat) (f : Die → Die) : (s.modDie d f).pkg = s.pkg := rfl
@[simp] theorem modDie_ngambi (s : State) (d : Nat) (f : Die → Die) : (s.modDie d f).ngambi = s.ngambi := rfl
@[simp] theorem modDie_powerAt (s : State) (d : Nat) (f : Die → Die) : (s.modDie d f).powerAt = s.powerAt := rfl
@[simp] theorem modDie_focusT (s : State) (d : Nat) (f : Die → Die) : (s.modDie d f).focusT = s.focusT := rfl
@[simp] theorem modDie_focusS (s : State) (d : Nat) (f : Die → Die) : (s.modDie d f).focusS = s.focusS := rfl
@[simp] theorem modDie_nextId (s : State) (d : Nat) (f : Die → Die) : (s.modDie d f).nextId = s.nextId := rfl
@[simp] theorem modDie_agenda (s : State) (d : Nat) (f : Die → Die) : (s.modDie d f).agenda = s.agenda := rfl
@[simp] theorem modDie_parked (s : State) (d : Nat) (f : Die → Die) : (s.modDie d f).parked = s.parked := rfl
@[simp] theorem modDie_evTurn (s : State) (d : Nat) (f : Die → Die) : (s.modDie d f).evTurn = s.evTurn := rfl
@[simp] theorem modDie_evNo (s : State) (d : Nat) (f : Die → Die) : (s.modDie d f).evNo = s.evNo := rfl
@[simp] theorem modDie_lastTile (s : State) (d : Nat) (f : Die → Die) : (s.modDie d f).lastTile = s.lastTile := rfl

/-! ## modCourt -/

@[simp] theorem modCourt_time (s : State) (n : Nat) (f : Court → Court) : (s.modCourt n f).time = s.time := rfl
@[simp] theorem modCourt_mem (s : State) (n : Nat) (f : Court → Court) : (s.modCourt n f).mem = s.mem := rfl
@[simp] theorem modCourt_marks (s : State) (n : Nat) (f : Court → Court) : (s.modCourt n f).marks = s.marks := rfl
@[simp] theorem modCourt_soft (s : State) (n : Nat) (f : Court → Court) : (s.modCourt n f).soft = s.soft := rfl
@[simp] theorem modCourt_hard (s : State) (n : Nat) (f : Court → Court) : (s.modCourt n f).hard = s.hard := rfl
@[simp] theorem modCourt_secded (s : State) (n : Nat) (f : Court → Court) : (s.modCourt n f).secded = s.secded := rfl
@[simp] theorem modCourt_tiles (s : State) (n : Nat) (f : Court → Court) : (s.modCourt n f).tiles = s.tiles := rfl
@[simp] theorem modCourt_dies (s : State) (n : Nat) (f : Court → Court) : (s.modCourt n f).dies = s.dies := rfl
@[simp] theorem modCourt_entries (s : State) (n : Nat) (f : Court → Court) : (s.modCourt n f).entries = s.entries := rfl
@[simp] theorem modCourt_agelim (s : State) (n : Nat) (f : Court → Court) : (s.modCourt n f).agelim = s.agelim := rfl
@[simp] theorem modCourt_clsPtr (s : State) (n : Nat) (f : Court → Court) : (s.modCourt n f).clsPtr = s.clsPtr := rfl
@[simp] theorem modCourt_dispQ (s : State) (n : Nat) (f : Court → Court) : (s.modCourt n f).dispQ = s.dispQ := rfl
@[simp] theorem modCourt_farReads (s : State) (n : Nat) (f : Court → Court) : (s.modCourt n f).farReads = s.farReads := rfl
@[simp] theorem modCourt_boundary (s : State) (n : Nat) (f : Court → Court) : (s.modCourt n f).boundary = s.boundary := rfl
@[simp] theorem modCourt_cport (s : State) (n : Nat) (f : Court → Court) : (s.modCourt n f).cport = s.cport := rfl
@[simp] theorem modCourt_ranges (s : State) (n : Nat) (f : Court → Court) : (s.modCourt n f).ranges = s.ranges := rfl
@[simp] theorem modCourt_roles (s : State) (n : Nat) (f : Court → Court) : (s.modCourt n f).roles = s.roles := rfl
@[simp] theorem modCourt_pkg (s : State) (n : Nat) (f : Court → Court) : (s.modCourt n f).pkg = s.pkg := rfl
@[simp] theorem modCourt_ngambi (s : State) (n : Nat) (f : Court → Court) : (s.modCourt n f).ngambi = s.ngambi := rfl
@[simp] theorem modCourt_powerAt (s : State) (n : Nat) (f : Court → Court) : (s.modCourt n f).powerAt = s.powerAt := rfl
@[simp] theorem modCourt_focusT (s : State) (n : Nat) (f : Court → Court) : (s.modCourt n f).focusT = s.focusT := rfl
@[simp] theorem modCourt_focusS (s : State) (n : Nat) (f : Court → Court) : (s.modCourt n f).focusS = s.focusS := rfl
@[simp] theorem modCourt_nextId (s : State) (n : Nat) (f : Court → Court) : (s.modCourt n f).nextId = s.nextId := rfl
@[simp] theorem modCourt_agenda (s : State) (n : Nat) (f : Court → Court) : (s.modCourt n f).agenda = s.agenda := rfl
@[simp] theorem modCourt_parked (s : State) (n : Nat) (f : Court → Court) : (s.modCourt n f).parked = s.parked := rfl
@[simp] theorem modCourt_evTurn (s : State) (n : Nat) (f : Court → Court) : (s.modCourt n f).evTurn = s.evTurn := rfl
@[simp] theorem modCourt_evNo (s : State) (n : Nat) (f : Court → Court) : (s.modCourt n f).evNo = s.evNo := rfl
@[simp] theorem modCourt_lastTile (s : State) (n : Nat) (f : Court → Court) : (s.modCourt n f).lastTile = s.lastTile := rfl

/-! ## modEntry -/

@[simp] theorem modEntry_time (s : State) (e : Nat) (f : Entry → Entry) : (s.modEntry e f).time = s.time := rfl
@[simp] theorem modEntry_mem (s : State) (e : Nat) (f : Entry → Entry) : (s.modEntry e f).mem = s.mem := rfl
@[simp] theorem modEntry_marks (s : State) (e : Nat) (f : Entry → Entry) : (s.modEntry e f).marks = s.marks := rfl
@[simp] theorem modEntry_soft (s : State) (e : Nat) (f : Entry → Entry) : (s.modEntry e f).soft = s.soft := rfl
@[simp] theorem modEntry_hard (s : State) (e : Nat) (f : Entry → Entry) : (s.modEntry e f).hard = s.hard := rfl
@[simp] theorem modEntry_secded (s : State) (e : Nat) (f : Entry → Entry) : (s.modEntry e f).secded = s.secded := rfl
@[simp] theorem modEntry_tiles (s : State) (e : Nat) (f : Entry → Entry) : (s.modEntry e f).tiles = s.tiles := rfl
@[simp] theorem modEntry_dies (s : State) (e : Nat) (f : Entry → Entry) : (s.modEntry e f).dies = s.dies := rfl
@[simp] theorem modEntry_agelim (s : State) (e : Nat) (f : Entry → Entry) : (s.modEntry e f).agelim = s.agelim := rfl
@[simp] theorem modEntry_clsPtr (s : State) (e : Nat) (f : Entry → Entry) : (s.modEntry e f).clsPtr = s.clsPtr := rfl
@[simp] theorem modEntry_dispQ (s : State) (e : Nat) (f : Entry → Entry) : (s.modEntry e f).dispQ = s.dispQ := rfl
@[simp] theorem modEntry_farReads (s : State) (e : Nat) (f : Entry → Entry) : (s.modEntry e f).farReads = s.farReads := rfl
@[simp] theorem modEntry_boundary (s : State) (e : Nat) (f : Entry → Entry) : (s.modEntry e f).boundary = s.boundary := rfl
@[simp] theorem modEntry_courts (s : State) (e : Nat) (f : Entry → Entry) : (s.modEntry e f).courts = s.courts := rfl
@[simp] theorem modEntry_cport (s : State) (e : Nat) (f : Entry → Entry) : (s.modEntry e f).cport = s.cport := rfl
@[simp] theorem modEntry_ranges (s : State) (e : Nat) (f : Entry → Entry) : (s.modEntry e f).ranges = s.ranges := rfl
@[simp] theorem modEntry_roles (s : State) (e : Nat) (f : Entry → Entry) : (s.modEntry e f).roles = s.roles := rfl
@[simp] theorem modEntry_pkg (s : State) (e : Nat) (f : Entry → Entry) : (s.modEntry e f).pkg = s.pkg := rfl
@[simp] theorem modEntry_ngambi (s : State) (e : Nat) (f : Entry → Entry) : (s.modEntry e f).ngambi = s.ngambi := rfl
@[simp] theorem modEntry_powerAt (s : State) (e : Nat) (f : Entry → Entry) : (s.modEntry e f).powerAt = s.powerAt := rfl
@[simp] theorem modEntry_focusT (s : State) (e : Nat) (f : Entry → Entry) : (s.modEntry e f).focusT = s.focusT := rfl
@[simp] theorem modEntry_focusS (s : State) (e : Nat) (f : Entry → Entry) : (s.modEntry e f).focusS = s.focusS := rfl
@[simp] theorem modEntry_nextId (s : State) (e : Nat) (f : Entry → Entry) : (s.modEntry e f).nextId = s.nextId := rfl
@[simp] theorem modEntry_agenda (s : State) (e : Nat) (f : Entry → Entry) : (s.modEntry e f).agenda = s.agenda := rfl
@[simp] theorem modEntry_parked (s : State) (e : Nat) (f : Entry → Entry) : (s.modEntry e f).parked = s.parked := rfl
@[simp] theorem modEntry_evTurn (s : State) (e : Nat) (f : Entry → Entry) : (s.modEntry e f).evTurn = s.evTurn := rfl
@[simp] theorem modEntry_evNo (s : State) (e : Nat) (f : Entry → Entry) : (s.modEntry e f).evNo = s.evNo := rfl
@[simp] theorem modEntry_lastTile (s : State) (e : Nat) (f : Entry → Entry) : (s.modEntry e f).lastTile = s.lastTile := rfl

/-! ## Reads of tiles and slots -/

@[simp] theorem tile_putTile_self (s : State) (t : Nat) (x : Tile) : (s.putTile t x).tile t = x := by simp [State.tile, State.putTile]
theorem tile_putTile_ne (s : State) {t u : Nat} (x : Tile) (h : u ≠ t) : (s.putTile t x).tile u = s.tile u := by
  simp [State.tile, State.putTile, at_put_ne _ _ _ h]
@[simp] theorem tile_modTile_self (s : State) (t : Nat) (f : Tile → Tile) : (s.modTile t f).tile t = f (s.tile t) := by simp [State.modTile]
theorem tile_modTile_ne (s : State) {t u : Nat} (f : Tile → Tile) (h : u ≠ t) : (s.modTile t f).tile u = s.tile u := by
  simp [State.modTile, tile_putTile_ne _ _ h]
@[simp] theorem slot_putSlot_self (x : Tile) (k : Nat) (sl : Slot) : (x.putSlot k sl).slot k = sl := by simp [Tile.slot, Tile.putSlot]
theorem slot_putSlot_ne (x : Tile) {k j : Nat} (sl : Slot) (h : j ≠ k) : (x.putSlot k sl).slot j = x.slot j := by
  simp [Tile.slot, Tile.putSlot, at_put_ne _ _ _ h]
@[simp] theorem slot_modSlot_self (s : State) (t k : Nat) (f : Slot → Slot) : (s.modSlot t k f).slot t k = f (s.slot t k) := by
  simp [State.slot, State.modSlot, Tile.modSlot]
theorem slot_modSlot_ne (s : State) {t k u j : Nat} (f : Slot → Slot) (h : ¬(u = t ∧ j = k)) : (s.modSlot t k f).slot u j = s.slot u j := by
  by_cases e : u = t
  · subst e
    simp only [State.slot, State.modSlot, tile_modTile_self, Tile.modSlot]
    exact slot_putSlot_ne _ _ fun e => h ⟨rfl, e⟩
  · simp [State.slot, State.modSlot, tile_modTile_ne _ _ e]
@[simp] theorem cur_modCur (s : State) (f : Slot → Slot) : (s.modCur f).cur = f s.cur := by simp [State.cur, State.modCur]
@[simp] theorem rf_modCur (s : State) (f : Slot → Slot) : (s.modCur f).slot s.focusT s.focusS = f s.cur := cur_modCur s f

/-! ## Reads of registers and predicates -/

@[simp] theorem get_zero (r : RegFile) : r.get 0 = {} := rfl
@[simp] theorem get_set_reg_self (r : RegFile) (i : Nat) (v : PWord) (h : i ≠ 0) : (r.set i v).get i = v := by simp [RegFile.set, RegFile.get, h]
theorem get_set_reg_ne (r : RegFile) {i j : Nat} (v : PWord) (h : j ≠ i) : (r.set i v).get j = r.get j := by
  unfold RegFile.set RegFile.get
  by_cases hi : i = 0
  · simp [hi]
  · by_cases hj : j = 0
    · simp [hj]
    · simp only [if_neg hi, if_neg hj]
      exact at_put_ne _ _ _ h
@[simp] theorem set_zero (r : RegFile) (v : PWord) : r.set 0 v = r := rfl
@[simp] theorem set_p (r : RegFile) (i : Nat) (v : PWord) : (r.set i v).p = r.p := by unfold RegFile.set; split <;> rfl
@[simp] theorem set_pc (r : RegFile) (i : Nat) (v : PWord) : (r.set i v).pc = r.pc := by unfold RegFile.set; split <;> rfl
@[simp] theorem set_lkd (r : RegFile) (i : Nat) (v : PWord) : (r.set i v).lkd = r.lkd := by unfold RegFile.set; split <;> rfl
@[simp] theorem set_lc0 (r : RegFile) (i : Nat) (v : PWord) : (r.set i v).lc0 = r.lc0 := by unfold RegFile.set; split <;> rfl
@[simp] theorem set_lc1 (r : RegFile) (i : Nat) (v : PWord) : (r.set i v).lc1 = r.lc1 := by unfold RegFile.set; split <;> rfl
@[simp] theorem loopEnd_s (r : RegFile) : r.loopEnd.s = r.s := by unfold RegFile.loopEnd; simp only; (repeat' split) <;> rfl
@[simp] theorem loopEnd_p (r : RegFile) : r.loopEnd.p = r.p := by unfold RegFile.loopEnd; simp only; (repeat' split) <;> rfl
@[simp] theorem loopEnd_lkd (r : RegFile) : r.loopEnd.lkd = r.lkd := by unfold RegFile.loopEnd; simp only; (repeat' split) <;> rfl
@[simp] theorem loopEnd_get (r : RegFile) (i : Nat) : r.loopEnd.get i = r.get i := by simp [RegFile.get]
@[simp] theorem loopEnd_pred (r : RegFile) (i : Nat) : r.loopEnd.pred i = r.pred i := by simp [RegFile.pred]

end Sys2Proof.Machine
end

