-- ==== Sys2Proof/Laws/Ops.lean ====
section
/-! SUPPORT. The shared operations of issuing tasks: what each gives, once, so that no later proof unfolds it. -/

namespace Sys2Proof.Laws

open Sys2Proof.Machine Sys2Proof.Safety

/-! ## Issuing -/

/-- An instruction without a hold of its own never stands at itself. -/
theorem not_held (sl : Slot) : sl.held (fun _ => false) = false := by
  unfold Slot.held
  cases sl.task with
  | none => rfl
  | some ti => simp only; cases ti.hold <;> rfl

/-- All that issuing can do: nothing, a step over a false guard, or the instruction's effect. -/
theorem issue_cases (s : State) (n : Need) (body : Out) :
    s.issue n body = .next s ∨ (s.cur.rf.guardTrue n.g = false ∧ s.issue n body = s.retire id) ∨ (Runs s n ∧ s.issue n body = body) := by
  simp only [State.issue, State.issueOwn, not_held]
  by_cases h1 : (!s.cur.mayIssue s.curTile s.time (fun _ => false) || s.stopsHere) = true
  · exact .inl (by simp [h1])
  by_cases h2 : s.cur.busyPred (n.g.toNat % 8) = true
  · exact .inl (by simp [h1, h2])
  by_cases h3 : s.cur.rf.guardTrue n.g = true
  · by_cases h4 : (!s.cur.operandsFree s.curTile n || s.cur.fenced s.curTile n.cls) = true
    · exact .inl (by simp [h1, h2, h3, h4])
    · refine .inr (.inr ⟨⟨?_, ⟨by simpa using h2, h3⟩, ?_⟩, by simp [h1, h2, h3, h4]⟩)
      · simpa [MayIssue] using h1
      · simpa [Free] using h4
  · exact .inr (.inl ⟨by simpa using h3, by simp [h1, h2, h3]⟩)

/-- An instruction that runs has its effect. -/
theorem issue_of_runs {s : State} {n : Need} (h : Runs s n) (body : Out) : s.issue n body = body := by
  obtain ⟨⟨h1, h2⟩, ⟨h3, h4⟩, h5, h6⟩ := h
  simp [State.issue, State.issueOwn, h1, h2, h3, h4, h5, h6, not_held]

/-- The same for an instruction that may hold its task, and does not hold it yet. -/
theorem issueOwn_of_runs {s : State} {n : Need} {own : Hold → Bool} (h : Runs s n) (body : Out) (hh : s.cur.held own = false)
    (hm : s.cur.mayIssue s.curTile s.time own = true) : s.issueOwn own n body = body := by
  obtain ⟨⟨_, h2⟩, ⟨h3, h4⟩, h5, h6⟩ := h
  simp [State.issueOwn, hm, h2, h3, h4, h5, h6, hh]

/-- A task that may issue has a task, and no hold but that of a YIELD that is over. -/
theorem mayIssue_task {sl : Slot} {x : Tile} {now : Nat} (h : sl.mayIssue x now (fun _ => false) = true) :
    ∃ ti, sl.task = some ti ∧ (ti.hold = .none ∨ ∃ a b, ti.hold = .yield a b) := by
  unfold Slot.mayIssue at h
  cases e : sl.task with
  | none => simp [e] at h
  | some ti =>
    refine ⟨ti, rfl, ?_⟩
    simp only [e, Bool.and_eq_true] at h
    have := h.1.2
    unfold Tile.holdOk at this
    cases eh : ti.hold <;> simp_all

/-- What an instruction may issue under, it may issue under with holds of its own. -/
theorem mayIssue_own {sl : Slot} {x : Tile} {now : Nat} (own : Hold → Bool) (h : sl.mayIssue x now (fun _ => false) = true) :
    sl.mayIssue x now own = true ∧ sl.held own = false := by
  obtain ⟨ti, ht, hh⟩ := mayIssue_task h
  unfold Slot.mayIssue Slot.held at *
  rcases hh with hh | ⟨a, b, hh⟩ <;> simp_all [Tile.holdOk]

theorem issueOwn_runs {s : State} {n : Need} {own : Hold → Bool} (h : Runs s n) (body : Out) : s.issueOwn own n body = body :=
  issueOwn_of_runs h body (mayIssue_own own h.1.1).2 (mayIssue_own own h.1.1).1

/-- A privileged task issues a privileged instruction like any other. -/
theorem issuePriv_of_runs {s : State} {n : Need} (h : Runs s n) (hp : s.cur.sr.priv = true) (w : IWord) (body : Out) : s.issuePriv w n body = body := by
  simp [State.issuePriv, h.1.1, h.1.2, hp, issue_of_runs h]

/-- A user task traps PRIV at a privileged instruction, whatever its guard. -/
theorem issuePriv_user {s : State} (h : MayIssue s) (hp : s.cur.sr.priv = false) (w : IWord) (n : Need) (body : Out) :
    s.issuePriv w n body = s.trapHere cPriv (w.setWidth 64) := by
  simp [State.issuePriv, h.1, h.2, hp]

/-- All that the consuming reads can do. -/
theorem consume_cases (s : State) (rs : List Nat) (body : Out) :
    (Clean s rs ∧ s.consume rs body = body) ∨
      ∃ i ∈ rs, (s.cur.rf.get i).poi = true ∧ s.consume rs body = s.trapHere cPoisonUse (BitVec.ofNat 64 i) := by
  unfold State.consume RegFile.firstPoison
  cases h : rs.find? fun i => (s.cur.rf.get i).poi with
  | none =>
    refine .inl ⟨fun r hr => ?_, rfl⟩
    simpa using List.find?_eq_none.1 h r hr
  | some i => exact .inr ⟨i, List.mem_of_find?_eq_some h, by simpa using List.find?_some h, rfl⟩

theorem consume_clean {s : State} {rs : List Nat} (h : Clean s rs) (body : Out) : s.consume rs body = body := by
  rcases consume_cases s rs body with h' | ⟨i, hi, hp, _⟩
  · exact h'.2
  · exact absurd hp (by simp [h i hi])

/-! ## Going on -/

theorem runOff_stays {s : State} (h : s.cur.rf.pc ≠ 0x40000#32) : s.runOff = s := by simp [State.runOff, h]

/-- The loop-end check does not look at scalar registers. -/
theorem loopEnd_set (r : RegFile) (d : Nat) (v : PWord) : (r.set d v).loopEnd = r.loopEnd.set d v := by
  by_cases hd : d = 0
  · simp [hd]
  · simp only [RegFile.loopEnd, set_pc, set_lc0, set_lc1]
    (repeat' split) <;> simp_all [RegFile.set]

theorem loopEnd_setPred (r : RegFile) (p : Nat) (b : Bool) : (r.setPred p b).loopEnd = r.loopEnd.setPred p b := by
  by_cases hp : p = 0
  · simp [hp, RegFile.setPred]
  · simp only [RegFile.loopEnd, RegFile.setPred, if_neg hp]
    (repeat' split) <;> simp_all

theorem loopEnd_links (r : RegFile) : SameLinks r r.loopEnd := by
  unfold RegFile.loopEnd SameLinks
  simp only
  (repeat' split) <;> simp

theorem set_links (r : RegFile) (d : Nat) (v : PWord) : SameLinks r (r.set d v) := by
  unfold RegFile.set SameLinks
  split <;> simp

theorem setPred_links (r : RegFile) (d : Nat) (v : Bool) : SameLinks r (r.setPred d v) := by
  unfold RegFile.setPred SameLinks
  split <;> simp

theorem links_trans {a b c : RegFile} (h : SameLinks a b) (k : SameLinks b c) : SameLinks a c := by
  simp_all [SameLinks]

/-- One slot changed: nothing else differs. -/
theorem onlySlot_modSlot (s : State) (t k : Nat) (f : Slot → Slot) : OnlySlot s (s.modSlot t k f) t k := by
  refine ⟨fun a => rfl, rfl, fun v => ?_, fun v j h => slot_modSlot_ne s f h⟩
  by_cases e : v = t
  · subst e
    simp [State.modSlot, Tile.modSlot, Tile.putSlot]
  · simp [State.modSlot, tile_modTile_ne _ _ e]

theorem onlyFile_modCur (s : State) (f : Slot → Slot) (h : { f s.cur with rf := s.cur.rf, issues := s.cur.issues } = s.cur) : OnlyFile s (s.modCur f) :=
  ⟨onlySlot_modSlot s s.focusT s.focusS f, by simpa using h⟩

/-- An instruction that writes one scalar register completes. -/
theorem retire_reg {s : State} (h : Stays s) (d : Nat) (v : PWord) :
    ∃ u, (s.retire fun sl => sl.modRf fun r => r.set d v) = .next u ∧ RegDone s u d v := by
  refine ⟨_, rfl, ?_⟩
  have hp : (s.modCur fun sl => (sl.modRf fun r => r.set d v).advance).cur.rf.pc ≠ 0x40000#32 := by
    simpa [Slot.modRf, Slot.advance, loopEnd_set] using (show s.cur.rf.loopEnd.pc ≠ 0x40000#32 from h)
  rw [runOff_stays hp]
  refine ⟨onlyFile_modCur _ _ rfl, ?_, ?_, fun r => ?_, ?_⟩
  · simp only [cur_modCur, Slot.modRf, Slot.advance, loopEnd_set]
    exact links_trans (loopEnd_links _) (set_links _ _ _)
  · simp [GoesOn, Slot.modRf, Slot.advance, loopEnd_set]
  · simp only [cur_modCur, Slot.modRf, Slot.advance, loopEnd_get]
    by_cases e : r = d
    · subst e
      by_cases hr : r = 0 <;> simp [hr]
    · simp [e, get_set_reg_ne _ _ e]
  · simp [Slot.modRf, Slot.advance]

/-- An instruction without effect of its own completes. -/
theorem retire_nothing {s : State} (h : Stays s) : ∃ u, s.retire id = .next u ∧ NothingDone s u := by
  refine ⟨_, rfl, ?_⟩
  have hp : (s.modCur fun sl => (id sl).advance).cur.rf.pc ≠ 0x40000#32 := by
    simpa [Slot.advance] using (show s.cur.rf.loopEnd.pc ≠ 0x40000#32 from h)
  rw [runOff_stays hp]
  refine ⟨onlyFile_modCur _ _ rfl, ?_, ?_, fun r => ?_, ?_⟩
  · simpa [Slot.advance] using loopEnd_links s.cur.rf
  · simp [GoesOn, Slot.advance]
  · simp [Slot.advance]
  · simp [Slot.advance]

/-- Bits of a number with one bit set or cleared. -/
theorem testBit_nsetBit (n i j : Nat) (b : Bool) : (nsetBit n i b).testBit j = if j = i then b else n.testBit j := by
  have hc : n % 2 ^ i < 2 ^ i := Nat.mod_lt _ (by positivity)
  have hn : n = 2 ^ i * (n / 2 ^ i) + n % 2 ^ i := (Nat.div_add_mod n (2 ^ i)).symm
  obtain ⟨q, hq⟩ : ∃ q, q = n / 2 ^ i := ⟨_, rfl⟩
  obtain ⟨c, hcc⟩ : ∃ c, c = n % 2 ^ i := ⟨_, rfl⟩
  have hs : nsetBit n i b = 2 ^ i * (2 * (q / 2) + bnat b) + c := by
    have hb : bnat (nbit n i) = q % 2 := by
      unfold nbit
      rw [Nat.shiftRight_eq_div_pow, ← hq]
      rcases Nat.mod_two_eq_zero_or_one q with h | h <;> simp [h, bnat]
    unfold nsetBit
    rw [hb]
    have h1 : n = 2 ^ i * (2 * (q / 2)) + 2 ^ i * (q % 2) + c := by
      rw [← Nat.mul_add, Nat.div_add_mod, hq, hcc]
      exact hn
    rw [Nat.mul_add, Nat.mul_comm (q % 2), Nat.mul_comm (bnat b)]
    omega
  rw [← hcc] at hc
  rw [hs, Nat.testBit_two_pow_mul_add _ hc]
  rw [← hq, ← hcc] at hn
  rw [hn, Nat.testBit_two_pow_mul_add _ hc]
  by_cases h1 : j < i
  · simp [h1, Nat.ne_of_lt h1]
  · rw [if_neg h1, if_neg h1]
    by_cases h2 : j = i
    · subst h2
      cases b <;> simp [bnat, Nat.testBit_zero, Nat.add_mod]
    · obtain ⟨k, hk⟩ : ∃ k, j - i = k + 1 := ⟨j - i - 1, by omega⟩
      rw [if_neg h2, hk, Nat.testBit_succ, Nat.testBit_succ]
      congr 1
      cases b <;> simp [bnat] <;> omega

/-- What a predicate reads after a write to one. -/
theorem pred_setPred (r : RegFile) (p q : Nat) (b : Bool) (hq : q < 8) : (r.setPred p b).pred q = if q = p ∧ p ≠ 0 then b else r.pred q := by
  by_cases hp : p = 0
  · simp [hp, RegFile.setPred]
  · unfold RegFile.setPred RegFile.pred
    rw [if_neg hp]
    by_cases h0 : q = 0
    · subst h0
      simp [Ne.symm hp]
    · simp only [h0, decide_false, Bool.false_or, hp, ne_eq, not_false_eq_true, and_true]
      rw [BitVec.getLsbD_ofNat, testBit_nsetBit]
      simp only [hq, decide_true, Bool.true_and]
      split <;> rfl

/-- An instruction that writes one predicate completes. -/
theorem retire_pred {s : State} (h : Stays s) (p : Nat) (b : Bool) :
    ∃ u, (s.retire fun sl => sl.modRf fun r => r.setPred p b) = .next u ∧ PredDone s u p b := by
  refine ⟨_, rfl, ?_⟩
  have pc_setPred : ∀ r : RegFile, (r.setPred p b).pc = r.pc := fun r => by unfold RegFile.setPred; split <;> rfl
  have hp : (s.modCur fun sl => (sl.modRf fun r => r.setPred p b).advance).cur.rf.pc ≠ 0x40000#32 := by
    simpa [Slot.modRf, Slot.advance, loopEnd_setPred, pc_setPred] using (show s.cur.rf.loopEnd.pc ≠ 0x40000#32 from h)
  rw [runOff_stays hp]
  refine ⟨onlyFile_modCur _ _ rfl, ?_, ?_, fun q hq => ?_, fun r => ?_⟩
  · simp only [cur_modCur, Slot.modRf, Slot.advance, loopEnd_setPred]
    exact links_trans (loopEnd_links _) (setPred_links _ _ _)
  · simp only [GoesOn, cur_modCur, Slot.modRf, Slot.advance, loopEnd_setPred, pc_setPred, true_and, and_true]
    unfold RegFile.setPred
    split <;> simp
  · simp only [cur_modCur, Slot.modRf, Slot.advance, loopEnd_pred]
    exact pred_setPred _ _ _ _ hq
  · simp only [cur_modCur, Slot.modRf, Slot.advance, loopEnd_get]
    unfold RegFile.setPred RegFile.get
    by_cases e : p = 0 <;> simp [e]

end Sys2Proof.Laws
end

