-- ==== Sys2Proof/Laws/Forms.lean ====
section
/-! SUPPORT. The forms that many instructions share, each with what it gives when the instruction runs, and what a false guard gives: a proof about an instruction
cites its form and unfolds nothing of it. -/

namespace Sys2Proof.Laws

open Sys2Proof.Machine Sys2Proof.Safety

/-! ## Under a false guard (R55) -/

/-- With a hold of its own. -/
theorem issueOwn_false {s : State} {n : Need} (own : Hold → Bool) (hm : MayIssue s) (hb : s.cur.busyPred (n.g.toNat % 8) = false)
    (hg : s.cur.rf.guardTrue n.g = false) (body : Out) : s.issueOwn own n body = s.retire id := by
  obtain ⟨h1, h2⟩ := hm
  obtain ⟨h3, h4⟩ := mayIssue_own own h1
  simp [State.issueOwn, h2, h3, h4, hb, hg]

/-- Without one. -/
theorem issue_false {s : State} {n : Need} (hm : MayIssue s) (hb : s.cur.busyPred (n.g.toNat % 8) = false)
    (hg : s.cur.rf.guardTrue n.g = false) (body : Out) : s.issue n body = s.retire id := issueOwn_false _ hm hb hg body

/-- A privileged instruction of a privileged task. -/
theorem issuePriv_false {s : State} {n : Need} (hm : MayIssue s) (hb : s.cur.busyPred (n.g.toNat % 8) = false)
    (hg : s.cur.rf.guardTrue n.g = false) (hp : s.cur.sr.priv = true) (w) (body : Out) : s.issuePriv w n body = s.retire id := by
  simp [State.issuePriv, hm.1, hm.2, hp, issue_false hm hb hg]

/-! ## Results in a scalar register -/

/-- A two-operand form. -/
theorem alu2_runs {s : State} {g : BitVec 4} {d a b : BitVec 6} {f : Word → Word → Word} (h : Runs s { g := g, rd := [a.toNat, b.toNat], wr := [d.toNat] })
    (hs : Stays s) (hc : Clean s [a.toNat, b.toNat]) : ∃ u, s.alu2 g d a b f = .next u ∧ RegDone s u d.toNat { val := f (s.reg a.toNat) (s.reg b.toNat) } := by
  unfold State.alu2
  rw [issue_of_runs h, consume_clean hc]
  exact retire_reg hs _ _

/-- A one-operand form. -/
theorem alu1_runs {s : State} {g : BitVec 4} {d a : BitVec 6} {f : Word → Word} (h : Runs s { g := g, rd := [a.toNat], wr := [d.toNat] })
    (hs : Stays s) (hc : Clean s [a.toNat]) : ∃ u, s.alu1 g d a f = .next u ∧ RegDone s u d.toNat { val := f (s.reg a.toNat) } := by
  unfold State.alu1
  rw [issue_of_runs h, consume_clean hc]
  exact retire_reg hs _ _

/-- An instruction of the two-operand form. -/
theorem yields_alu2 {i : Instr} {s : State} {g : BitVec 4} {d a b : BitVec 6} {f : Word → Word → Word} {v : Word}
    (e : exec i s = s.alu2 g d a b f) (hv : v = f (s.reg a.toNat) (s.reg b.toNat)) (h : Runs s { g := g, rd := [a.toNat, b.toNat], wr := [d.toNat] })
    (hs : Stays s) (hc : Clean s [a.toNat, b.toNat]) : Yields i s d v := by
  unfold Yields; rw [e, hv]; exact alu2_runs h hs hc

/-- An instruction of the one-operand form. -/
theorem yields_alu1 {i : Instr} {s : State} {g : BitVec 4} {d a : BitVec 6} {f : Word → Word} {v : Word}
    (e : exec i s = s.alu1 g d a f) (hv : v = f (s.reg a.toNat)) (h : Runs s { g := g, rd := [a.toNat], wr := [d.toNat] })
    (hs : Stays s) (hc : Clean s [a.toNat]) : Yields i s d v := by
  unfold Yields; rw [e, hv]; exact alu1_runs h hs hc

/-- The shift amount of R91. -/
theorem toNat_and_63 (y : Word) : (y &&& 63).toNat = y.toNat % 64 := by
  rw [BitVec.toNat_and]
  exact Nat.and_two_pow_sub_one_eq_mod _ 6

/-! ## Results that come later (R121) -/

/-- An instruction that puts a result in flight completes its issue. -/
theorem retire_flight {s : State} (h : Stays s) (w : Inflight) :
    ∃ u, (s.retire fun sl => { sl with infl := sl.infl ++ [w] }) = .next u ∧ OnlyFlight s u ∧ u.cur.infl = s.cur.infl ++ [w] ∧ SameLinks s.cur.rf u.cur.rf ∧ GoesOn s u
    ∧ (∀ r, u.cur.rf.get r = s.cur.rf.get r) ∧ u.cur.rf.p = s.cur.rf.p := by
  refine ⟨_, rfl, ?_⟩
  have hp : (s.modCur fun sl => ({ sl with infl := sl.infl ++ [w] } : Slot).advance).cur.rf.pc ≠ 0x40000#32 := by
    simpa [Slot.advance] using (show s.cur.rf.loopEnd.pc ≠ 0x40000#32 from h)
  rw [runOff_stays hp]
  refine ⟨⟨onlySlot_modSlot _ _ _ _, ?_⟩, ?_, ?_, ?_, fun r => ?_, ?_⟩
  · simp [Slot.advance]
  · simp [Slot.advance]
  · simpa [Slot.advance] using loopEnd_links s.cur.rf
  · simp [GoesOn, Slot.advance]
  · simp [Slot.advance]
  · simp [Slot.advance]

/-- A multiplication. -/
theorem mul_flies {i : Instr} {s : State} {g : BitVec 4} {d : BitVec 6} {rd : List Nat} {v v' : Word} (e : exec i s = s.mulForm g d rd v) (hv : v' = v)
    (hs : Stays s) (h : Runs s { g := g, rd := rd, wr := [d.toNat] }) (hc : Clean s rd) : Flies i s { dst := d.toNat, val := { val := v' } } := by
  unfold Flies; rw [e, hv]; unfold State.mulForm; rw [issue_of_runs h, consume_clean hc]; exact retire_flight hs _

/-- A division. -/
theorem div_flies {i : Instr} {s : State} {g : BitVec 4} {d a b : BitVec 6} {v v' : Word} (e : exec i s = s.divForm g d a b v) (hv : v' = v)
    (hs : Stays s) (h : Runs s { g := g, rd := [a.toNat, b.toNat], wr := [d.toNat], div := true }) (hc : Clean s [a.toNat, b.toNat]) :
    Flies i s { dst := d.toNat, val := { val := v' }, isDiv := true } := by
  unfold Flies; rw [e, hv]; unfold State.divForm; rw [issue_of_runs h, consume_clean hc]; exact retire_flight hs _

/-! ## Transfers of control (R100 to R103) -/

/-- An instruction that leaves the PC in the instruction store completes. -/
theorem retireTo_pc {s : State} (f : Slot → Slot) (h : (f s.cur).rf.pc ≠ 0x40000#32) : s.retireTo f = .next (s.modCur fun sl => { (f sl) with issues := sl.issues + 1 }) := by
  unfold State.retireTo
  rw [runOff_stays]
  simpa using h

/-- The target of a relative transfer is exact. -/
theorem branchTarget_eq (pc : BitVec 32) (d : BitVec 22) : branchTarget pc d = (pc.toNat : Int) + 4 * d.toInt := by
  unfold branchTarget sgn
  congr 2
  rw [BitVec.toInt_eq_toNat_cond]
  have := d.isLt
  simp
  split <;> split <;> omega

/-- A transfer to a word of the instruction store. -/
theorem goTo_next {s : State} {t : Nat} {f : RegFile → RegFile} (h : t ≤ 0x3FFFC) :
   ∃ u, s.goTo t f = .next u ∧ OnlyFile s u ∧ u.cur.rf = { f s.cur.rf with pc := BitVec.ofNat 32 t } ∧ u.cur.issues = s.cur.issues + 1 := by
  refine ⟨_, retireTo_pc _ ?_, onlyFile_modCur _ _ ?_, ?_, ?_⟩
  · simp only [Slot.modRf, ne_eq]; intro e
    have := congrArg BitVec.toNat e
    simp at this; omega
  · rfl
  · simp [Slot.modRf]
  · simp [Slot.modRf]

/-! ## Reading words without errors (R152) -/

/-- A word without an error reads as it stands. -/
theorem scrub_noError (s : State) (key : Nat) (h : NoError s key) : s.scrub key 1 = s := by
  unfold NoError at h
  simp only [State.scrub, h.1, h.2, Bool.false_eq_true, if_false]

end Sys2Proof.Laws
end

