-- ==== Sys2Proof/Laws/MemState.lean ====
section
/-! SUPPORT. The operations of the state that write memory keep its canonical form. -/

namespace Sys2Proof.Machine

/-- Memory right after reset lists nothing. -/
theorem reset_mem_wf : State.reset.mem.wf = true := rfl

/-! ## Folds -/

/-- A fold keeps the canonical form when each of its steps does. -/
theorem foldl_mem_wf {α : Type} (l : List α) (f : Memory → α → Memory) (hf : ∀ m x, Memory.wf m = true → Memory.wf (f m x) = true) {m : Memory}
    (h : m.wf = true) : Memory.wf (l.foldl f m) = true := by
  induction l generalizing m with
  | nil => exact h
  | cons x t ih => exact ih (hf m x h)

/-- The same for a fold over the state. -/
theorem foldl_state_wf {α : Type} (l : List α) (f : State → α → State) (hf : ∀ s x, s.mem.wf = true → (f s x).mem.wf = true) {s : State}
    (h : s.mem.wf = true) : (l.foldl f s).mem.wf = true := by
  induction l generalizing s with
  | nil => exact h
  | cons x t ih => exact ih (hf s x h)

/-! ## Reads -/

/-- Correcting errors leaves every byte as it is. -/
@[simp] theorem scrub_mem (s : State) (key n : Nat) : (s.scrub key n).mem = s.mem := by
  induction n generalizing s key with
  | zero => rfl
  | succ n ih => simp only [State.scrub, ih]; (repeat' split) <;> rfl

/-- Change notices touch no byte. -/
@[simp] theorem touched_mem (s : State) (t off n : Nat) : (s.touched t off n).mem = s.mem := by
  simp only [State.touched]; split <;> rfl

/-! ## Words and units -/

theorem writeWords_wf {m : Memory} (h : m.wf = true) (a : Nat) (ws : List Nat) : (m.writeWords a ws).wf = true := by
  induction ws generalizing m a with
  | nil => exact h
  | cons w t ih => exact ih (writeN_wf h a 8 w) (a + 8)

theorem State.writeWords_mem_wf {s : State} (h : s.mem.wf = true) (a : Nat) (ws : List Nat) : (s.writeWords a ws).mem.wf = true :=
  Sys2Proof.Machine.writeWords_wf h a ws

theorem writeUnits_mem_wf {s : State} (h : s.mem.wf = true) (w key : Nat) (bs : List MByte) (n : Nat) : (s.writeUnits w key bs n).mem.wf = true := by
  induction n generalizing s key bs with
  | zero => exact h
  | succ n ih =>
    cases bs with
    | nil => exact h
    | cons b t => exact ih (writeM_wf h _ _) _ _

theorem State.writeM_mem_wf {s : State} (h : s.mem.wf = true) (key : Nat) (bs : List MByte) : (s.writeM key bs).mem.wf = true :=
  writeUnits_mem_wf h _ _ _ _

theorem writeStore_mem_wf {s : State} (h : s.mem.wf = true) (key : Nat) (bs : List MByte) : (s.writeStore key bs).mem.wf = true :=
  Sys2Proof.Machine.writeM_wf h key bs

/-! ## Accesses that perform at a scratchpad -/

theorem counter_mem_wf {s : State} (h : s.mem.wf = true) (t off : Nat) (p : Bool) (n : Nat) : (s.counter t off p n).mem.wf = true := by
  unfold State.counter
  simp only
  split
  · simpa using h
  · simpa using writeN_wf (m := (s.scrub (scratchKey t (off / 8 * 8)) 1).mem) (by simpa using h) _ _ _

theorem performScratch_mem_wf {s : State} (h : s.mem.wf = true) (t off : Nat) (op : MemOp) : (s.performScratch t off op).1.mem.wf = true := by
  cases op with
  | read n => simpa [State.performScratch] using h
  | watch => simpa [State.performScratch] using h
  | write bs ctr =>
    have hw : ((s.writeM (scratchKey t off) bs).touched t off bs.length).mem.wf = true := by simpa using State.writeM_mem_wf h _ _
    simp only [State.performScratch]
    (repeat' split)
    · exact hw
    · exact counter_mem_wf hw _ _ _ _
    · exact hw
  | atomic w opc x xp c =>
    have hs : (s.scrub (scratchKey t off) 1).mem.wf = true := by simpa using h
    simp only [State.performScratch]
    (repeat' split) <;> first | exact hs | (rw [touched_mem]; exact writeN_wf hs _ _ _)
  | post n => exact counter_mem_wf h _ _ _ _
  | arrive n => exact counter_mem_wf h _ _ _ _

/-! ## Stretches moved, cleared and put in place -/

/-- A stretch of a memory, moved. -/
theorem moved_wfFrom {m : Memory} {lo : Nat} (h : Memory.wfFrom lo m = true) (src dst : Nat) (p : Nat → Bool) (hp : ∀ k, p k = true → src ≤ k) (d : Nat)
    (hd : d ≤ lo - src + dst) : Memory.wfFrom d ((m.filter fun c => p c.1).map fun c => (c.1 - src + dst, c.2)) = true := by
  induction m generalizing lo d with
  | nil => rfl
  | cons c t ih =>
    obtain ⟨i, b⟩ := c
    simp only [Memory.wfFrom, Bool.and_eq_true, decide_eq_true_eq] at h
    rw [List.filter_cons]
    split
    · rename_i hi
      have hs : src ≤ i := hp i hi
      simp only [List.map_cons, Memory.wfFrom, Bool.and_eq_true, decide_eq_true_eq]
      exact ⟨⟨by omega, h.1.2⟩, ih h.2 _ (by omega)⟩
    · exact ih h.2 _ (by omega)

/-- Bytes from a place on take the place of those that stood at another. -/
theorem splice_wf {m : Memory} (h : m.wf = true) (src dst n : Nat) (p : Nat → Bool) (hp : ∀ k, p k = true → src ≤ k ∧ k < src + n) :
    Memory.wf ((m.filter fun c => decide (c.1 < dst)) ++ ((m.filter fun c => p c.1).map fun c => (c.1 - src + dst, c.2))
      ++ m.filter fun c => decide (dst + n ≤ c.1)) = true := by
  have from_ : ∀ (q : Memory) (d : Nat), Memory.wf q = true → (∀ c ∈ q, d ≤ c.1) → Memory.wfFrom d q = true := by
    intro q d hq hd
    cases q with
    | nil => rfl
    | cons c t =>
      obtain ⟨i, b⟩ := c
      simp only [Memory.wf, Memory.wfFrom, Bool.and_eq_true, decide_eq_true_eq] at hq ⊢
      exact ⟨⟨hd (i, b) (by simp), hq.1.2⟩, hq.2⟩
  have hmid : Memory.wfFrom dst ((m.filter fun c => p c.1).map fun c => (c.1 - src + dst, c.2)) = true := by
    apply from_
    · exact moved_wfFrom h src dst p (fun k hk => (hp k hk).1) 0 (Nat.zero_le _)
    · intro c hc
      obtain ⟨x, _, rfl⟩ := List.mem_map.1 hc
      exact Nat.le_add_left _ _
  have hlast : Memory.wfFrom (dst + n) (m.filter fun c => decide (dst + n ≤ c.1)) = true :=
    from_ _ _ (filter_wf h _) fun c hc => by simpa using (List.mem_filter.1 hc).2
  refine append_wfFrom (mid := dst + n) (append_wfFrom (mid := dst) (filter_wfFrom h _) ?_ hmid (Nat.zero_le _)) ?_ hlast (Nat.zero_le _)
  · intro c hc; simpa using (List.mem_filter.1 hc).2
  · intro c hc
    rcases List.mem_append.1 hc with hc | hc
    · have : c.1 < dst := by simpa using (List.mem_filter.1 hc).2
      omega
    · obtain ⟨x, hx, rfl⟩ := List.mem_map.1 hc
      have := hp x.1 (List.mem_filter.1 hx).2
      simp only; omega

theorem moveBytes_mem_wf {s : State} (h : s.mem.wf = true) (src dst n : Nat) : (s.moveBytes src dst n).mem.wf = true :=
  splice_wf h src dst n (fun a => decide (src ≤ a) && decide (a < src + n)) fun k hk => by simpa using hk

theorem flushPiece_mem_wf {s : State} (h : s.mem.wf = true) (src dst n : Nat) : (s.flushPiece src dst n).mem.wf = true :=
  splice_wf (foldl_state_wf _ (fun s a => s.scrub a 1) (fun s a hs => by simpa using hs) h) src dst n (fun a => decide (src ≤ a) && decide (a < src + n))
    fun k hk => by simpa using hk

theorem dropKeys_mem_wf {s : State} (h : s.mem.wf = true) (p : Nat → Bool) : (s.dropKeys p).mem.wf = true := filter_wf h _

theorem scrubTile_mem_wf {s : State} (h : s.mem.wf = true) (t : Nat) : (s.scrubTile t).mem.wf = true :=
  foldl_state_wf _ (fun s k => s.scrub k 1) (fun s a hs => by simpa using hs) h

theorem clearArea_mem_wf {s : State} (h : s.mem.wf = true) (a n : Nat) : (s.clearArea a n).mem.wf = true := filter_wf h _

theorem writeArea_mem_wf {s : State} (h : s.mem.wf = true) (a : Nat) (bs : List (Nat × Byte)) : (s.writeArea a bs).mem.wf = true :=
  foldl_mem_wf bs _ (fun _ b hm => set_wf hm _ b.2) h

theorem writeAreaWords_mem_wf {s : State} (h : s.mem.wf = true) (a : Nat) (ws : AreaWords) : (s.writeAreaWords a ws).mem.wf = true :=
  foldl_mem_wf ws _ (fun _ w hm => writeN_wf hm _ 8 w.2) h

theorem copyIn_mem_wf {s : State} (h : s.mem.wf = true) (src dst n : Nat) : (s.copyIn src dst n).mem.wf = true :=
  foldl_mem_wf _ _ (fun _ b hm => set_wf hm b.1 b.2) (filter_wf h _)

theorem packageReset_mem_wf {s : State} (h : s.mem.wf = true) : s.packageReset.mem.wf = true := filter_wf h _

end Sys2Proof.Machine
end

