-- ==== Sys2Proof/Laws/PerInstr.lean ====
section
/-! SUPPORT. The family Encoding: for each constructor of Instr, the word that encode gives a well-formed instruction decodes to that instruction
(spec/02_encoding.md R42 to R54). An event has no word. -/

namespace Sys2Proof.Laws

set_option Elab.async false
set_option linter.unusedSimpArgs false
set_option linter.unreachableTactic false
set_option linter.unusedTactic false

/-- The low part of a concatenation. -/
theorem extract_low {n m : Nat} (x : BitVec n) (y : BitVec m) (k w : Nat) (h : k + w ≤ m) :
    (x ++ y).extractLsb' k w = y.extractLsb' k w := by
  ext i hi
  simp only [BitVec.getElem_extractLsb', BitVec.getLsbD_append]
  rw [if_pos (by omega)]

/-- The high part of a concatenation. -/
theorem extract_high {n m : Nat} (x : BitVec n) (y : BitVec m) (k w : Nat) (h : m ≤ k) :
    (x ++ y).extractLsb' k w = x.extractLsb' (k - m) w := by
  ext i hi
  simp only [BitVec.getElem_extractLsb', BitVec.getLsbD_append]
  rw [if_neg (by omega)]
  congr 1
  omega

/-- The major opcode of a word. -/
theorem maj_packWord (m : BitVec 6) (g : BitVec 4) (b : BitVec 22) : fieldMaj (packWord m g b) = m := by
  unfold fieldMaj packWord
  rw [extract_high _ _ _ _ (by decide), extract_high _ _ _ _ (by decide)]
  simp

/-- The guard of a word. -/
theorem guard_packWord (m : BitVec 6) (g : BitVec 4) (b : BitVec 22) : fieldGuard (packWord m g b) = g := by
  unfold fieldGuard packWord
  rw [extract_high _ _ _ _ (by decide), extract_low _ _ _ _ (by decide)]
  simp

/-- The bits [21:0] of a word. -/
theorem body_packWord (m : BitVec 6) (g : BitVec 4) (b : BitVec 22) (k n : Nat) (h : k + n ≤ 22) :
    (packWord m g b).extractLsb' k n = b.extractLsb' k n := by
  unfold packWord
  rw [extract_low _ _ _ _ h]

/-- What the family says of an instruction: decoding its word gives it back. -/
def Encoding.Statement (i : Instr) : Prop := i.wf = true → ∀ w, encode i = some w → decodeWord w = .ok i

/-- The selector of SCNR and SCNW is none that R134 assigns. -/
theorem selector_ne {s : BitVec 10} (h : selectorAssigned s = true) : ¬s = 1023#10 := by
  intro e
  subst e
  exact absurd h (by decide)

/-- An event has no word. -/
theorem encoding_of_none {i : Instr} (h : encode i = none) : Encoding.Statement i := fun _ _ e => by simp [h] at e

/-- Major opcode 0x1. -/
theorem major_01 (g : BitVec 4) (b : BitVec 22) (h : ¬g = 8#4) :
    decodeWord (packWord 0x1 g b) = decodeAlu (packWord 0x1 g b) := by
  simp [decodeWord, maj_packWord, guard_packWord, h]

theorem Encoding.add (g : BitVec 4) (d : BitVec 6) (a : BitVec 6) (b : BitVec 6) : Encoding.Statement (.add g d a b) := by
  intro h w e
  simp only [encode, Option.some.injEq] at e
  subst e
  simp [Instr.wf] at h
  rw [major_01 _ _ h]
  simp only [decodeAlu, guard_packWord, fieldD, fieldA, fieldB, fieldFn, fieldImm10, fieldImm16, fieldDisp22, fieldPd, fieldCc, fieldFlags, fieldCmd]
  repeat rw [body_packWord _ _ _ _ _ (by decide)]
  repeat (first | rw [extract_high _ _ _ _ (by decide)] | rw [extract_low _ _ _ _ (by decide)])
  simp [h, mustBeZero]

theorem Encoding.sub (g : BitVec 4) (d : BitVec 6) (a : BitVec 6) (b : BitVec 6) : Encoding.Statement (.sub g d a b) := by
  intro h w e
  simp only [encode, Option.some.injEq] at e
  subst e
  simp [Instr.wf] at h
  rw [major_01 _ _ h]
  simp only [decodeAlu, guard_packWord, fieldD, fieldA, fieldB, fieldFn, fieldImm10, fieldImm16, fieldDisp22, fieldPd, fieldCc, fieldFlags, fieldCmd]
  repeat rw [body_packWord _ _ _ _ _ (by decide)]
  repeat (first | rw [extract_high _ _ _ _ (by decide)] | rw [extract_low _ _ _ _ (by decide)])
  simp [h, mustBeZero]

theorem Encoding.and (g : BitVec 4) (d : BitVec 6) (a : BitVec 6) (b : BitVec 6) : Encoding.Statement (.and g d a b) := by
  intro h w e
  simp only [encode, Option.some.injEq] at e
  subst e
  simp [Instr.wf] at h
  rw [major_01 _ _ h]
  simp only [decodeAlu, guard_packWord, fieldD, fieldA, fieldB, fieldFn, fieldImm10, fieldImm16, fieldDisp22, fieldPd, fieldCc, fieldFlags, fieldCmd]
  repeat rw [body_packWord _ _ _ _ _ (by decide)]
  repeat (first | rw [extract_high _ _ _ _ (by decide)] | rw [extract_low _ _ _ _ (by decide)])
  simp [h, mustBeZero]

theorem Encoding.or (g : BitVec 4) (d : BitVec 6) (a : BitVec 6) (b : BitVec 6) : Encoding.Statement (.or g d a b) := by
  intro h w e
  simp only [encode, Option.some.injEq] at e
  subst e
  simp [Instr.wf] at h
  rw [major_01 _ _ h]
  simp only [decodeAlu, guard_packWord, fieldD, fieldA, fieldB, fieldFn, fieldImm10, fieldImm16, fieldDisp22, fieldPd, fieldCc, fieldFlags, fieldCmd]
  repeat rw [body_packWord _ _ _ _ _ (by decide)]
  repeat (first | rw [extract_high _ _ _ _ (by decide)] | rw [extract_low _ _ _ _ (by decide)])
  simp [h, mustBeZero]

theorem Encoding.xor (g : BitVec 4) (d : BitVec 6) (a : BitVec 6) (b : BitVec 6) : Encoding.Statement (.xor g d a b) := by
  intro h w e
  simp only [encode, Option.some.injEq] at e
  subst e
  simp [Instr.wf] at h
  rw [major_01 _ _ h]
  simp only [decodeAlu, guard_packWord, fieldD, fieldA, fieldB, fieldFn, fieldImm10, fieldImm16, fieldDisp22, fieldPd, fieldCc, fieldFlags, fieldCmd]
  repeat rw [body_packWord _ _ _ _ _ (by decide)]
  repeat (first | rw [extract_high _ _ _ _ (by decide)] | rw [extract_low _ _ _ _ (by decide)])
  simp [h, mustBeZero]

theorem Encoding.andn (g : BitVec 4) (d : BitVec 6) (a : BitVec 6) (b : BitVec 6) : Encoding.Statement (.andn g d a b) := by
  intro h w e
  simp only [encode, Option.some.injEq] at e
  subst e
  simp [Instr.wf] at h
  rw [major_01 _ _ h]
  simp only [decodeAlu, guard_packWord, fieldD, fieldA, fieldB, fieldFn, fieldImm10, fieldImm16, fieldDisp22, fieldPd, fieldCc, fieldFlags, fieldCmd]
  repeat rw [body_packWord _ _ _ _ _ (by decide)]
  repeat (first | rw [extract_high _ _ _ _ (by decide)] | rw [extract_low _ _ _ _ (by decide)])
  simp [h, mustBeZero]

theorem Encoding.shl (g : BitVec 4) (d : BitVec 6) (a : BitVec 6) (b : BitVec 6) : Encoding.Statement (.shl g d a b) := by
  intro h w e
  simp only [encode, Option.some.injEq] at e
  subst e
  simp [Instr.wf] at h
  rw [major_01 _ _ h]
  simp only [decodeAlu, guard_packWord, fieldD, fieldA, fieldB, fieldFn, fieldImm10, fieldImm16, fieldDisp22, fieldPd, fieldCc, fieldFlags, fieldCmd]
  repeat rw [body_packWord _ _ _ _ _ (by decide)]
  repeat (first | rw [extract_high _ _ _ _ (by decide)] | rw [extract_low _ _ _ _ (by decide)])
  simp [h, mustBeZero]

theorem Encoding.shr (g : BitVec 4) (d : BitVec 6) (a : BitVec 6) (b : BitVec 6) : Encoding.Statement (.shr g d a b) := by
  intro h w e
  simp only [encode, Option.some.injEq] at e
  subst e
  simp [Instr.wf] at h
  rw [major_01 _ _ h]
  simp only [decodeAlu, guard_packWord, fieldD, fieldA, fieldB, fieldFn, fieldImm10, fieldImm16, fieldDisp22, fieldPd, fieldCc, fieldFlags, fieldCmd]
  repeat rw [body_packWord _ _ _ _ _ (by decide)]
  repeat (first | rw [extract_high _ _ _ _ (by decide)] | rw [extract_low _ _ _ _ (by decide)])
  simp [h, mustBeZero]

theorem Encoding.sra (g : BitVec 4) (d : BitVec 6) (a : BitVec 6) (b : BitVec 6) : Encoding.Statement (.sra g d a b) := by
  intro h w e
  simp only [encode, Option.some.injEq] at e
  subst e
  simp [Instr.wf] at h
  rw [major_01 _ _ h]
  simp only [decodeAlu, guard_packWord, fieldD, fieldA, fieldB, fieldFn, fieldImm10, fieldImm16, fieldDisp22, fieldPd, fieldCc, fieldFlags, fieldCmd]
  repeat rw [body_packWord _ _ _ _ _ (by decide)]
  repeat (first | rw [extract_high _ _ _ _ (by decide)] | rw [extract_low _ _ _ _ (by decide)])
  simp [h, mustBeZero]

theorem Encoding.rol (g : BitVec 4) (d : BitVec 6) (a : BitVec 6) (b : BitVec 6) : Encoding.Statement (.rol g d a b) := by
  intro h w e
  simp only [encode, Option.some.injEq] at e
  subst e
  simp [Instr.wf] at h
  rw [major_01 _ _ h]
  simp only [decodeAlu, guard_packWord, fieldD, fieldA, fieldB, fieldFn, fieldImm10, fieldImm16, fieldDisp22, fieldPd, fieldCc, fieldFlags, fieldCmd]
  repeat rw [body_packWord _ _ _ _ _ (by decide)]
  repeat (first | rw [extract_high _ _ _ _ (by decide)] | rw [extract_low _ _ _ _ (by decide)])
  simp [h, mustBeZero]

theorem Encoding.min (g : BitVec 4) (d : BitVec 6) (a : BitVec 6) (b : BitVec 6) : Encoding.Statement (.min g d a b) := by
  intro h w e
  simp only [encode, Option.some.injEq] at e
  subst e
  simp [Instr.wf] at h
  rw [major_01 _ _ h]
  simp only [decodeAlu, guard_packWord, fieldD, fieldA, fieldB, fieldFn, fieldImm10, fieldImm16, fieldDisp22, fieldPd, fieldCc, fieldFlags, fieldCmd]
  repeat rw [body_packWord _ _ _ _ _ (by decide)]
  repeat (first | rw [extract_high _ _ _ _ (by decide)] | rw [extract_low _ _ _ _ (by decide)])
  simp [h, mustBeZero]

theorem Encoding.max (g : BitVec 4) (d : BitVec 6) (a : BitVec 6) (b : BitVec 6) : Encoding.Statement (.max g d a b) := by
  intro h w e
  simp only [encode, Option.some.injEq] at e
  subst e
  simp [Instr.wf] at h
  rw [major_01 _ _ h]
  simp only [decodeAlu, guard_packWord, fieldD, fieldA, fieldB, fieldFn, fieldImm10, fieldImm16, fieldDisp22, fieldPd, fieldCc, fieldFlags, fieldCmd]
  repeat rw [body_packWord _ _ _ _ _ (by decide)]
  repeat (first | rw [extract_high _ _ _ _ (by decide)] | rw [extract_low _ _ _ _ (by decide)])
  simp [h, mustBeZero]

theorem Encoding.minu (g : BitVec 4) (d : BitVec 6) (a : BitVec 6) (b : BitVec 6) : Encoding.Statement (.minu g d a b) := by
  intro h w e
  simp only [encode, Option.some.injEq] at e
  subst e
  simp [Instr.wf] at h
  rw [major_01 _ _ h]
  simp only [decodeAlu, guard_packWord, fieldD, fieldA, fieldB, fieldFn, fieldImm10, fieldImm16, fieldDisp22, fieldPd, fieldCc, fieldFlags, fieldCmd]
  repeat rw [body_packWord _ _ _ _ _ (by decide)]
  repeat (first | rw [extract_high _ _ _ _ (by decide)] | rw [extract_low _ _ _ _ (by decide)])
  simp [h, mustBeZero]

theorem Encoding.maxu (g : BitVec 4) (d : BitVec 6) (a : BitVec 6) (b : BitVec 6) : Encoding.Statement (.maxu g d a b) := by
  intro h w e
  simp only [encode, Option.some.injEq] at e
  subst e
  simp [Instr.wf] at h
  rw [major_01 _ _ h]
  simp only [decodeAlu, guard_packWord, fieldD, fieldA, fieldB, fieldFn, fieldImm10, fieldImm16, fieldDisp22, fieldPd, fieldCc, fieldFlags, fieldCmd]
  repeat rw [body_packWord _ _ _ _ _ (by decide)]
  repeat (first | rw [extract_high _ _ _ _ (by decide)] | rw [extract_low _ _ _ _ (by decide)])
  simp [h, mustBeZero]

/-- Major opcode 0x2. -/
theorem major_02 (g : BitVec 4) (b : BitVec 22) (h : ¬g = 8#4) :
    decodeWord (packWord 0x2 g b) = decodeMulDiv (packWord 0x2 g b) := by
  simp [decodeWord, maj_packWord, guard_packWord, h]

theorem Encoding.mul (g : BitVec 4) (d : BitVec 6) (a : BitVec 6) (b : BitVec 6) : Encoding.Statement (.mul g d a b) := by
  intro h w e
  simp only [encode, Option.some.injEq] at e
  subst e
  simp [Instr.wf] at h
  rw [major_02 _ _ h]
  simp only [decodeMulDiv, guard_packWord, fieldD, fieldA, fieldB, fieldFn, fieldImm10, fieldImm16, fieldDisp22, fieldPd, fieldCc, fieldFlags, fieldCmd]
  repeat rw [body_packWord _ _ _ _ _ (by decide)]
  repeat (first | rw [extract_high _ _ _ _ (by decide)] | rw [extract_low _ _ _ _ (by decide)])
  simp [h, mustBeZero]

theorem Encoding.mulh (g : BitVec 4) (d : BitVec 6) (a : BitVec 6) (b : BitVec 6) : Encoding.Statement (.mulh g d a b) := by
  intro h w e
  simp only [encode, Option.some.injEq] at e
  subst e
  simp [Instr.wf] at h
  rw [major_02 _ _ h]
  simp only [decodeMulDiv, guard_packWord, fieldD, fieldA, fieldB, fieldFn, fieldImm10, fieldImm16, fieldDisp22, fieldPd, fieldCc, fieldFlags, fieldCmd]
  repeat rw [body_packWord _ _ _ _ _ (by decide)]
  repeat (first | rw [extract_high _ _ _ _ (by decide)] | rw [extract_low _ _ _ _ (by decide)])
  simp [h, mustBeZero]

theorem Encoding.mulhu (g : BitVec 4) (d : BitVec 6) (a : BitVec 6) (b : BitVec 6) : Encoding.Statement (.mulhu g d a b) := by
  intro h w e
  simp only [encode, Option.some.injEq] at e
  subst e
  simp [Instr.wf] at h
  rw [major_02 _ _ h]
  simp only [decodeMulDiv, guard_packWord, fieldD, fieldA, fieldB, fieldFn, fieldImm10, fieldImm16, fieldDisp22, fieldPd, fieldCc, fieldFlags, fieldCmd]
  repeat rw [body_packWord _ _ _ _ _ (by decide)]
  repeat (first | rw [extract_high _ _ _ _ (by decide)] | rw [extract_low _ _ _ _ (by decide)])
  simp [h, mustBeZero]

theorem Encoding.madd (g : BitVec 4) (d : BitVec 6) (a : BitVec 6) (b : BitVec 6) : Encoding.Statement (.madd g d a b) := by
  intro h w e
  simp only [encode, Option.some.injEq] at e
  subst e
  simp [Instr.wf] at h
  rw [major_02 _ _ h]
  simp only [decodeMulDiv, guard_packWord, fieldD, fieldA, fieldB, fieldFn, fieldImm10, fieldImm16, fieldDisp22, fieldPd, fieldCc, fieldFlags, fieldCmd]
  repeat rw [body_packWord _ _ _ _ _ (by decide)]
  repeat (first | rw [extract_high _ _ _ _ (by decide)] | rw [extract_low _ _ _ _ (by decide)])
  simp [h, mustBeZero]

theorem Encoding.div (g : BitVec 4) (d : BitVec 6) (a : BitVec 6) (b : BitVec 6) : Encoding.Statement (.div g d a b) := by
  intro h w e
  simp only [encode, Option.some.injEq] at e
  subst e
  simp [Instr.wf] at h
  rw [major_02 _ _ h]
  simp only [decodeMulDiv, guard_packWord, fieldD, fieldA, fieldB, fieldFn, fieldImm10, fieldImm16, fieldDisp22, fieldPd, fieldCc, fieldFlags, fieldCmd]
  repeat rw [body_packWord _ _ _ _ _ (by decide)]
  repeat (first | rw [extract_high _ _ _ _ (by decide)] | rw [extract_low _ _ _ _ (by decide)])
  simp [h, mustBeZero]

theorem Encoding.divu (g : BitVec 4) (d : BitVec 6) (a : BitVec 6) (b : BitVec 6) : Encoding.Statement (.divu g d a b) := by
  intro h w e
  simp only [encode, Option.some.injEq] at e
  subst e
  simp [Instr.wf] at h
  rw [major_02 _ _ h]
  simp only [decodeMulDiv, guard_packWord, fieldD, fieldA, fieldB, fieldFn, fieldImm10, fieldImm16, fieldDisp22, fieldPd, fieldCc, fieldFlags, fieldCmd]
  repeat rw [body_packWord _ _ _ _ _ (by decide)]
  repeat (first | rw [extract_high _ _ _ _ (by decide)] | rw [extract_low _ _ _ _ (by decide)])
  simp [h, mustBeZero]

theorem Encoding.rem (g : BitVec 4) (d : BitVec 6) (a : BitVec 6) (b : BitVec 6) : Encoding.Statement (.rem g d a b) := by
  intro h w e
  simp only [encode, Option.some.injEq] at e
  subst e
  simp [Instr.wf] at h
  rw [major_02 _ _ h]
  simp only [decodeMulDiv, guard_packWord, fieldD, fieldA, fieldB, fieldFn, fieldImm10, fieldImm16, fieldDisp22, fieldPd, fieldCc, fieldFlags, fieldCmd]
  repeat rw [body_packWord _ _ _ _ _ (by decide)]
  repeat (first | rw [extract_high _ _ _ _ (by decide)] | rw [extract_low _ _ _ _ (by decide)])
  simp [h, mustBeZero]

theorem Encoding.remu (g : BitVec 4) (d : BitVec 6) (a : BitVec 6) (b : BitVec 6) : Encoding.Statement (.remu g d a b) := by
  intro h w e
  simp only [encode, Option.some.injEq] at e
  subst e
  simp [Instr.wf] at h
  rw [major_02 _ _ h]
  simp only [decodeMulDiv, guard_packWord, fieldD, fieldA, fieldB, fieldFn, fieldImm10, fieldImm16, fieldDisp22, fieldPd, fieldCc, fieldFlags, fieldCmd]
  repeat rw [body_packWord _ _ _ _ _ (by decide)]
  repeat (first | rw [extract_high _ _ _ _ (by decide)] | rw [extract_low _ _ _ _ (by decide)])
  simp [h, mustBeZero]

/-- Major opcode 0x3. -/
theorem major_03 (g : BitVec 4) (b : BitVec 22) (h : ¬g = 8#4) :
    decodeWord (packWord 0x3 g b) = decodeBits (packWord 0x3 g b) := by
  simp [decodeWord, maj_packWord, guard_packWord, h]

theorem Encoding.clz (g : BitVec 4) (d : BitVec 6) (a : BitVec 6) : Encoding.Statement (.clz g d a) := by
  intro h w e
  simp only [encode, Option.some.injEq] at e
  subst e
  simp [Instr.wf] at h
  rw [major_03 _ _ h]
  simp only [decodeBits, guard_packWord, fieldD, fieldA, fieldB, fieldFn, fieldImm10, fieldImm16, fieldDisp22, fieldPd, fieldCc, fieldFlags, fieldCmd]
  repeat rw [body_packWord _ _ _ _ _ (by decide)]
  repeat (first | rw [extract_high _ _ _ _ (by decide)] | rw [extract_low _ _ _ _ (by decide)])
  simp [h, mustBeZero]

theorem Encoding.ctz (g : BitVec 4) (d : BitVec 6) (a : BitVec 6) : Encoding.Statement (.ctz g d a) := by
  intro h w e
  simp only [encode, Option.some.injEq] at e
  subst e
  simp [Instr.wf] at h
  rw [major_03 _ _ h]
  simp only [decodeBits, guard_packWord, fieldD, fieldA, fieldB, fieldFn, fieldImm10, fieldImm16, fieldDisp22, fieldPd, fieldCc, fieldFlags, fieldCmd]
  repeat rw [body_packWord _ _ _ _ _ (by decide)]
  repeat (first | rw [extract_high _ _ _ _ (by decide)] | rw [extract_low _ _ _ _ (by decide)])
  simp [h, mustBeZero]

theorem Encoding.popc (g : BitVec 4) (d : BitVec 6) (a : BitVec 6) : Encoding.Statement (.popc g d a) := by
  intro h w e
  simp only [encode, Option.some.injEq] at e
  subst e
  simp [Instr.wf] at h
  rw [major_03 _ _ h]
  simp only [decodeBits, guard_packWord, fieldD, fieldA, fieldB, fieldFn, fieldImm10, fieldImm16, fieldDisp22, fieldPd, fieldCc, fieldFlags, fieldCmd]
  repeat rw [body_packWord _ _ _ _ _ (by decide)]
  repeat (first | rw [extract_high _ _ _ _ (by decide)] | rw [extract_low _ _ _ _ (by decide)])
  simp [h, mustBeZero]

theorem Encoding.brev (g : BitVec 4) (d : BitVec 6) (a : BitVec 6) : Encoding.Statement (.brev g d a) := by
  intro h w e
  simp only [encode, Option.some.injEq] at e
  subst e
  simp [Instr.wf] at h
  rw [major_03 _ _ h]
  simp only [decodeBits, guard_packWord, fieldD, fieldA, fieldB, fieldFn, fieldImm10, fieldImm16, fieldDisp22, fieldPd, fieldCc, fieldFlags, fieldCmd]
  repeat rw [body_packWord _ _ _ _ _ (by decide)]
  repeat (first | rw [extract_high _ _ _ _ (by decide)] | rw [extract_low _ _ _ _ (by decide)])
  simp [h, mustBeZero]

theorem Encoding.bswap (g : BitVec 4) (d : BitVec 6) (a : BitVec 6) : Encoding.Statement (.bswap g d a) := by
  intro h w e
  simp only [encode, Option.some.injEq] at e
  subst e
  simp [Instr.wf] at h
  rw [major_03 _ _ h]
  simp only [decodeBits, guard_packWord, fieldD, fieldA, fieldB, fieldFn, fieldImm10, fieldImm16, fieldDisp22, fieldPd, fieldCc, fieldFlags, fieldCmd]
  repeat rw [body_packWord _ _ _ _ _ (by decide)]
  repeat (first | rw [extract_high _ _ _ _ (by decide)] | rw [extract_low _ _ _ _ (by decide)])
  simp [h, mustBeZero]

theorem Encoding.sextb (g : BitVec 4) (d : BitVec 6) (a : BitVec 6) : Encoding.Statement (.sextb g d a) := by
  intro h w e
  simp only [encode, Option.some.injEq] at e
  subst e
  simp [Instr.wf] at h
  rw [major_03 _ _ h]
  simp only [decodeBits, guard_packWord, fieldD, fieldA, fieldB, fieldFn, fieldImm10, fieldImm16, fieldDisp22, fieldPd, fieldCc, fieldFlags, fieldCmd]
  repeat rw [body_packWord _ _ _ _ _ (by decide)]
  repeat (first | rw [extract_high _ _ _ _ (by decide)] | rw [extract_low _ _ _ _ (by decide)])
  simp [h, mustBeZero]

theorem Encoding.sexth (g : BitVec 4) (d : BitVec 6) (a : BitVec 6) : Encoding.Statement (.sexth g d a) := by
  intro h w e
  simp only [encode, Option.some.injEq] at e
  subst e
  simp [Instr.wf] at h
  rw [major_03 _ _ h]
  simp only [decodeBits, guard_packWord, fieldD, fieldA, fieldB, fieldFn, fieldImm10, fieldImm16, fieldDisp22, fieldPd, fieldCc, fieldFlags, fieldCmd]
  repeat rw [body_packWord _ _ _ _ _ (by decide)]
  repeat (first | rw [extract_high _ _ _ _ (by decide)] | rw [extract_low _ _ _ _ (by decide)])
  simp [h, mustBeZero]

theorem Encoding.sextw (g : BitVec 4) (d : BitVec 6) (a : BitVec 6) : Encoding.Statement (.sextw g d a) := by
  intro h w e
  simp only [encode, Option.some.injEq] at e
  subst e
  simp [Instr.wf] at h
  rw [major_03 _ _ h]
  simp only [decodeBits, guard_packWord, fieldD, fieldA, fieldB, fieldFn, fieldImm10, fieldImm16, fieldDisp22, fieldPd, fieldCc, fieldFlags, fieldCmd]
  repeat rw [body_packWord _ _ _ _ _ (by decide)]
  repeat (first | rw [extract_high _ _ _ _ (by decide)] | rw [extract_low _ _ _ _ (by decide)])
  simp [h, mustBeZero]

theorem Encoding.zextb (g : BitVec 4) (d : BitVec 6) (a : BitVec 6) : Encoding.Statement (.zextb g d a) := by
  intro h w e
  simp only [encode, Option.some.injEq] at e
  subst e
  simp [Instr.wf] at h
  rw [major_03 _ _ h]
  simp only [decodeBits, guard_packWord, fieldD, fieldA, fieldB, fieldFn, fieldImm10, fieldImm16, fieldDisp22, fieldPd, fieldCc, fieldFlags, fieldCmd]
  repeat rw [body_packWord _ _ _ _ _ (by decide)]
  repeat (first | rw [extract_high _ _ _ _ (by decide)] | rw [extract_low _ _ _ _ (by decide)])
  simp [h, mustBeZero]

theorem Encoding.zexth (g : BitVec 4) (d : BitVec 6) (a : BitVec 6) : Encoding.Statement (.zexth g d a) := by
  intro h w e
  simp only [encode, Option.some.injEq] at e
  subst e
  simp [Instr.wf] at h
  rw [major_03 _ _ h]
  simp only [decodeBits, guard_packWord, fieldD, fieldA, fieldB, fieldFn, fieldImm10, fieldImm16, fieldDisp22, fieldPd, fieldCc, fieldFlags, fieldCmd]
  repeat rw [body_packWord _ _ _ _ _ (by decide)]
  repeat (first | rw [extract_high _ _ _ _ (by decide)] | rw [extract_low _ _ _ _ (by decide)])
  simp [h, mustBeZero]

theorem Encoding.zextw (g : BitVec 4) (d : BitVec 6) (a : BitVec 6) : Encoding.Statement (.zextw g d a) := by
  intro h w e
  simp only [encode, Option.some.injEq] at e
  subst e
  simp [Instr.wf] at h
  rw [major_03 _ _ h]
  simp only [decodeBits, guard_packWord, fieldD, fieldA, fieldB, fieldFn, fieldImm10, fieldImm16, fieldDisp22, fieldPd, fieldCc, fieldFlags, fieldCmd]
  repeat rw [body_packWord _ _ _ _ _ (by decide)]
  repeat (first | rw [extract_high _ _ _ _ (by decide)] | rw [extract_low _ _ _ _ (by decide)])
  simp [h, mustBeZero]

theorem Encoding.addi (g : BitVec 4) (d : BitVec 6) (a : BitVec 6) (i : BitVec 10) : Encoding.Statement (.addi g d a i) := by
  intro h w e
  simp only [encode, Option.some.injEq] at e
  subst e
  simp [Instr.wf] at h
  simp [decodeWord, maj_packWord, guard_packWord, h, guard_packWord, fieldD, fieldA, fieldB, fieldFn, fieldImm10, fieldImm16, fieldDisp22, fieldPd, fieldCc, fieldFlags, fieldCmd]
  repeat rw [body_packWord _ _ _ _ _ (by decide)]
  repeat (first | rw [extract_high _ _ _ _ (by decide)] | rw [extract_low _ _ _ _ (by decide)])
  simp [h, mustBeZero]

theorem Encoding.andi (g : BitVec 4) (d : BitVec 6) (a : BitVec 6) (i : BitVec 10) : Encoding.Statement (.andi g d a i) := by
  intro h w e
  simp only [encode, Option.some.injEq] at e
  subst e
  simp [Instr.wf] at h
  simp [decodeWord, maj_packWord, guard_packWord, h, guard_packWord, fieldD, fieldA, fieldB, fieldFn, fieldImm10, fieldImm16, fieldDisp22, fieldPd, fieldCc, fieldFlags, fieldCmd]
  repeat rw [body_packWord _ _ _ _ _ (by decide)]
  repeat (first | rw [extract_high _ _ _ _ (by decide)] | rw [extract_low _ _ _ _ (by decide)])
  simp [h, mustBeZero]

theorem Encoding.ori (g : BitVec 4) (d : BitVec 6) (a : BitVec 6) (i : BitVec 10) : Encoding.Statement (.ori g d a i) := by
  intro h w e
  simp only [encode, Option.some.injEq] at e
  subst e
  simp [Instr.wf] at h
  simp [decodeWord, maj_packWord, guard_packWord, h, guard_packWord, fieldD, fieldA, fieldB, fieldFn, fieldImm10, fieldImm16, fieldDisp22, fieldPd, fieldCc, fieldFlags, fieldCmd]
  repeat rw [body_packWord _ _ _ _ _ (by decide)]
  repeat (first | rw [extract_high _ _ _ _ (by decide)] | rw [extract_low _ _ _ _ (by decide)])
  simp [h, mustBeZero]

theorem Encoding.xori (g : BitVec 4) (d : BitVec 6) (a : BitVec 6) (i : BitVec 10) : Encoding.Statement (.xori g d a i) := by
  intro h w e
  simp only [encode, Option.some.injEq] at e
  subst e
  simp [Instr.wf] at h
  simp [decodeWord, maj_packWord, guard_packWord, h, guard_packWord, fieldD, fieldA, fieldB, fieldFn, fieldImm10, fieldImm16, fieldDisp22, fieldPd, fieldCc, fieldFlags, fieldCmd]
  repeat rw [body_packWord _ _ _ _ _ (by decide)]
  repeat (first | rw [extract_high _ _ _ _ (by decide)] | rw [extract_low _ _ _ _ (by decide)])
  simp [h, mustBeZero]

/-- Major opcode 0x8. -/
theorem major_08 (g : BitVec 4) (b : BitVec 22) (h : ¬g = 8#4) :
    decodeWord (packWord 0x8 g b) = decodeShiftImm (packWord 0x8 g b) := by
  simp [decodeWord, maj_packWord, guard_packWord, h]

theorem Encoding.shli (g : BitVec 4) (d : BitVec 6) (a : BitVec 6) (n : BitVec 6) : Encoding.Statement (.shli g d a n) := by
  intro h w e
  simp only [encode, Option.some.injEq] at e
  subst e
  simp [Instr.wf] at h
  rw [major_08 _ _ h]
  simp only [decodeShiftImm, guard_packWord, fieldD, fieldA, fieldB, fieldFn, fieldImm10, fieldImm16, fieldDisp22, fieldPd, fieldCc, fieldFlags, fieldCmd]
  repeat rw [body_packWord _ _ _ _ _ (by decide)]
  repeat (first | rw [extract_high _ _ _ _ (by decide)] | rw [extract_low _ _ _ _ (by decide)])
  simp [h, mustBeZero]

theorem Encoding.shri (g : BitVec 4) (d : BitVec 6) (a : BitVec 6) (n : BitVec 6) : Encoding.Statement (.shri g d a n) := by
  intro h w e
  simp only [encode, Option.some.injEq] at e
  subst e
  simp [Instr.wf] at h
  rw [major_08 _ _ h]
  simp only [decodeShiftImm, guard_packWord, fieldD, fieldA, fieldB, fieldFn, fieldImm10, fieldImm16, fieldDisp22, fieldPd, fieldCc, fieldFlags, fieldCmd]
  repeat rw [body_packWord _ _ _ _ _ (by decide)]
  repeat (first | rw [extract_high _ _ _ _ (by decide)] | rw [extract_low _ _ _ _ (by decide)])
  simp [h, mustBeZero]

theorem Encoding.srai (g : BitVec 4) (d : BitVec 6) (a : BitVec 6) (n : BitVec 6) : Encoding.Statement (.srai g d a n) := by
  intro h w e
  simp only [encode, Option.some.injEq] at e
  subst e
  simp [Instr.wf] at h
  rw [major_08 _ _ h]
  simp only [decodeShiftImm, guard_packWord, fieldD, fieldA, fieldB, fieldFn, fieldImm10, fieldImm16, fieldDisp22, fieldPd, fieldCc, fieldFlags, fieldCmd]
  repeat rw [body_packWord _ _ _ _ _ (by decide)]
  repeat (first | rw [extract_high _ _ _ _ (by decide)] | rw [extract_low _ _ _ _ (by decide)])
  simp [h, mustBeZero]

theorem Encoding.movi (g : BitVec 4) (d : BitVec 6) (i : BitVec 16) : Encoding.Statement (.movi g d i) := by
  intro h w e
  simp only [encode, Option.some.injEq] at e
  subst e
  simp [Instr.wf] at h
  simp [decodeWord, maj_packWord, guard_packWord, h, guard_packWord, fieldD, fieldA, fieldB, fieldFn, fieldImm10, fieldImm16, fieldDisp22, fieldPd, fieldCc, fieldFlags, fieldCmd]
  repeat rw [body_packWord _ _ _ _ _ (by decide)]
  repeat (first | rw [extract_high _ _ _ _ (by decide)] | rw [extract_low _ _ _ _ (by decide)])
  simp [h, mustBeZero]

theorem Encoding.movh (g : BitVec 4) (d : BitVec 6) (i : BitVec 16) : Encoding.Statement (.movh g d i) := by
  intro h w e
  simp only [encode, Option.some.injEq] at e
  subst e
  simp [Instr.wf] at h
  simp [decodeWord, maj_packWord, guard_packWord, h, guard_packWord, fieldD, fieldA, fieldB, fieldFn, fieldImm10, fieldImm16, fieldDisp22, fieldPd, fieldCc, fieldFlags, fieldCmd]
  repeat rw [body_packWord _ _ _ _ _ (by decide)]
  repeat (first | rw [extract_high _ _ _ _ (by decide)] | rw [extract_low _ _ _ _ (by decide)])
  simp [h, mustBeZero]

/-- Major opcode 0xc. -/
theorem major_0c (g : BitVec 4) (b : BitVec 22) (h : ¬g = 8#4) :
    decodeWord (packWord 0xc g b) = decodeCompare .cmp (packWord 0xc g b) := by
  simp [decodeWord, maj_packWord, guard_packWord, h]

theorem Encoding.cmp (g : BitVec 4) (p : BitVec 3) (c : BitVec 3) (a : BitVec 6) (b : BitVec 6) : Encoding.Statement (.cmp g p c a b) := by
  intro h w e
  simp only [encode, Option.some.injEq] at e
  subst e
  simp [Instr.wf] at h
  rw [major_0c _ _ h.1]
  simp only [decodeCompare, guard_packWord, fieldD, fieldA, fieldB, fieldFn, fieldImm10, fieldImm16, fieldDisp22, fieldPd, fieldCc, fieldFlags, fieldCmd]
  repeat rw [body_packWord _ _ _ _ _ (by decide)]
  repeat (first | rw [extract_high _ _ _ _ (by decide)] | rw [extract_low _ _ _ _ (by decide)])
  simp [h, mustBeZero]

/-- Major opcode 0xd. -/
theorem major_0d (g : BitVec 4) (b : BitVec 22) (h : ¬g = 8#4) :
    decodeWord (packWord 0xd g b) = decodeCmpi (packWord 0xd g b) := by
  simp [decodeWord, maj_packWord, guard_packWord, h]

theorem Encoding.cmpi (g : BitVec 4) (p : BitVec 3) (c : BitVec 3) (a : BitVec 6) (i : BitVec 10) : Encoding.Statement (.cmpi g p c a i) := by
  intro h w e
  simp only [encode, Option.some.injEq] at e
  subst e
  simp [Instr.wf] at h
  rw [major_0d _ _ h.1]
  simp only [decodeCmpi, guard_packWord, fieldD, fieldA, fieldB, fieldFn, fieldImm10, fieldImm16, fieldDisp22, fieldPd, fieldCc, fieldFlags, fieldCmd]
  repeat rw [body_packWord _ _ _ _ _ (by decide)]
  repeat (first | rw [extract_high _ _ _ _ (by decide)] | rw [extract_low _ _ _ _ (by decide)])
  simp [h, mustBeZero]

/-- Major opcode 0xe. -/
theorem major_0e (g : BitVec 4) (b : BitVec 22) (h : ¬g = 8#4) :
    decodeWord (packWord 0xe g b) = decodePlog (packWord 0xe g b) := by
  simp [decodeWord, maj_packWord, guard_packWord, h]

theorem Encoding.pand (g : BitVec 4) (d : BitVec 3) (a : BitVec 3) (b : BitVec 3) : Encoding.Statement (.pand g d a b) := by
  intro h w e
  simp only [encode, Option.some.injEq] at e
  subst e
  simp [Instr.wf] at h
  rw [major_0e _ _ h]
  simp only [decodePlog, guard_packWord, fieldD, fieldA, fieldB, fieldFn, fieldImm10, fieldImm16, fieldDisp22, fieldPd, fieldCc, fieldFlags, fieldCmd]
  repeat rw [body_packWord _ _ _ _ _ (by decide)]
  repeat (first | rw [extract_high _ _ _ _ (by decide)] | rw [extract_low _ _ _ _ (by decide)])
  simp [h, mustBeZero]

theorem Encoding.por (g : BitVec 4) (d : BitVec 3) (a : BitVec 3) (b : BitVec 3) : Encoding.Statement (.por g d a b) := by
  intro h w e
  simp only [encode, Option.some.injEq] at e
  subst e
  simp [Instr.wf] at h
  rw [major_0e _ _ h]
  simp only [decodePlog, guard_packWord, fieldD, fieldA, fieldB, fieldFn, fieldImm10, fieldImm16, fieldDisp22, fieldPd, fieldCc, fieldFlags, fieldCmd]
  repeat rw [body_packWord _ _ _ _ _ (by decide)]
  repeat (first | rw [extract_high _ _ _ _ (by decide)] | rw [extract_low _ _ _ _ (by decide)])
  simp [h, mustBeZero]

theorem Encoding.pxor (g : BitVec 4) (d : BitVec 3) (a : BitVec 3) (b : BitVec 3) : Encoding.Statement (.pxor g d a b) := by
  intro h w e
  simp only [encode, Option.some.injEq] at e
  subst e
  simp [Instr.wf] at h
  rw [major_0e _ _ h]
  simp only [decodePlog, guard_packWord, fieldD, fieldA, fieldB, fieldFn, fieldImm10, fieldImm16, fieldDisp22, fieldPd, fieldCc, fieldFlags, fieldCmd]
  repeat rw [body_packWord _ _ _ _ _ (by decide)]
  repeat (first | rw [extract_high _ _ _ _ (by decide)] | rw [extract_low _ _ _ _ (by decide)])
  simp [h, mustBeZero]

theorem Encoding.pandn (g : BitVec 4) (d : BitVec 3) (a : BitVec 3) (b : BitVec 3) : Encoding.Statement (.pandn g d a b) := by
  intro h w e
  simp only [encode, Option.some.injEq] at e
  subst e
  simp [Instr.wf] at h
  rw [major_0e _ _ h]
  simp only [decodePlog, guard_packWord, fieldD, fieldA, fieldB, fieldFn, fieldImm10, fieldImm16, fieldDisp22, fieldPd, fieldCc, fieldFlags, fieldCmd]
  repeat rw [body_packWord _ _ _ _ _ (by decide)]
  repeat (first | rw [extract_high _ _ _ _ (by decide)] | rw [extract_low _ _ _ _ (by decide)])
  simp [h, mustBeZero]

theorem Encoding.pnot (g : BitVec 4) (d : BitVec 3) (a : BitVec 3) : Encoding.Statement (.pnot g d a) := by
  intro h w e
  simp only [encode, Option.some.injEq] at e
  subst e
  simp [Instr.wf] at h
  rw [major_0e _ _ h]
  simp only [decodePlog, guard_packWord, fieldD, fieldA, fieldB, fieldFn, fieldImm10, fieldImm16, fieldDisp22, fieldPd, fieldCc, fieldFlags, fieldCmd]
  repeat rw [body_packWord _ _ _ _ _ (by decide)]
  repeat (first | rw [extract_high _ _ _ _ (by decide)] | rw [extract_low _ _ _ _ (by decide)])
  simp [h, mustBeZero]

theorem Encoding.pmov (g : BitVec 4) (d : BitVec 3) (a : BitVec 3) : Encoding.Statement (.pmov g d a) := by
  intro h w e
  simp only [encode, Option.some.injEq] at e
  subst e
  simp [Instr.wf] at h
  rw [major_0e _ _ h]
  simp only [decodePlog, guard_packWord, fieldD, fieldA, fieldB, fieldFn, fieldImm10, fieldImm16, fieldDisp22, fieldPd, fieldCc, fieldFlags, fieldCmd]
  repeat rw [body_packWord _ _ _ _ _ (by decide)]
  repeat (first | rw [extract_high _ _ _ _ (by decide)] | rw [extract_low _ _ _ _ (by decide)])
  simp [h, mustBeZero]

theorem Encoding.sel (g : BitVec 4) (d : BitVec 6) (a : BitVec 6) (b : BitVec 6) (n : BitVec 1) (p : BitVec 3) : Encoding.Statement (.sel g d a b n p) := by
  intro h w e
  simp only [encode, Option.some.injEq] at e
  subst e
  simp [Instr.wf] at h
  simp [decodeWord, maj_packWord, guard_packWord, h, guard_packWord, fieldD, fieldA, fieldB, fieldFn, fieldImm10, fieldImm16, fieldDisp22, fieldPd, fieldCc, fieldFlags, fieldCmd]
  repeat rw [body_packWord _ _ _ _ _ (by decide)]
  repeat (first | rw [extract_high _ _ _ _ (by decide)] | rw [extract_low _ _ _ _ (by decide)])
  simp [h, mustBeZero]

theorem Encoding.adds (g : BitVec 4) (d : BitVec 6) (a : BitVec 6) (b : BitVec 6) (k : BitVec 4) : Encoding.Statement (.adds g d a b k) := by
  intro h w e
  simp only [encode, Option.some.injEq] at e
  subst e
  simp [Instr.wf] at h
  simp [decodeWord, maj_packWord, guard_packWord, h, guard_packWord, fieldD, fieldA, fieldB, fieldFn, fieldImm10, fieldImm16, fieldDisp22, fieldPd, fieldCc, fieldFlags, fieldCmd]
  repeat rw [body_packWord _ _ _ _ _ (by decide)]
  repeat (first | rw [extract_high _ _ _ _ (by decide)] | rw [extract_low _ _ _ _ (by decide)])
  simp [h, mustBeZero]

/-- Major opcode 0x11. -/
theorem major_11 (g : BitVec 4) (b : BitVec 22) (h : ¬g = 8#4) :
    decodeWord (packWord 0x11 g b) = decodeFp (packWord 0x11 g b) := by
  simp [decodeWord, maj_packWord, guard_packWord, h]

theorem Encoding.fadd (g : BitVec 4) (d : BitVec 6) (a : BitVec 6) (b : BitVec 6) : Encoding.Statement (.fadd g d a b) := by
  intro h w e
  simp only [encode, Option.some.injEq] at e
  subst e
  simp [Instr.wf] at h
  rw [major_11 _ _ h]
  simp only [decodeFp, guard_packWord, fieldD, fieldA, fieldB, fieldFn, fieldImm10, fieldImm16, fieldDisp22, fieldPd, fieldCc, fieldFlags, fieldCmd]
  repeat rw [body_packWord _ _ _ _ _ (by decide)]
  repeat (first | rw [extract_high _ _ _ _ (by decide)] | rw [extract_low _ _ _ _ (by decide)])
  simp [h, mustBeZero]

theorem Encoding.fsub (g : BitVec 4) (d : BitVec 6) (a : BitVec 6) (b : BitVec 6) : Encoding.Statement (.fsub g d a b) := by
  intro h w e
  simp only [encode, Option.some.injEq] at e
  subst e
  simp [Instr.wf] at h
  rw [major_11 _ _ h]
  simp only [decodeFp, guard_packWord, fieldD, fieldA, fieldB, fieldFn, fieldImm10, fieldImm16, fieldDisp22, fieldPd, fieldCc, fieldFlags, fieldCmd]
  repeat rw [body_packWord _ _ _ _ _ (by decide)]
  repeat (first | rw [extract_high _ _ _ _ (by decide)] | rw [extract_low _ _ _ _ (by decide)])
  simp [h, mustBeZero]

theorem Encoding.fmul (g : BitVec 4) (d : BitVec 6) (a : BitVec 6) (b : BitVec 6) : Encoding.Statement (.fmul g d a b) := by
  intro h w e
  simp only [encode, Option.some.injEq] at e
  subst e
  simp [Instr.wf] at h
  rw [major_11 _ _ h]
  simp only [decodeFp, guard_packWord, fieldD, fieldA, fieldB, fieldFn, fieldImm10, fieldImm16, fieldDisp22, fieldPd, fieldCc, fieldFlags, fieldCmd]
  repeat rw [body_packWord _ _ _ _ _ (by decide)]
  repeat (first | rw [extract_high _ _ _ _ (by decide)] | rw [extract_low _ _ _ _ (by decide)])
  simp [h, mustBeZero]

theorem Encoding.fma (g : BitVec 4) (d : BitVec 6) (a : BitVec 6) (b : BitVec 6) : Encoding.Statement (.fma g d a b) := by
  intro h w e
  simp only [encode, Option.some.injEq] at e
  subst e
  simp [Instr.wf] at h
  rw [major_11 _ _ h]
  simp only [decodeFp, guard_packWord, fieldD, fieldA, fieldB, fieldFn, fieldImm10, fieldImm16, fieldDisp22, fieldPd, fieldCc, fieldFlags, fieldCmd]
  repeat rw [body_packWord _ _ _ _ _ (by decide)]
  repeat (first | rw [extract_high _ _ _ _ (by decide)] | rw [extract_low _ _ _ _ (by decide)])
  simp [h, mustBeZero]

theorem Encoding.fdiv (g : BitVec 4) (d : BitVec 6) (a : BitVec 6) (b : BitVec 6) : Encoding.Statement (.fdiv g d a b) := by
  intro h w e
  simp only [encode, Option.some.injEq] at e
  subst e
  simp [Instr.wf] at h
  rw [major_11 _ _ h]
  simp only [decodeFp, guard_packWord, fieldD, fieldA, fieldB, fieldFn, fieldImm10, fieldImm16, fieldDisp22, fieldPd, fieldCc, fieldFlags, fieldCmd]
  repeat rw [body_packWord _ _ _ _ _ (by decide)]
  repeat (first | rw [extract_high _ _ _ _ (by decide)] | rw [extract_low _ _ _ _ (by decide)])
  simp [h, mustBeZero]

theorem Encoding.fsqrt (g : BitVec 4) (d : BitVec 6) (a : BitVec 6) : Encoding.Statement (.fsqrt g d a) := by
  intro h w e
  simp only [encode, Option.some.injEq] at e
  subst e
  simp [Instr.wf] at h
  rw [major_11 _ _ h]
  simp only [decodeFp, guard_packWord, fieldD, fieldA, fieldB, fieldFn, fieldImm10, fieldImm16, fieldDisp22, fieldPd, fieldCc, fieldFlags, fieldCmd]
  repeat rw [body_packWord _ _ _ _ _ (by decide)]
  repeat (first | rw [extract_high _ _ _ _ (by decide)] | rw [extract_low _ _ _ _ (by decide)])
  simp [h, mustBeZero]

theorem Encoding.fmin (g : BitVec 4) (d : BitVec 6) (a : BitVec 6) (b : BitVec 6) : Encoding.Statement (.fmin g d a b) := by
  intro h w e
  simp only [encode, Option.some.injEq] at e
  subst e
  simp [Instr.wf] at h
  rw [major_11 _ _ h]
  simp only [decodeFp, guard_packWord, fieldD, fieldA, fieldB, fieldFn, fieldImm10, fieldImm16, fieldDisp22, fieldPd, fieldCc, fieldFlags, fieldCmd]
  repeat rw [body_packWord _ _ _ _ _ (by decide)]
  repeat (first | rw [extract_high _ _ _ _ (by decide)] | rw [extract_low _ _ _ _ (by decide)])
  simp [h, mustBeZero]

theorem Encoding.fmax (g : BitVec 4) (d : BitVec 6) (a : BitVec 6) (b : BitVec 6) : Encoding.Statement (.fmax g d a b) := by
  intro h w e
  simp only [encode, Option.some.injEq] at e
  subst e
  simp [Instr.wf] at h
  rw [major_11 _ _ h]
  simp only [decodeFp, guard_packWord, fieldD, fieldA, fieldB, fieldFn, fieldImm10, fieldImm16, fieldDisp22, fieldPd, fieldCc, fieldFlags, fieldCmd]
  repeat rw [body_packWord _ _ _ _ _ (by decide)]
  repeat (first | rw [extract_high _ _ _ _ (by decide)] | rw [extract_low _ _ _ _ (by decide)])
  simp [h, mustBeZero]

theorem Encoding.fabs (g : BitVec 4) (d : BitVec 6) (a : BitVec 6) : Encoding.Statement (.fabs g d a) := by
  intro h w e
  simp only [encode, Option.some.injEq] at e
  subst e
  simp [Instr.wf] at h
  rw [major_11 _ _ h]
  simp only [decodeFp, guard_packWord, fieldD, fieldA, fieldB, fieldFn, fieldImm10, fieldImm16, fieldDisp22, fieldPd, fieldCc, fieldFlags, fieldCmd]
  repeat rw [body_packWord _ _ _ _ _ (by decide)]
  repeat (first | rw [extract_high _ _ _ _ (by decide)] | rw [extract_low _ _ _ _ (by decide)])
  simp [h, mustBeZero]

theorem Encoding.fneg (g : BitVec 4) (d : BitVec 6) (a : BitVec 6) : Encoding.Statement (.fneg g d a) := by
  intro h w e
  simp only [encode, Option.some.injEq] at e
  subst e
  simp [Instr.wf] at h
  rw [major_11 _ _ h]
  simp only [decodeFp, guard_packWord, fieldD, fieldA, fieldB, fieldFn, fieldImm10, fieldImm16, fieldDisp22, fieldPd, fieldCc, fieldFlags, fieldCmd]
  repeat rw [body_packWord _ _ _ _ _ (by decide)]
  repeat (first | rw [extract_high _ _ _ _ (by decide)] | rw [extract_low _ _ _ _ (by decide)])
  simp [h, mustBeZero]

theorem Encoding.fclass (g : BitVec 4) (d : BitVec 6) (a : BitVec 6) : Encoding.Statement (.fclass g d a) := by
  intro h w e
  simp only [encode, Option.some.injEq] at e
  subst e
  simp [Instr.wf] at h
  rw [major_11 _ _ h]
  simp only [decodeFp, guard_packWord, fieldD, fieldA, fieldB, fieldFn, fieldImm10, fieldImm16, fieldDisp22, fieldPd, fieldCc, fieldFlags, fieldCmd]
  repeat rw [body_packWord _ _ _ _ _ (by decide)]
  repeat (first | rw [extract_high _ _ _ _ (by decide)] | rw [extract_low _ _ _ _ (by decide)])
  simp [h, mustBeZero]

/-- Major opcode 0x12. -/
theorem major_12 (g : BitVec 4) (b : BitVec 22) (h : ¬g = 8#4) :
    decodeWord (packWord 0x12 g b) = decodeFcvt (packWord 0x12 g b) := by
  simp [decodeWord, maj_packWord, guard_packWord, h]

theorem Encoding.fcvt (g : BitVec 4) (d : BitVec 6) (a : BitVec 6) (x : BitVec 3) (y : BitVec 3) (r : BitVec 2) : Encoding.Statement (.fcvt g d a x y r) := by
  intro h w e
  simp only [encode, Option.some.injEq] at e
  subst e
  simp [Instr.wf] at h
  rw [major_12 _ _ h.1]
  simp only [decodeFcvt, guard_packWord, fieldD, fieldA, fieldB, fieldFn, fieldImm10, fieldImm16, fieldDisp22, fieldPd, fieldCc, fieldFlags, fieldCmd]
  repeat rw [body_packWord _ _ _ _ _ (by decide)]
  repeat (first | rw [extract_high _ _ _ _ (by decide)] | rw [extract_low _ _ _ _ (by decide)])
  simp [h, mustBeZero]

/-- Major opcode 0x13. -/
theorem major_13 (g : BitVec 4) (b : BitVec 22) (h : ¬g = 8#4) :
    decodeWord (packWord 0x13 g b) = decodeCompare .fcmp (packWord 0x13 g b) := by
  simp [decodeWord, maj_packWord, guard_packWord, h]

theorem Encoding.fcmp (g : BitVec 4) (p : BitVec 3) (c : BitVec 3) (a : BitVec 6) (b : BitVec 6) : Encoding.Statement (.fcmp g p c a b) := by
  intro h w e
  simp only [encode, Option.some.injEq] at e
  subst e
  simp [Instr.wf] at h
  rw [major_13 _ _ h.1]
  simp only [decodeCompare, guard_packWord, fieldD, fieldA, fieldB, fieldFn, fieldImm10, fieldImm16, fieldDisp22, fieldPd, fieldCc, fieldFlags, fieldCmd]
  repeat rw [body_packWord _ _ _ _ _ (by decide)]
  repeat (first | rw [extract_high _ _ _ _ (by decide)] | rw [extract_low _ _ _ _ (by decide)])
  simp [h, mustBeZero]

theorem Encoding.br (g : BitVec 4) (d : BitVec 22) : Encoding.Statement (.br g d) := by
  intro h w e
  simp only [encode, Option.some.injEq] at e
  subst e
  simp [Instr.wf] at h
  simp [decodeWord, maj_packWord, guard_packWord, h, guard_packWord, fieldD, fieldA, fieldB, fieldFn, fieldImm10, fieldImm16, fieldDisp22, fieldPd, fieldCc, fieldFlags, fieldCmd]
  repeat rw [body_packWord _ _ _ _ _ (by decide)]
  repeat (first | rw [extract_high _ _ _ _ (by decide)] | rw [extract_low _ _ _ _ (by decide)])
  simp [h, mustBeZero]

theorem Encoding.call (g : BitVec 4) (d : BitVec 22) : Encoding.Statement (.call g d) := by
  intro h w e
  simp only [encode, Option.some.injEq] at e
  subst e
  simp [Instr.wf] at h
  simp [decodeWord, maj_packWord, guard_packWord, h, guard_packWord, fieldD, fieldA, fieldB, fieldFn, fieldImm10, fieldImm16, fieldDisp22, fieldPd, fieldCc, fieldFlags, fieldCmd]
  repeat rw [body_packWord _ _ _ _ _ (by decide)]
  repeat (first | rw [extract_high _ _ _ _ (by decide)] | rw [extract_low _ _ _ _ (by decide)])
  simp [h, mustBeZero]

/-- Major opcode 0x16. -/
theorem major_16 (g : BitVec 4) (b : BitVec 22) (h : ¬g = 8#4) :
    decodeWord (packWord 0x16 g b) = decodeJump (packWord 0x16 g b) := by
  simp [decodeWord, maj_packWord, guard_packWord, h]

theorem Encoding.jmpr (g : BitVec 4) (a : BitVec 6) : Encoding.Statement (.jmpr g a) := by
  intro h w e
  simp only [encode, Option.some.injEq] at e
  subst e
  simp [Instr.wf] at h
  rw [major_16 _ _ h]
  simp only [decodeJump, guard_packWord, fieldD, fieldA, fieldB, fieldFn, fieldImm10, fieldImm16, fieldDisp22, fieldPd, fieldCc, fieldFlags, fieldCmd]
  repeat rw [body_packWord _ _ _ _ _ (by decide)]
  repeat (first | rw [extract_high _ _ _ _ (by decide)] | rw [extract_low _ _ _ _ (by decide)])
  simp [h, mustBeZero]

theorem Encoding.callr (g : BitVec 4) (a : BitVec 6) : Encoding.Statement (.callr g a) := by
  intro h w e
  simp only [encode, Option.some.injEq] at e
  subst e
  simp [Instr.wf] at h
  rw [major_16 _ _ h]
  simp only [decodeJump, guard_packWord, fieldD, fieldA, fieldB, fieldFn, fieldImm10, fieldImm16, fieldDisp22, fieldPd, fieldCc, fieldFlags, fieldCmd]
  repeat rw [body_packWord _ _ _ _ _ (by decide)]
  repeat (first | rw [extract_high _ _ _ _ (by decide)] | rw [extract_low _ _ _ _ (by decide)])
  simp [h, mustBeZero]

theorem Encoding.ret (g : BitVec 4) : Encoding.Statement (.ret g) := by
  intro h w e
  simp only [encode, Option.some.injEq] at e
  subst e
  simp [Instr.wf] at h
  rw [major_16 _ _ h]
  simp only [decodeJump, guard_packWord, fieldD, fieldA, fieldB, fieldFn, fieldImm10, fieldImm16, fieldDisp22, fieldPd, fieldCc, fieldFlags, fieldCmd]
  repeat rw [body_packWord _ _ _ _ _ (by decide)]
  repeat (first | rw [extract_high _ _ _ _ (by decide)] | rw [extract_low _ _ _ _ (by decide)])
  simp [h, mustBeZero]

/-- Major opcode 0x17. -/
theorem major_17 (g : BitVec 4) (b : BitVec 22) (h : ¬g = 8#4) :
    decodeWord (packWord 0x17 g b) = decodeLoop (packWord 0x17 g b) := by
  simp [decodeWord, maj_packWord, guard_packWord, h]

theorem Encoding.loop (g : BitVec 4) (n : BitVec 1) (a : BitVec 6) (i : BitVec 10) : Encoding.Statement (.loop g n a i) := by
  intro h w e
  simp only [encode, Option.some.injEq] at e
  subst e
  simp [Instr.wf] at h
  rw [major_17 _ _ h.1]
  simp only [decodeLoop, guard_packWord, fieldD, fieldA, fieldB, fieldFn, fieldImm10, fieldImm16, fieldDisp22, fieldPd, fieldCc, fieldFlags, fieldCmd]
  repeat rw [body_packWord _ _ _ _ _ (by decide)]
  repeat (first | rw [extract_high _ _ _ _ (by decide)] | rw [extract_low _ _ _ _ (by decide)])
  simp [h, mustBeZero]

theorem Encoding.ldb (g : BitVec 4) (d : BitVec 6) (b : BitVec 6) (i : BitVec 10) : Encoding.Statement (.ldb g d b i) := by
  intro h w e
  simp only [encode, Option.some.injEq] at e
  subst e
  simp [Instr.wf] at h
  simp [decodeWord, maj_packWord, guard_packWord, h, guard_packWord, fieldD, fieldA, fieldB, fieldFn, fieldImm10, fieldImm16, fieldDisp22, fieldPd, fieldCc, fieldFlags, fieldCmd]
  repeat rw [body_packWord _ _ _ _ _ (by decide)]
  repeat (first | rw [extract_high _ _ _ _ (by decide)] | rw [extract_low _ _ _ _ (by decide)])
  simp [h, mustBeZero]

theorem Encoding.ldh (g : BitVec 4) (d : BitVec 6) (b : BitVec 6) (i : BitVec 10) : Encoding.Statement (.ldh g d b i) := by
  intro h w e
  simp only [encode, Option.some.injEq] at e
  subst e
  simp [Instr.wf] at h
  simp [decodeWord, maj_packWord, guard_packWord, h, guard_packWord, fieldD, fieldA, fieldB, fieldFn, fieldImm10, fieldImm16, fieldDisp22, fieldPd, fieldCc, fieldFlags, fieldCmd]
  repeat rw [body_packWord _ _ _ _ _ (by decide)]
  repeat (first | rw [extract_high _ _ _ _ (by decide)] | rw [extract_low _ _ _ _ (by decide)])
  simp [h, mustBeZero]

theorem Encoding.ldw (g : BitVec 4) (d : BitVec 6) (b : BitVec 6) (i : BitVec 10) : Encoding.Statement (.ldw g d b i) := by
  intro h w e
  simp only [encode, Option.some.injEq] at e
  subst e
  simp [Instr.wf] at h
  simp [decodeWord, maj_packWord, guard_packWord, h, guard_packWord, fieldD, fieldA, fieldB, fieldFn, fieldImm10, fieldImm16, fieldDisp22, fieldPd, fieldCc, fieldFlags, fieldCmd]
  repeat rw [body_packWord _ _ _ _ _ (by decide)]
  repeat (first | rw [extract_high _ _ _ _ (by decide)] | rw [extract_low _ _ _ _ (by decide)])
  simp [h, mustBeZero]

theorem Encoding.ldd (g : BitVec 4) (d : BitVec 6) (b : BitVec 6) (i : BitVec 10) : Encoding.Statement (.ldd g d b i) := by
  intro h w e
  simp only [encode, Option.some.injEq] at e
  subst e
  simp [Instr.wf] at h
  simp [decodeWord, maj_packWord, guard_packWord, h, guard_packWord, fieldD, fieldA, fieldB, fieldFn, fieldImm10, fieldImm16, fieldDisp22, fieldPd, fieldCc, fieldFlags, fieldCmd]
  repeat rw [body_packWord _ _ _ _ _ (by decide)]
  repeat (first | rw [extract_high _ _ _ _ (by decide)] | rw [extract_low _ _ _ _ (by decide)])
  simp [h, mustBeZero]

theorem Encoding.ldbu (g : BitVec 4) (d : BitVec 6) (b : BitVec 6) (i : BitVec 10) : Encoding.Statement (.ldbu g d b i) := by
  intro h w e
  simp only [encode, Option.some.injEq] at e
  subst e
  simp [Instr.wf] at h
  simp [decodeWord, maj_packWord, guard_packWord, h, guard_packWord, fieldD, fieldA, fieldB, fieldFn, fieldImm10, fieldImm16, fieldDisp22, fieldPd, fieldCc, fieldFlags, fieldCmd]
  repeat rw [body_packWord _ _ _ _ _ (by decide)]
  repeat (first | rw [extract_high _ _ _ _ (by decide)] | rw [extract_low _ _ _ _ (by decide)])
  simp [h, mustBeZero]

theorem Encoding.ldhu (g : BitVec 4) (d : BitVec 6) (b : BitVec 6) (i : BitVec 10) : Encoding.Statement (.ldhu g d b i) := by
  intro h w e
  simp only [encode, Option.some.injEq] at e
  subst e
  simp [Instr.wf] at h
  simp [decodeWord, maj_packWord, guard_packWord, h, guard_packWord, fieldD, fieldA, fieldB, fieldFn, fieldImm10, fieldImm16, fieldDisp22, fieldPd, fieldCc, fieldFlags, fieldCmd]
  repeat rw [body_packWord _ _ _ _ _ (by decide)]
  repeat (first | rw [extract_high _ _ _ _ (by decide)] | rw [extract_low _ _ _ _ (by decide)])
  simp [h, mustBeZero]

theorem Encoding.ldwu (g : BitVec 4) (d : BitVec 6) (b : BitVec 6) (i : BitVec 10) : Encoding.Statement (.ldwu g d b i) := by
  intro h w e
  simp only [encode, Option.some.injEq] at e
  subst e
  simp [Instr.wf] at h
  simp [decodeWord, maj_packWord, guard_packWord, h, guard_packWord, fieldD, fieldA, fieldB, fieldFn, fieldImm10, fieldImm16, fieldDisp22, fieldPd, fieldCc, fieldFlags, fieldCmd]
  repeat rw [body_packWord _ _ _ _ _ (by decide)]
  repeat (first | rw [extract_high _ _ _ _ (by decide)] | rw [extract_low _ _ _ _ (by decide)])
  simp [h, mustBeZero]

theorem Encoding.stb (g : BitVec 4) (d : BitVec 6) (b : BitVec 6) (i : BitVec 10) : Encoding.Statement (.stb g d b i) := by
  intro h w e
  simp only [encode, Option.some.injEq] at e
  subst e
  simp [Instr.wf] at h
  simp [decodeWord, maj_packWord, guard_packWord, h, guard_packWord, fieldD, fieldA, fieldB, fieldFn, fieldImm10, fieldImm16, fieldDisp22, fieldPd, fieldCc, fieldFlags, fieldCmd]
  repeat rw [body_packWord _ _ _ _ _ (by decide)]
  repeat (first | rw [extract_high _ _ _ _ (by decide)] | rw [extract_low _ _ _ _ (by decide)])
  simp [h, mustBeZero]

theorem Encoding.sth (g : BitVec 4) (d : BitVec 6) (b : BitVec 6) (i : BitVec 10) : Encoding.Statement (.sth g d b i) := by
  intro h w e
  simp only [encode, Option.some.injEq] at e
  subst e
  simp [Instr.wf] at h
  simp [decodeWord, maj_packWord, guard_packWord, h, guard_packWord, fieldD, fieldA, fieldB, fieldFn, fieldImm10, fieldImm16, fieldDisp22, fieldPd, fieldCc, fieldFlags, fieldCmd]
  repeat rw [body_packWord _ _ _ _ _ (by decide)]
  repeat (first | rw [extract_high _ _ _ _ (by decide)] | rw [extract_low _ _ _ _ (by decide)])
  simp [h, mustBeZero]

theorem Encoding.stw (g : BitVec 4) (d : BitVec 6) (b : BitVec 6) (i : BitVec 10) : Encoding.Statement (.stw g d b i) := by
  intro h w e
  simp only [encode, Option.some.injEq] at e
  subst e
  simp [Instr.wf] at h
  simp [decodeWord, maj_packWord, guard_packWord, h, guard_packWord, fieldD, fieldA, fieldB, fieldFn, fieldImm10, fieldImm16, fieldDisp22, fieldPd, fieldCc, fieldFlags, fieldCmd]
  repeat rw [body_packWord _ _ _ _ _ (by decide)]
  repeat (first | rw [extract_high _ _ _ _ (by decide)] | rw [extract_low _ _ _ _ (by decide)])
  simp [h, mustBeZero]

theorem Encoding.std (g : BitVec 4) (d : BitVec 6) (b : BitVec 6) (i : BitVec 10) : Encoding.Statement (.std g d b i) := by
  intro h w e
  simp only [encode, Option.some.injEq] at e
  subst e
  simp [Instr.wf] at h
  simp [decodeWord, maj_packWord, guard_packWord, h, guard_packWord, fieldD, fieldA, fieldB, fieldFn, fieldImm10, fieldImm16, fieldDisp22, fieldPd, fieldCc, fieldFlags, fieldCmd]
  repeat rw [body_packWord _ _ _ _ _ (by decide)]
  repeat (first | rw [extract_high _ _ _ _ (by decide)] | rw [extract_low _ _ _ _ (by decide)])
  simp [h, mustBeZero]

/-- Major opcode 0x2c. -/
theorem major_2c (g : BitVec 4) (b : BitVec 22) (h : ¬g = 8#4) :
    decodeWord (packWord 0x2c g b) = decodeAmo .amo (packWord 0x2c g b) := by
  simp [decodeWord, maj_packWord, guard_packWord, h]

theorem Encoding.amo (g : BitVec 4) (d : BitVec 6) (a : BitVec 6) (b : BitVec 6) (o : BitVec 4) : Encoding.Statement (.amo g d a b o) := by
  intro h w e
  simp only [encode, Option.some.injEq] at e
  subst e
  simp [Instr.wf] at h
  rw [major_2c _ _ h.1]
  simp only [decodeAmo, guard_packWord, fieldD, fieldA, fieldB, fieldFn, fieldImm10, fieldImm16, fieldDisp22, fieldPd, fieldCc, fieldFlags, fieldCmd]
  repeat rw [body_packWord _ _ _ _ _ (by decide)]
  repeat (first | rw [extract_high _ _ _ _ (by decide)] | rw [extract_low _ _ _ _ (by decide)])
  simp [h, mustBeZero]

/-- Major opcode 0x2d. -/
theorem major_2d (g : BitVec 4) (b : BitVec 22) (h : ¬g = 8#4) :
    decodeWord (packWord 0x2d g b) = decodeAmo .amoAcq (packWord 0x2d g b) := by
  simp [decodeWord, maj_packWord, guard_packWord, h]

theorem Encoding.amoAcq (g : BitVec 4) (d : BitVec 6) (a : BitVec 6) (b : BitVec 6) (o : BitVec 4) : Encoding.Statement (.amoAcq g d a b o) := by
  intro h w e
  simp only [encode, Option.some.injEq] at e
  subst e
  simp [Instr.wf] at h
  rw [major_2d _ _ h.1]
  simp only [decodeAmo, guard_packWord, fieldD, fieldA, fieldB, fieldFn, fieldImm10, fieldImm16, fieldDisp22, fieldPd, fieldCc, fieldFlags, fieldCmd]
  repeat rw [body_packWord _ _ _ _ _ (by decide)]
  repeat (first | rw [extract_high _ _ _ _ (by decide)] | rw [extract_low _ _ _ _ (by decide)])
  simp [h, mustBeZero]

/-- Major opcode 0x2e. -/
theorem major_2e (g : BitVec 4) (b : BitVec 22) (h : ¬g = 8#4) :
    decodeWord (packWord 0x2e g b) = decodeAmo .amoRel (packWord 0x2e g b) := by
  simp [decodeWord, maj_packWord, guard_packWord, h]

theorem Encoding.amoRel (g : BitVec 4) (d : BitVec 6) (a : BitVec 6) (b : BitVec 6) (o : BitVec 4) : Encoding.Statement (.amoRel g d a b o) := by
  intro h w e
  simp only [encode, Option.some.injEq] at e
  subst e
  simp [Instr.wf] at h
  rw [major_2e _ _ h.1]
  simp only [decodeAmo, guard_packWord, fieldD, fieldA, fieldB, fieldFn, fieldImm10, fieldImm16, fieldDisp22, fieldPd, fieldCc, fieldFlags, fieldCmd]
  repeat rw [body_packWord _ _ _ _ _ (by decide)]
  repeat (first | rw [extract_high _ _ _ _ (by decide)] | rw [extract_low _ _ _ _ (by decide)])
  simp [h, mustBeZero]

/-- Major opcode 0x2f. -/
theorem major_2f (g : BitVec 4) (b : BitVec 22) (h : ¬g = 8#4) :
    decodeWord (packWord 0x2f g b) = decodeAmo .amoAr (packWord 0x2f g b) := by
  simp [decodeWord, maj_packWord, guard_packWord, h]

theorem Encoding.amoAr (g : BitVec 4) (d : BitVec 6) (a : BitVec 6) (b : BitVec 6) (o : BitVec 4) : Encoding.Statement (.amoAr g d a b o) := by
  intro h w e
  simp only [encode, Option.some.injEq] at e
  subst e
  simp [Instr.wf] at h
  rw [major_2f _ _ h.1]
  simp only [decodeAmo, guard_packWord, fieldD, fieldA, fieldB, fieldFn, fieldImm10, fieldImm16, fieldDisp22, fieldPd, fieldCc, fieldFlags, fieldCmd]
  repeat rw [body_packWord _ _ _ _ _ (by decide)]
  repeat (first | rw [extract_high _ _ _ _ (by decide)] | rw [extract_low _ _ _ _ (by decide)])
  simp [h, mustBeZero]

/-- Major opcode 0x30. -/
theorem major_30 (g : BitVec 4) (b : BitVec 22) (h : ¬g = 8#4) :
    decodeWord (packWord 0x30 g b) = decodeFence (packWord 0x30 g b) := by
  simp [decodeWord, maj_packWord, guard_packWord, h]

theorem Encoding.fence (g : BitVec 4) (s : BitVec 2) : Encoding.Statement (.fence g s) := by
  intro h w e
  simp only [encode, Option.some.injEq] at e
  subst e
  simp [Instr.wf] at h
  rw [major_30 _ _ h]
  simp only [decodeFence, guard_packWord, fieldD, fieldA, fieldB, fieldFn, fieldImm10, fieldImm16, fieldDisp22, fieldPd, fieldCc, fieldFlags, fieldCmd]
  repeat rw [body_packWord _ _ _ _ _ (by decide)]
  repeat (first | rw [extract_high _ _ _ _ (by decide)] | rw [extract_low _ _ _ _ (by decide)])
  simp [h, mustBeZero]

theorem Encoding.fenceAcq (g : BitVec 4) (s : BitVec 2) : Encoding.Statement (.fenceAcq g s) := by
  intro h w e
  simp only [encode, Option.some.injEq] at e
  subst e
  simp [Instr.wf] at h
  rw [major_30 _ _ h]
  simp only [decodeFence, guard_packWord, fieldD, fieldA, fieldB, fieldFn, fieldImm10, fieldImm16, fieldDisp22, fieldPd, fieldCc, fieldFlags, fieldCmd]
  repeat rw [body_packWord _ _ _ _ _ (by decide)]
  repeat (first | rw [extract_high _ _ _ _ (by decide)] | rw [extract_low _ _ _ _ (by decide)])
  simp [h, mustBeZero]

theorem Encoding.fenceRel (g : BitVec 4) (s : BitVec 2) : Encoding.Statement (.fenceRel g s) := by
  intro h w e
  simp only [encode, Option.some.injEq] at e
  subst e
  simp [Instr.wf] at h
  rw [major_30 _ _ h]
  simp only [decodeFence, guard_packWord, fieldD, fieldA, fieldB, fieldFn, fieldImm10, fieldImm16, fieldDisp22, fieldPd, fieldCc, fieldFlags, fieldCmd]
  repeat rw [body_packWord _ _ _ _ _ (by decide)]
  repeat (first | rw [extract_high _ _ _ _ (by decide)] | rw [extract_low _ _ _ _ (by decide)])
  simp [h, mustBeZero]

/-- Major opcode 0x31. -/
theorem major_31 (g : BitVec 4) (b : BitVec 22) (h : ¬g = 8#4) :
    decodeWord (packWord 0x31 g b) = decodeBarrier (packWord 0x31 g b) := by
  simp [decodeWord, maj_packWord, guard_packWord, h]

theorem Encoding.bpost (g : BitVec 4) (a : BitVec 6) (b : BitVec 6) : Encoding.Statement (.bpost g a b) := by
  intro h w e
  simp only [encode, Option.some.injEq] at e
  subst e
  simp [Instr.wf] at h
  rw [major_31 _ _ h]
  simp only [decodeBarrier, guard_packWord, fieldD, fieldA, fieldB, fieldFn, fieldImm10, fieldImm16, fieldDisp22, fieldPd, fieldCc, fieldFlags, fieldCmd]
  repeat rw [body_packWord _ _ _ _ _ (by decide)]
  repeat (first | rw [extract_high _ _ _ _ (by decide)] | rw [extract_low _ _ _ _ (by decide)])
  simp [h, mustBeZero]

theorem Encoding.bwait (g : BitVec 4) (a : BitVec 6) : Encoding.Statement (.bwait g a) := by
  intro h w e
  simp only [encode, Option.some.injEq] at e
  subst e
  simp [Instr.wf] at h
  rw [major_31 _ _ h]
  simp only [decodeBarrier, guard_packWord, fieldD, fieldA, fieldB, fieldFn, fieldImm10, fieldImm16, fieldDisp22, fieldPd, fieldCc, fieldFlags, fieldCmd]
  repeat rw [body_packWord _ _ _ _ _ (by decide)]
  repeat (first | rw [extract_high _ _ _ _ (by decide)] | rw [extract_low _ _ _ _ (by decide)])
  simp [h, mustBeZero]

/-- Major opcode 0x32. -/
theorem major_32 (g : BitVec 4) (b : BitVec 22) (h : ¬g = 8#4) :
    decodeWord (packWord 0x32 g b) = decodeToken (packWord 0x32 g b) := by
  simp [decodeWord, maj_packWord, guard_packWord, h]

theorem Encoding.tokw (g : BitVec 4) (e : BitVec 1) : Encoding.Statement (.tokw g e) := by
  intro h w e
  simp only [encode, Option.some.injEq] at e
  subst e
  simp [Instr.wf] at h
  rw [major_32 _ _ h]
  simp only [decodeToken, guard_packWord, fieldD, fieldA, fieldB, fieldFn, fieldImm10, fieldImm16, fieldDisp22, fieldPd, fieldCc, fieldFlags, fieldCmd]
  repeat rw [body_packWord _ _ _ _ _ (by decide)]
  repeat (first | rw [extract_high _ _ _ _ (by decide)] | rw [extract_low _ _ _ _ (by decide)])
  simp [h, mustBeZero]

theorem Encoding.toks (g : BitVec 4) (e : BitVec 1) : Encoding.Statement (.toks g e) := by
  intro h w e
  simp only [encode, Option.some.injEq] at e
  subst e
  simp [Instr.wf] at h
  rw [major_32 _ _ h]
  simp only [decodeToken, guard_packWord, fieldD, fieldA, fieldB, fieldFn, fieldImm10, fieldImm16, fieldDisp22, fieldPd, fieldCc, fieldFlags, fieldCmd]
  repeat rw [body_packWord _ _ _ _ _ (by decide)]
  repeat (first | rw [extract_high _ _ _ _ (by decide)] | rw [extract_low _ _ _ _ (by decide)])
  simp [h, mustBeZero]

/-- Major opcode 0x33. -/
theorem major_33 (g : BitVec 4) (b : BitVec 22) (h : ¬g = 8#4) :
    decodeWord (packWord 0x33 g b) = decodeChannel (packWord 0x33 g b) := by
  simp [decodeWord, maj_packWord, guard_packWord, h]

theorem Encoding.send (g : BitVec 4) (a : BitVec 6) (b : BitVec 6) : Encoding.Statement (.send g a b) := by
  intro h w e
  simp only [encode, Option.some.injEq] at e
  subst e
  simp [Instr.wf] at h
  rw [major_33 _ _ h]
  simp only [decodeChannel, guard_packWord, fieldD, fieldA, fieldB, fieldFn, fieldImm10, fieldImm16, fieldDisp22, fieldPd, fieldCc, fieldFlags, fieldCmd]
  repeat rw [body_packWord _ _ _ _ _ (by decide)]
  repeat (first | rw [extract_high _ _ _ _ (by decide)] | rw [extract_low _ _ _ _ (by decide)])
  simp [h, mustBeZero]

theorem Encoding.recv (g : BitVec 4) (d : BitVec 6) : Encoding.Statement (.recv g d) := by
  intro h w e
  simp only [encode, Option.some.injEq] at e
  subst e
  simp [Instr.wf] at h
  rw [major_33 _ _ h]
  simp only [decodeChannel, guard_packWord, fieldD, fieldA, fieldB, fieldFn, fieldImm10, fieldImm16, fieldDisp22, fieldPd, fieldCc, fieldFlags, fieldCmd]
  repeat rw [body_packWord _ _ _ _ _ (by decide)]
  repeat (first | rw [extract_high _ _ _ _ (by decide)] | rw [extract_low _ _ _ _ (by decide)])
  simp [h, mustBeZero]

/-- Major opcode 0x34. -/
theorem major_34 (g : BitVec 4) (b : BitVec 22) (h : ¬g = 8#4) :
    decodeWord (packWord 0x34 g b) = decodeSys (packWord 0x34 g b) := by
  simp [decodeWord, maj_packWord, guard_packWord, h]

theorem Encoding.trap (g : BitVec 4) (c : BitVec 6) : Encoding.Statement (.trap g c) := by
  intro h w e
  simp only [encode, Option.some.injEq] at e
  subst e
  simp [Instr.wf] at h
  rw [major_34 _ _ h]
  simp only [decodeSys, guard_packWord, fieldD, fieldA, fieldB, fieldFn, fieldImm10, fieldImm16, fieldDisp22, fieldPd, fieldCc, fieldFlags, fieldCmd]
  repeat rw [body_packWord _ _ _ _ _ (by decide)]
  repeat (first | rw [extract_high _ _ _ _ (by decide)] | rw [extract_low _ _ _ _ (by decide)])
  simp [h, mustBeZero]

theorem Encoding.svc (g : BitVec 4) (c : BitVec 6) : Encoding.Statement (.svc g c) := by
  intro h w e
  simp only [encode, Option.some.injEq] at e
  subst e
  simp [Instr.wf] at h
  rw [major_34 _ _ h]
  simp only [decodeSys, guard_packWord, fieldD, fieldA, fieldB, fieldFn, fieldImm10, fieldImm16, fieldDisp22, fieldPd, fieldCc, fieldFlags, fieldCmd]
  repeat rw [body_packWord _ _ _ _ _ (by decide)]
  repeat (first | rw [extract_high _ _ _ _ (by decide)] | rw [extract_low _ _ _ _ (by decide)])
  simp [h, mustBeZero]

theorem Encoding.eret (g : BitVec 4) : Encoding.Statement (.eret g) := by
  intro h w e
  simp only [encode, Option.some.injEq] at e
  subst e
  simp [Instr.wf] at h
  rw [major_34 _ _ h]
  simp only [decodeSys, guard_packWord, fieldD, fieldA, fieldB, fieldFn, fieldImm10, fieldImm16, fieldDisp22, fieldPd, fieldCc, fieldFlags, fieldCmd]
  repeat rw [body_packWord _ _ _ _ _ (by decide)]
  repeat (first | rw [extract_high _ _ _ _ (by decide)] | rw [extract_low _ _ _ _ (by decide)])
  simp [h, mustBeZero]

theorem Encoding.exit (g : BitVec 4) : Encoding.Statement (.exit g) := by
  intro h w e
  simp only [encode, Option.some.injEq] at e
  subst e
  simp [Instr.wf] at h
  rw [major_34 _ _ h]
  simp only [decodeSys, guard_packWord, fieldD, fieldA, fieldB, fieldFn, fieldImm10, fieldImm16, fieldDisp22, fieldPd, fieldCc, fieldFlags, fieldCmd]
  repeat rw [body_packWord _ _ _ _ _ (by decide)]
  repeat (first | rw [extract_high _ _ _ _ (by decide)] | rw [extract_low _ _ _ _ (by decide)])
  simp [h, mustBeZero]

theorem Encoding.yield (g : BitVec 4) : Encoding.Statement (.yield g) := by
  intro h w e
  simp only [encode, Option.some.injEq] at e
  subst e
  simp [Instr.wf] at h
  rw [major_34 _ _ h]
  simp only [decodeSys, guard_packWord, fieldD, fieldA, fieldB, fieldFn, fieldImm10, fieldImm16, fieldDisp22, fieldPd, fieldCc, fieldFlags, fieldCmd]
  repeat rw [body_packWord _ _ _ _ _ (by decide)]
  repeat (first | rw [extract_high _ _ _ _ (by decide)] | rw [extract_low _ _ _ _ (by decide)])
  simp [h, mustBeZero]

theorem Encoding.wait (g : BitVec 4) (d : BitVec 6) (a : BitVec 6) : Encoding.Statement (.wait g d a) := by
  intro h w e
  simp only [encode, Option.some.injEq] at e
  subst e
  simp [Instr.wf] at h
  rw [major_34 _ _ h]
  simp only [decodeSys, guard_packWord, fieldD, fieldA, fieldB, fieldFn, fieldImm10, fieldImm16, fieldDisp22, fieldPd, fieldCc, fieldFlags, fieldCmd]
  repeat rw [body_packWord _ _ _ _ _ (by decide)]
  repeat (first | rw [extract_high _ _ _ _ (by decide)] | rw [extract_low _ _ _ _ (by decide)])
  simp [h, mustBeZero]

/-- Major opcode 0x35. -/
theorem major_35 (g : BitVec 4) (b : BitVec 22) (h : ¬g = 8#4) :
    decodeWord (packWord 0x35 g b) = decodeGets (packWord 0x35 g b) := by
  simp [decodeWord, maj_packWord, guard_packWord, h]

theorem Encoding.gets (g : BitVec 4) (d : BitVec 6) (s : BitVec 10) : Encoding.Statement (.gets g d s) := by
  intro h w e
  simp only [encode, Option.some.injEq] at e
  subst e
  simp [Instr.wf] at h
  rw [major_35 _ _ h.1]
  simp only [decodeGets, guard_packWord, fieldD, fieldA, fieldB, fieldFn, fieldImm10, fieldImm16, fieldDisp22, fieldPd, fieldCc, fieldFlags, fieldCmd]
  repeat rw [body_packWord _ _ _ _ _ (by decide)]
  repeat (first | rw [extract_high _ _ _ _ (by decide)] | rw [extract_low _ _ _ _ (by decide)])
  simp [h, mustBeZero, selector_ne h.2]

theorem Encoding.scnr (g : BitVec 4) (d : BitVec 6) (a : BitVec 6) : Encoding.Statement (.scnr g d a) := by
  intro h w e
  simp only [encode, Option.some.injEq] at e
  subst e
  simp [Instr.wf] at h
  rw [major_35 _ _ h]
  simp only [decodeGets, guard_packWord, fieldD, fieldA, fieldB, fieldFn, fieldImm10, fieldImm16, fieldDisp22, fieldPd, fieldCc, fieldFlags, fieldCmd]
  repeat rw [body_packWord _ _ _ _ _ (by decide)]
  repeat (first | rw [extract_high _ _ _ _ (by decide)] | rw [extract_low _ _ _ _ (by decide)])
  simp [h, mustBeZero]

/-- Major opcode 0x36. -/
theorem major_36 (g : BitVec 4) (b : BitVec 22) (h : ¬g = 8#4) :
    decodeWord (packWord 0x36 g b) = decodePuts (packWord 0x36 g b) := by
  simp [decodeWord, maj_packWord, guard_packWord, h]

theorem Encoding.puts (g : BitVec 4) (a : BitVec 6) (s : BitVec 10) : Encoding.Statement (.puts g a s) := by
  intro h w e
  simp only [encode, Option.some.injEq] at e
  subst e
  simp [Instr.wf] at h
  rw [major_36 _ _ h.1]
  simp only [decodePuts, guard_packWord, fieldD, fieldA, fieldB, fieldFn, fieldImm10, fieldImm16, fieldDisp22, fieldPd, fieldCc, fieldFlags, fieldCmd]
  repeat rw [body_packWord _ _ _ _ _ (by decide)]
  repeat (first | rw [extract_high _ _ _ _ (by decide)] | rw [extract_low _ _ _ _ (by decide)])
  simp [h, mustBeZero, selector_ne h.2]

theorem Encoding.scnw (g : BitVec 4) (d : BitVec 6) (a : BitVec 6) : Encoding.Statement (.scnw g d a) := by
  intro h w e
  simp only [encode, Option.some.injEq] at e
  subst e
  simp [Instr.wf] at h
  rw [major_36 _ _ h]
  simp only [decodePuts, guard_packWord, fieldD, fieldA, fieldB, fieldFn, fieldImm10, fieldImm16, fieldDisp22, fieldPd, fieldCc, fieldFlags, fieldCmd]
  repeat rw [body_packWord _ _ _ _ _ (by decide)]
  repeat (first | rw [extract_high _ _ _ _ (by decide)] | rw [extract_low _ _ _ _ (by decide)])
  simp [h, mustBeZero]

/-- Major opcode 0x37. -/
theorem major_37 (g : BitVec 4) (b : BitVec 22) (h : ¬g = 8#4) :
    decodeWord (packWord 0x37 g b) = decodeClkdiv (packWord 0x37 g b) := by
  simp [decodeWord, maj_packWord, guard_packWord, h]

theorem Encoding.clkdiv (g : BitVec 4) (d : BitVec 6) (a : BitVec 6) (e : BitVec 2) : Encoding.Statement (.clkdiv g d a e) := by
  intro h w e
  simp only [encode, Option.some.injEq] at e
  subst e
  simp [Instr.wf] at h
  rw [major_37 _ _ h.1]
  simp only [decodeClkdiv, guard_packWord, fieldD, fieldA, fieldB, fieldFn, fieldImm10, fieldImm16, fieldDisp22, fieldPd, fieldCc, fieldFlags, fieldCmd]
  repeat rw [body_packWord _ _ _ _ _ (by decide)]
  repeat (first | rw [extract_high _ _ _ _ (by decide)] | rw [extract_low _ _ _ _ (by decide)])
  simp [h, mustBeZero]

/-- Major opcode 0x38. -/
theorem major_38 (g : BitVec 4) (b : BitVec 22) (h : ¬g = 8#4) :
    decodeWord (packWord 0x38 g b) = decodeLaunch (packWord 0x38 g b) := by
  simp [decodeWord, maj_packWord, guard_packWord, h]

theorem Encoding.launch (g : BitVec 4) (d : BitVec 6) (a : BitVec 6) : Encoding.Statement (.launch g d a) := by
  intro h w e
  simp only [encode, Option.some.injEq] at e
  subst e
  simp [Instr.wf] at h
  rw [major_38 _ _ h]
  simp only [decodeLaunch, guard_packWord, fieldD, fieldA, fieldB, fieldFn, fieldImm10, fieldImm16, fieldDisp22, fieldPd, fieldCc, fieldFlags, fieldCmd]
  repeat rw [body_packWord _ _ _ _ _ (by decide)]
  repeat (first | rw [extract_high _ _ _ _ (by decide)] | rw [extract_low _ _ _ _ (by decide)])
  simp [h, mustBeZero]

/-- Major opcode 0x39. -/
theorem major_39 (g : BitVec 4) (b : BitVec 22) (h : ¬g = 8#4) :
    decodeWord (packWord 0x39 g b) = decodeDepdone (packWord 0x39 g b) := by
  simp [decodeWord, maj_packWord, guard_packWord, h]

theorem Encoding.depdone (g : BitVec 4) (a : BitVec 6) : Encoding.Statement (.depdone g a) := by
  intro h w e
  simp only [encode, Option.some.injEq] at e
  subst e
  simp [Instr.wf] at h
  rw [major_39 _ _ h]
  simp only [decodeDepdone, guard_packWord, fieldD, fieldA, fieldB, fieldFn, fieldImm10, fieldImm16, fieldDisp22, fieldPd, fieldCc, fieldFlags, fieldCmd]
  repeat rw [body_packWord _ _ _ _ _ (by decide)]
  repeat (first | rw [extract_high _ _ _ _ (by decide)] | rw [extract_low _ _ _ _ (by decide)])
  simp [h, mustBeZero]

/-- Major opcode 0x3c. -/
theorem major_3c (g : BitVec 4) (b : BitVec 22) (h : ¬g = 8#4) :
    decodeWord (packWord 0x3c g b) = decodeCol (packWord 0x3c g b) := by
  simp [decodeWord, maj_packWord, guard_packWord, h]

theorem Encoding.cfgld (g : BitVec 4) (a : BitVec 6) (f : BitVec 4) : Encoding.Statement (.cfgld g a f) := by
  intro h w e
  simp only [encode, Option.some.injEq] at e
  subst e
  simp [Instr.wf] at h
  rw [major_3c _ _ h]
  simp only [decodeCol, guard_packWord, fieldD, fieldA, fieldB, fieldFn, fieldImm10, fieldImm16, fieldDisp22, fieldPd, fieldCc, fieldFlags, fieldCmd]
  repeat rw [body_packWord _ _ _ _ _ (by decide)]
  repeat (first | rw [extract_high _ _ _ _ (by decide)] | rw [extract_low _ _ _ _ (by decide)])
  simp [h, mustBeZero]

theorem Encoding.cfgpart (g : BitVec 4) (a : BitVec 6) (b : BitVec 6) (f : BitVec 4) : Encoding.Statement (.cfgpart g a b f) := by
  intro h w e
  simp only [encode, Option.some.injEq] at e
  subst e
  simp [Instr.wf] at h
  rw [major_3c _ _ h]
  simp only [decodeCol, guard_packWord, fieldD, fieldA, fieldB, fieldFn, fieldImm10, fieldImm16, fieldDisp22, fieldPd, fieldCc, fieldFlags, fieldCmd]
  repeat rw [body_packWord _ _ _ _ _ (by decide)]
  repeat (first | rw [extract_high _ _ _ _ (by decide)] | rw [extract_low _ _ _ _ (by decide)])
  simp [h, mustBeZero]

theorem Encoding.fire (g : BitVec 4) (a : BitVec 6) (b : BitVec 6) (f : BitVec 4) : Encoding.Statement (.fire g a b f) := by
  intro h w e
  simp only [encode, Option.some.injEq] at e
  subst e
  simp [Instr.wf] at h
  rw [major_3c _ _ h]
  simp only [decodeCol, guard_packWord, fieldD, fieldA, fieldB, fieldFn, fieldImm10, fieldImm16, fieldDisp22, fieldPd, fieldCc, fieldFlags, fieldCmd]
  repeat rw [body_packWord _ _ _ _ _ (by decide)]
  repeat (first | rw [extract_high _ _ _ _ (by decide)] | rw [extract_low _ _ _ _ (by decide)])
  simp [h, mustBeZero]

theorem Encoding.bind (g : BitVec 4) (a : BitVec 6) (b : BitVec 6) (f : BitVec 4) : Encoding.Statement (.bind g a b f) := by
  intro h w e
  simp only [encode, Option.some.injEq] at e
  subst e
  simp [Instr.wf] at h
  rw [major_3c _ _ h]
  simp only [decodeCol, guard_packWord, fieldD, fieldA, fieldB, fieldFn, fieldImm10, fieldImm16, fieldDisp22, fieldPd, fieldCc, fieldFlags, fieldCmd]
  repeat rw [body_packWord _ _ _ _ _ (by decide)]
  repeat (first | rw [extract_high _ _ _ _ (by decide)] | rw [extract_low _ _ _ _ (by decide)])
  simp [h, mustBeZero]

theorem Encoding.tset (g : BitVec 4) (a : BitVec 6) (b : BitVec 6) (f : BitVec 4) : Encoding.Statement (.tset g a b f) := by
  intro h w e
  simp only [encode, Option.some.injEq] at e
  subst e
  simp [Instr.wf] at h
  rw [major_3c _ _ h]
  simp only [decodeCol, guard_packWord, fieldD, fieldA, fieldB, fieldFn, fieldImm10, fieldImm16, fieldDisp22, fieldPd, fieldCc, fieldFlags, fieldCmd]
  repeat rw [body_packWord _ _ _ _ _ (by decide)]
  repeat (first | rw [extract_high _ _ _ _ (by decide)] | rw [extract_low _ _ _ _ (by decide)])
  simp [h, mustBeZero]

theorem Encoding.cstop (g : BitVec 4) (a : BitVec 6) (f : BitVec 4) : Encoding.Statement (.cstop g a f) := by
  intro h w e
  simp only [encode, Option.some.injEq] at e
  subst e
  simp [Instr.wf] at h
  rw [major_3c _ _ h]
  simp only [decodeCol, guard_packWord, fieldD, fieldA, fieldB, fieldFn, fieldImm10, fieldImm16, fieldDisp22, fieldPd, fieldCc, fieldFlags, fieldCmd]
  repeat rw [body_packWord _ _ _ _ _ (by decide)]
  repeat (first | rw [extract_high _ _ _ _ (by decide)] | rw [extract_low _ _ _ _ (by decide)])
  simp [h, mustBeZero]

/-- Major opcode 0x3d. -/
theorem major_3d (g : BitVec 4) (b : BitVec 22) (h : ¬g = 8#4) :
    decodeWord (packWord 0x3d g b) = decodeCpy (packWord 0x3d g b) := by
  simp [decodeWord, maj_packWord, guard_packWord, h]

theorem Encoding.cpys (g : BitVec 4) (a : BitVec 6) (b : BitVec 6) (f : BitVec 4) : Encoding.Statement (.cpys g a b f) := by
  intro h w e
  simp only [encode, Option.some.injEq] at e
  subst e
  simp [Instr.wf] at h
  rw [major_3d _ _ h]
  simp only [decodeCpy, guard_packWord, fieldD, fieldA, fieldB, fieldFn, fieldImm10, fieldImm16, fieldDisp22, fieldPd, fieldCc, fieldFlags, fieldCmd]
  repeat rw [body_packWord _ _ _ _ _ (by decide)]
  repeat (first | rw [extract_high _ _ _ _ (by decide)] | rw [extract_low _ _ _ _ (by decide)])
  simp [h, mustBeZero]

theorem Encoding.cpyd (g : BitVec 4) (a : BitVec 6) (b : BitVec 6) (f : BitVec 4) : Encoding.Statement (.cpyd g a b f) := by
  intro h w e
  simp only [encode, Option.some.injEq] at e
  subst e
  simp [Instr.wf] at h
  rw [major_3d _ _ h]
  simp only [decodeCpy, guard_packWord, fieldD, fieldA, fieldB, fieldFn, fieldImm10, fieldImm16, fieldDisp22, fieldPd, fieldCc, fieldFlags, fieldCmd]
  repeat rw [body_packWord _ _ _ _ _ (by decide)]
  repeat (first | rw [extract_high _ _ _ _ (by decide)] | rw [extract_low _ _ _ _ (by decide)])
  simp [h, mustBeZero]

theorem Encoding.copy (g : BitVec 4) (a : BitVec 6) (b : BitVec 6) (f : BitVec 4) : Encoding.Statement (.copy g a b f) := by
  intro h w e
  simp only [encode, Option.some.injEq] at e
  subst e
  simp [Instr.wf] at h
  rw [major_3d _ _ h]
  simp only [decodeCpy, guard_packWord, fieldD, fieldA, fieldB, fieldFn, fieldImm10, fieldImm16, fieldDisp22, fieldPd, fieldCc, fieldFlags, fieldCmd]
  repeat rw [body_packWord _ _ _ _ _ (by decide)]
  repeat (first | rw [extract_high _ _ _ _ (by decide)] | rw [extract_low _ _ _ _ (by decide)])
  simp [h, mustBeZero]

theorem Encoding.cpyf (g : BitVec 4) (a : BitVec 6) (b : BitVec 6) (f : BitVec 4) : Encoding.Statement (.cpyf g a b f) := by
  intro h w e
  simp only [encode, Option.some.injEq] at e
  subst e
  simp [Instr.wf] at h
  rw [major_3d _ _ h]
  simp only [decodeCpy, guard_packWord, fieldD, fieldA, fieldB, fieldFn, fieldImm10, fieldImm16, fieldDisp22, fieldPd, fieldCc, fieldFlags, fieldCmd]
  repeat rw [body_packWord _ _ _ _ _ (by decide)]
  repeat (first | rw [extract_high _ _ _ _ (by decide)] | rw [extract_low _ _ _ _ (by decide)])
  simp [h, mustBeZero]

/-- Major opcode 0x3e. -/
theorem major_3e (g : BitVec 4) (b : BitVec 22) (h : ¬g = 8#4) :
    decodeWord (packWord 0x3e g b) = decodeEngineFence (packWord 0x3e g b) := by
  simp [decodeWord, maj_packWord, guard_packWord, h]

theorem Encoding.efence (g : BitVec 4) (m : BitVec 2) : Encoding.Statement (.efence g m) := by
  intro h w e
  simp only [encode, Option.some.injEq] at e
  subst e
  simp [Instr.wf] at h
  rw [major_3e _ _ h.1]
  simp only [decodeEngineFence, guard_packWord, fieldD, fieldA, fieldB, fieldFn, fieldImm10, fieldImm16, fieldDisp22, fieldPd, fieldCc, fieldFlags, fieldCmd]
  repeat rw [body_packWord _ _ _ _ _ (by decide)]
  repeat (first | rw [extract_high _ _ _ _ (by decide)] | rw [extract_low _ _ _ _ (by decide)])
  simp [h, mustBeZero]

theorem Encoding.eqry (g : BitVec 4) (d : BitVec 6) (m : BitVec 2) : Encoding.Statement (.eqry g d m) := by
  intro h w e
  simp only [encode, Option.some.injEq] at e
  subst e
  simp [Instr.wf] at h
  rw [major_3e _ _ h.1]
  simp only [decodeEngineFence, guard_packWord, fieldD, fieldA, fieldB, fieldFn, fieldImm10, fieldImm16, fieldDisp22, fieldPd, fieldCc, fieldFlags, fieldCmd]
  repeat rw [body_packWord _ _ _ _ _ (by decide)]
  repeat (first | rw [extract_high _ _ _ _ (by decide)] | rw [extract_low _ _ _ _ (by decide)])
  simp [h, mustBeZero]

theorem Encoding.instructionCompletion (tile : Nat) (slot : Nat) (k : Nat) : Encoding.Statement (.instructionCompletion tile slot k) := encoding_of_none rfl

theorem Encoding.trapEntry (tile : Nat) (slot : Nat) : Encoding.Statement (.trapEntry tile slot) := encoding_of_none rfl

theorem Encoding.waitTimerExpiry (tile : Nat) (slot : Nat) : Encoding.Statement (.waitTimerExpiry tile slot) := encoding_of_none rfl

theorem Encoding.taskState2Stop (tile : Nat) (slot : Nat) : Encoding.Statement (.taskState2Stop tile slot) := encoding_of_none rfl

theorem Encoding.taskState1Stop (tile : Nat) (slot : Nat) : Encoding.Statement (.taskState1Stop tile slot) := encoding_of_none rfl

theorem Encoding.preemptOverrun (tile : Nat) (slot : Nat) : Encoding.Statement (.preemptOverrun tile slot) := encoding_of_none rfl

theorem Encoding.courtWindowCompletion (tile : Nat) (slot : Nat) : Encoding.Statement (.courtWindowCompletion tile slot) := encoding_of_none rfl

theorem Encoding.scanCompletion (tile : Nat) (slot : Nat) : Encoding.Statement (.scanCompletion tile slot) := encoding_of_none rfl

theorem Encoding.clkdivEffect (tile : Nat) : Encoding.Statement (.clkdivEffect tile) := encoding_of_none rfl

theorem Encoding.commandStart (tile : Nat) (eng : Eng) : Encoding.Statement (.commandStart tile eng) := encoding_of_none rfl

theorem Encoding.commandRetire (tile : Nat) (eng : Eng) : Encoding.Statement (.commandRetire tile eng) := encoding_of_none rfl

theorem Encoding.cfgldCheck (tile : Nat) : Encoding.Statement (.cfgldCheck tile) := encoding_of_none rfl

theorem Encoding.cfgpartWrite (tile : Nat) : Encoding.Statement (.cfgpartWrite tile) := encoding_of_none rfl

theorem Encoding.bindPlace (tile : Nat) : Encoding.Statement (.bindPlace tile) := encoding_of_none rfl

theorem Encoding.copyComplete (tile : Nat) (k : Nat) : Encoding.Statement (.copyComplete tile k) := encoding_of_none rfl

theorem Encoding.busyResend (node : Node) (k : Nat) : Encoding.Statement (.busyResend node k) := encoding_of_none rfl

theorem Encoding.bankGrant (tile : Nat) (bank : Nat) : Encoding.Statement (.bankGrant tile bank) := encoding_of_none rfl

theorem Encoding.changeNotice (tile : Nat) (word : Nat) : Encoding.Statement (.changeNotice tile word) := encoding_of_none rfl

theorem Encoding.bwaitRepoll (tile : Nat) (slot : Nat) : Encoding.Statement (.bwaitRepoll tile slot) := encoding_of_none rfl

theorem Encoding.baseDieRequest (die : Nat) (k : Nat) : Encoding.Statement (.baseDieRequest die k) := encoding_of_none rfl

theorem Encoding.rmwWritePhase (die : Nat) (k : Nat) : Encoding.Statement (.rmwWritePhase die k) := encoding_of_none rfl

theorem Encoding.hbmWheelSlot (hbm : Nat) (pch : Nat) : Encoding.Statement (.hbmWheelSlot hbm pch) := encoding_of_none rfl

theorem Encoding.baseDieReply (tile : Nat) : Encoding.Statement (.baseDieReply tile) := encoding_of_none rfl

theorem Encoding.granuleEviction (die : Nat) (frame : Nat) : Encoding.Statement (.granuleEviction die frame) := encoding_of_none rfl

theorem Encoding.granuleMigration (die : Nat) (frame : Nat) : Encoding.Statement (.granuleMigration die frame) := encoding_of_none rfl

theorem Encoding.residentNotice (tile : Nat) : Encoding.Statement (.residentNotice tile) := encoding_of_none rfl

theorem Encoding.mcellReply (tile : Nat) (m : Nat) : Encoding.Statement (.mcellReply tile m) := encoding_of_none rfl

theorem Encoding.decodeTableLoad (tile : Nat) (m : Nat) : Encoding.Statement (.decodeTableLoad tile m) := encoding_of_none rfl

theorem Encoding.xboxTokenMove (tile : Nat) (net : Net) (xbox : Nat) (port : Nat) : Encoding.Statement (.xboxTokenMove tile net xbox port) := encoding_of_none rfl

theorem Encoding.whistleWave (tile : Nat) : Encoding.Statement (.whistleWave tile) := encoding_of_none rfl

theorem Encoding.statusRecordWrite (tile : Nat) : Encoding.Statement (.statusRecordWrite tile) := encoding_of_none rfl

theorem Encoding.cellAdd (tile : Nat) (cell : Nat) (slot : Nat) : Encoding.Statement (.cellAdd tile cell slot) := encoding_of_none rfl

theorem Encoding.cellSub (tile : Nat) (cell : Nat) (slot : Nat) : Encoding.Statement (.cellSub tile cell slot) := encoding_of_none rfl

theorem Encoding.cellMul (tile : Nat) (cell : Nat) (slot : Nat) : Encoding.Statement (.cellMul tile cell slot) := encoding_of_none rfl

theorem Encoding.cellMulh (tile : Nat) (cell : Nat) (slot : Nat) : Encoding.Statement (.cellMulh tile cell slot) := encoding_of_none rfl

theorem Encoding.cellMac (tile : Nat) (cell : Nat) (slot : Nat) : Encoding.Statement (.cellMac tile cell slot) := encoding_of_none rfl

theorem Encoding.cellAnd (tile : Nat) (cell : Nat) (slot : Nat) : Encoding.Statement (.cellAnd tile cell slot) := encoding_of_none rfl

theorem Encoding.cellOr (tile : Nat) (cell : Nat) (slot : Nat) : Encoding.Statement (.cellOr tile cell slot) := encoding_of_none rfl

theorem Encoding.cellXor (tile : Nat) (cell : Nat) (slot : Nat) : Encoding.Statement (.cellXor tile cell slot) := encoding_of_none rfl

theorem Encoding.cellShl (tile : Nat) (cell : Nat) (slot : Nat) : Encoding.Statement (.cellShl tile cell slot) := encoding_of_none rfl

theorem Encoding.cellShr (tile : Nat) (cell : Nat) (slot : Nat) : Encoding.Statement (.cellShr tile cell slot) := encoding_of_none rfl

theorem Encoding.cellSra (tile : Nat) (cell : Nat) (slot : Nat) : Encoding.Statement (.cellSra tile cell slot) := encoding_of_none rfl

theorem Encoding.cellMin (tile : Nat) (cell : Nat) (slot : Nat) : Encoding.Statement (.cellMin tile cell slot) := encoding_of_none rfl

theorem Encoding.cellMax (tile : Nat) (cell : Nat) (slot : Nat) : Encoding.Statement (.cellMax tile cell slot) := encoding_of_none rfl

theorem Encoding.cellAbs (tile : Nat) (cell : Nat) (slot : Nat) : Encoding.Statement (.cellAbs tile cell slot) := encoding_of_none rfl

theorem Encoding.cellSat (tile : Nat) (cell : Nat) (slot : Nat) : Encoding.Statement (.cellSat tile cell slot) := encoding_of_none rfl

theorem Encoding.cellClamp (tile : Nat) (cell : Nat) (slot : Nat) : Encoding.Statement (.cellClamp tile cell slot) := encoding_of_none rfl

theorem Encoding.cellCmp (tile : Nat) (cell : Nat) (slot : Nat) : Encoding.Statement (.cellCmp tile cell slot) := encoding_of_none rfl

theorem Encoding.cellSel (tile : Nat) (cell : Nat) (slot : Nat) : Encoding.Statement (.cellSel tile cell slot) := encoding_of_none rfl

theorem Encoding.cellFadd (tile : Nat) (cell : Nat) (slot : Nat) : Encoding.Statement (.cellFadd tile cell slot) := encoding_of_none rfl

theorem Encoding.cellFsub (tile : Nat) (cell : Nat) (slot : Nat) : Encoding.Statement (.cellFsub tile cell slot) := encoding_of_none rfl

theorem Encoding.cellFmul (tile : Nat) (cell : Nat) (slot : Nat) : Encoding.Statement (.cellFmul tile cell slot) := encoding_of_none rfl

theorem Encoding.cellFma (tile : Nat) (cell : Nat) (slot : Nat) : Encoding.Statement (.cellFma tile cell slot) := encoding_of_none rfl

theorem Encoding.cellFmin (tile : Nat) (cell : Nat) (slot : Nat) : Encoding.Statement (.cellFmin tile cell slot) := encoding_of_none rfl

theorem Encoding.cellFmax (tile : Nat) (cell : Nat) (slot : Nat) : Encoding.Statement (.cellFmax tile cell slot) := encoding_of_none rfl

theorem Encoding.cellFabs (tile : Nat) (cell : Nat) (slot : Nat) : Encoding.Statement (.cellFabs tile cell slot) := encoding_of_none rfl

theorem Encoding.cellFneg (tile : Nat) (cell : Nat) (slot : Nat) : Encoding.Statement (.cellFneg tile cell slot) := encoding_of_none rfl

theorem Encoding.cellFcmp (tile : Nat) (cell : Nat) (slot : Nat) : Encoding.Statement (.cellFcmp tile cell slot) := encoding_of_none rfl

theorem Encoding.rcp (tile : Nat) (cell : Nat) (slot : Nat) : Encoding.Statement (.rcp tile cell slot) := encoding_of_none rfl

theorem Encoding.rsqrt (tile : Nat) (cell : Nat) (slot : Nat) : Encoding.Statement (.rsqrt tile cell slot) := encoding_of_none rfl

theorem Encoding.exp2 (tile : Nat) (cell : Nat) (slot : Nat) : Encoding.Statement (.exp2 tile cell slot) := encoding_of_none rfl

theorem Encoding.log2 (tile : Nat) (cell : Nat) (slot : Nat) : Encoding.Statement (.log2 tile cell slot) := encoding_of_none rfl

theorem Encoding.scale (tile : Nat) (cell : Nat) (slot : Nat) : Encoding.Statement (.scale tile cell slot) := encoding_of_none rfl

theorem Encoding.rsum (tile : Nat) (cell : Nat) (slot : Nat) : Encoding.Statement (.rsum tile cell slot) := encoding_of_none rfl

theorem Encoding.rmax (tile : Nat) (cell : Nat) (slot : Nat) : Encoding.Statement (.rmax tile cell slot) := encoding_of_none rfl

theorem Encoding.rmin (tile : Nat) (cell : Nat) (slot : Nat) : Encoding.Statement (.rmin tile cell slot) := encoding_of_none rfl

theorem Encoding.acc (tile : Nat) (cell : Nat) (slot : Nat) : Encoding.Statement (.acc tile cell slot) := encoding_of_none rfl

theorem Encoding.shuf (tile : Nat) (cell : Nat) (slot : Nat) : Encoding.Statement (.shuf tile cell slot) := encoding_of_none rfl

theorem Encoding.rot (tile : Nat) (cell : Nat) (slot : Nat) : Encoding.Statement (.rot tile cell slot) := encoding_of_none rfl

theorem Encoding.bcast (tile : Nat) (cell : Nat) (slot : Nat) : Encoding.Statement (.bcast tile cell slot) := encoding_of_none rfl

theorem Encoding.pack (tile : Nat) (cell : Nat) (slot : Nat) : Encoding.Statement (.pack tile cell slot) := encoding_of_none rfl

theorem Encoding.unpack (tile : Nat) (cell : Nat) (slot : Nat) : Encoding.Statement (.unpack tile cell slot) := encoding_of_none rfl

theorem Encoding.reord (tile : Nat) (cell : Nat) (slot : Nat) : Encoding.Statement (.reord tile cell slot) := encoding_of_none rfl

theorem Encoding.pass (tile : Nat) (cell : Nat) (slot : Nat) : Encoding.Statement (.pass tile cell slot) := encoding_of_none rfl

theorem Encoding.fifo (tile : Nat) (cell : Nat) (slot : Nat) : Encoding.Statement (.fifo tile cell slot) := encoding_of_none rfl

theorem Encoding.steer (tile : Nat) (cell : Nat) (slot : Nat) : Encoding.Statement (.steer tile cell slot) := encoding_of_none rfl

theorem Encoding.merge (tile : Nat) (cell : Nat) (slot : Nat) : Encoding.Statement (.merge tile cell slot) := encoding_of_none rfl

theorem Encoding.gate (tile : Nat) (cell : Nat) (slot : Nat) : Encoding.Statement (.gate tile cell slot) := encoding_of_none rfl

theorem Encoding.tagget (tile : Nat) (cell : Nat) (slot : Nat) : Encoding.Statement (.tagget tile cell slot) := encoding_of_none rfl

theorem Encoding.tagput (tile : Nat) (cell : Nat) (slot : Nat) : Encoding.Statement (.tagput tile cell slot) := encoding_of_none rfl

theorem Encoding.cellCnt (tile : Nat) (cell : Nat) (slot : Nat) : Encoding.Statement (.cellCnt tile cell slot) := encoding_of_none rfl

theorem Encoding.join (tile : Nat) (cell : Nat) (slot : Nat) : Encoding.Statement (.join tile cell slot) := encoding_of_none rfl

theorem Encoding.sink (tile : Nat) (cell : Nat) (slot : Nat) : Encoding.Statement (.sink tile cell slot) := encoding_of_none rfl

theorem Encoding.aff (tile : Nat) (acell : Nat) : Encoding.Statement (.aff tile acell) := encoding_of_none rfl

theorem Encoding.idx (tile : Nat) (acell : Nat) : Encoding.Statement (.idx tile acell) := encoding_of_none rfl

theorem Encoding.acellCnt (tile : Nat) (acell : Nat) : Encoding.Statement (.acellCnt tile acell) := encoding_of_none rfl

theorem Encoding.lds (tile : Nat) (m : Nat) : Encoding.Statement (.lds tile m) := encoding_of_none rfl

theorem Encoding.sts (tile : Nat) (m : Nat) : Encoding.Statement (.sts tile m) := encoding_of_none rfl

theorem Encoding.gath (tile : Nat) (m : Nat) : Encoding.Statement (.gath tile m) := encoding_of_none rfl

theorem Encoding.scat (tile : Nat) (m : Nat) : Encoding.Statement (.scat tile m) := encoding_of_none rfl

theorem Encoding.atom (tile : Nat) (m : Nat) : Encoding.Statement (.atom tile m) := encoding_of_none rfl

theorem Encoding.tas (tile : Nat) (m : Nat) : Encoding.Statement (.tas tile m) := encoding_of_none rfl

theorem Encoding.dcmp (tile : Nat) (m : Nat) : Encoding.Statement (.dcmp tile m) := encoding_of_none rfl

theorem Encoding.qnt (tile : Nat) (m : Nat) : Encoding.Statement (.qnt tile m) := encoding_of_none rfl

theorem Encoding.rld (tile : Nat) (m : Nat) : Encoding.Statement (.rld tile m) := encoding_of_none rfl

theorem Encoding.rst (tile : Nat) (m : Nat) : Encoding.Statement (.rst tile m) := encoding_of_none rfl

theorem Encoding.ramo (tile : Nat) (m : Nat) : Encoding.Statement (.ramo tile m) := encoding_of_none rfl

theorem Encoding.counterPort (tile : Nat) (m : Nat) : Encoding.Statement (.counterPort tile m) := encoding_of_none rfl

theorem Encoding.wld (tile : Nat) : Encoding.Statement (.wld tile) := encoding_of_none rfl

theorem Encoding.scaleRowTake (tile : Nat) : Encoding.Statement (.scaleRowTake tile) := encoding_of_none rfl

theorem Encoding.arrayPass (tile : Nat) : Encoding.Statement (.arrayPass tile) := encoding_of_none rfl

theorem Encoding.accw (tile : Nat) : Encoding.Statement (.accw tile) := encoding_of_none rfl

theorem Encoding.mma (tile : Nat) : Encoding.Statement (.mma tile) := encoding_of_none rfl

theorem Encoding.mmaG (tile : Nat) : Encoding.Statement (.mmaG tile) := encoding_of_none rfl

theorem Encoding.accr (tile : Nat) : Encoding.Statement (.accr tile) := encoding_of_none rfl

theorem Encoding.flitSend (node : Node) (out : Nat) : Encoding.Statement (.flitSend node out) := encoding_of_none rfl

theorem Encoding.trim (node : Node) (out : Nat) : Encoding.Statement (.trim node out) := encoding_of_none rfl

theorem Encoding.requestArrival (node : Node) : Encoding.Statement (.requestArrival node) := encoding_of_none rfl

theorem Encoding.reseqRelease (node : Node) : Encoding.Statement (.reseqRelease node) := encoding_of_none rfl

theorem Encoding.responseArrival (node : Node) : Encoding.Statement (.responseArrival node) := encoding_of_none rfl

theorem Encoding.buntHeaderArrival (node : Node) : Encoding.Statement (.buntHeaderArrival node) := encoding_of_none rfl

theorem Encoding.letSend (node : Node) : Encoding.Statement (.letSend node) := encoding_of_none rfl

theorem Encoding.letBucketRefill (node : Node) : Encoding.Statement (.letBucketRefill node) := encoding_of_none rfl

theorem Encoding.letReceive (node : Node) : Encoding.Statement (.letReceive node) := encoding_of_none rfl

theorem Encoding.imageHeaderRead (entry : Nat) (img : Nat) : Encoding.Statement (.imageHeaderRead entry img) := encoding_of_none rfl

theorem Encoding.imageReadComplete (entry : Nat) (img : Nat) : Encoding.Statement (.imageReadComplete entry img) := encoding_of_none rfl

theorem Encoding.taskStart (entry : Nat) : Encoding.Statement (.taskStart entry) := encoding_of_none rfl

theorem Encoding.launchEnd (entry : Nat) : Encoding.Statement (.launchEnd entry) := encoding_of_none rfl

theorem Encoding.launchAbort (entry : Nat) : Encoding.Statement (.launchAbort entry) := encoding_of_none rfl

theorem Encoding.scanOut (court : Nat) : Encoding.Statement (.scanOut court) := encoding_of_none rfl

theorem Encoding.illegal (w : BitVec 32) : Encoding.Statement (.illegal w) := encoding_of_none rfl

theorem Encoding.registerWrite (addr : BitVec 64) (value : BitVec 64) : Encoding.Statement (.registerWrite addr value) := encoding_of_none rfl

theorem Encoding.hostRequest (asid : Nat) (addr : Nat) (n : Nat) (data : List (BitVec 8)) : Encoding.Statement (.hostRequest asid addr n data) := encoding_of_none rfl

theorem Encoding.launchPacketArrival (words : List (BitVec 64)) : Encoding.Statement (.launchPacketArrival words) := encoding_of_none rfl

theorem Encoding.preemptRequest (court : Nat) (reason : Nat) : Encoding.Statement (.preemptRequest court reason) := encoding_of_none rfl

theorem Encoding.ackTimeout (node : Node) (k : Nat) : Encoding.Statement (.ackTimeout node k) := encoding_of_none rfl

theorem Encoding.pairTimeout (tile : Nat) : Encoding.Statement (.pairTimeout tile) := encoding_of_none rfl

theorem Encoding.drainTimeout (tile : Nat) : Encoding.Statement (.drainTimeout tile) := encoding_of_none rfl

theorem Encoding.trapsetWrite (tile : Nat) (value : BitVec 16) : Encoding.Statement (.trapsetWrite tile value) := encoding_of_none rfl

theorem Encoding.engineReset (tile : Nat) (mask : BitVec 2) : Encoding.Statement (.engineReset tile mask) := encoding_of_none rfl

theorem Encoding.ringTailWrite (court : Nat) (dirty : Bool) (value : BitVec 32) : Encoding.Statement (.ringTailWrite court dirty value) := encoding_of_none rfl

theorem Encoding.laneShed (die : Nat) (port : Nat) (lanes : Nat) : Encoding.Statement (.laneShed die port lanes) := encoding_of_none rfl

theorem Encoding.linkRetrain (die : Nat) (port : Nat) (ok : Bool) : Encoding.Statement (.linkRetrain die port ok) := encoding_of_none rfl

theorem Encoding.linkReplay (die : Nat) (port : Nat) (n : Nat) : Encoding.Statement (.linkReplay die port n) := encoding_of_none rfl

theorem Encoding.roleCheck (powerGood : BitVec 16) : Encoding.Statement (.roleCheck powerGood) := encoding_of_none rfl

theorem Encoding.powerControllerStep (energy : List (Nat × Nat)) : Encoding.Statement (.powerControllerStep energy) := encoding_of_none rfl

theorem Encoding.rstnRise (pkgid : BitVec 12) (railsGood : Bool) : Encoding.Statement (.rstnRise pkgid railsGood) := encoding_of_none rfl

theorem Encoding.phaseAuth (fw : FwResult) : Encoding.Statement (.phaseAuth fw) := encoding_of_none rfl

theorem Encoding.phaseBase (hbmOk : BitVec 8) (cxl : List Nat) (base : List (List (BitVec 64))) : Encoding.Statement (.phaseBase hbmOk cxl base) := encoding_of_none rfl

theorem Encoding.phaseLinks (ngambiOk : Bool) : Encoding.Statement (.phaseLinks ngambiOk) := encoding_of_none rfl

theorem Encoding.portTraining (dir : Nat) (port : Nat) (word : TrainWord) : Encoding.Statement (.portTraining dir port word) := encoding_of_none rfl

theorem Encoding.portTrainingTimeout (dir : Nat) (port : Nat) : Encoding.Statement (.portTrainingTimeout dir port) := encoding_of_none rfl

theorem Encoding.phaseRoles (pats : List (BitVec 32)) : Encoding.Statement (.phaseRoles pats) := encoding_of_none rfl

theorem Encoding.softError (place : ErrPlace) (multi : Bool) : Encoding.Statement (.softError place multi) := encoding_of_none rfl

theorem Encoding.preemptRelease : Encoding.Statement (.preemptRelease) := encoding_of_none rfl

theorem Encoding.post : Encoding.Statement (.post) := encoding_of_none rfl

theorem Encoding.abort : Encoding.Statement (.abort) := encoding_of_none rfl

theorem Encoding.cancel : Encoding.Statement (.cancel) := encoding_of_none rfl

theorem Encoding.preempt : Encoding.Statement (.preempt) := encoding_of_none rfl

theorem Encoding.resume : Encoding.Statement (.resume) := encoding_of_none rfl

theorem Encoding.intervalBoundary : Encoding.Statement (.intervalBoundary) := encoding_of_none rfl

theorem Encoding.create : Encoding.Statement (.create) := encoding_of_none rfl

theorem Encoding.destroy : Encoding.Statement (.destroy) := encoding_of_none rfl

theorem Encoding.grant : Encoding.Statement (.grant) := encoding_of_none rfl

theorem Encoding.courtPreempt : Encoding.Statement (.courtPreempt) := encoding_of_none rfl

theorem Encoding.rwrite : Encoding.Statement (.rwrite) := encoding_of_none rfl

theorem Encoding.attest : Encoding.Statement (.attest) := encoding_of_none rfl

theorem Encoding.roleDrain : Encoding.Statement (.roleDrain) := encoding_of_none rfl

theorem Encoding.roleFlush : Encoding.Statement (.roleFlush) := encoding_of_none rfl

theorem Encoding.roleGate : Encoding.Statement (.roleGate) := encoding_of_none rfl

theorem Encoding.roleEnum : Encoding.Statement (.roleEnum) := encoding_of_none rfl

theorem Encoding.roleRelease : Encoding.Statement (.roleRelease) := encoding_of_none rfl

theorem Encoding.roleAbort : Encoding.Statement (.roleAbort) := encoding_of_none rfl

theorem Encoding.phaseRun : Encoding.Statement (.phaseRun) := encoding_of_none rfl

theorem Encoding.thermtrip : Encoding.Statement (.thermtrip) := encoding_of_none rfl

theorem Encoding.packageReset : Encoding.Statement (.packageReset) := encoding_of_none rfl

end Sys2Proof.Laws
end

