-- ==== Sys2Proof/Tests/Slice0.lean ====
section
/-! SUPPORT. Tests: terms that well-formedness refuses, words written out from the encoding tables of spec/02_encoding.md with the instructions they stand
for, small runs of one step, and for every statement with hypotheses a state and operands that meet them. Expected values are worked out by hand from the
rules that each docstring names. -/

namespace Sys2Proof.Tests

open Sys2Proof Sys2Proof.Machine Sys2Proof.Safety

set_option Elab.async false

/-! ## Small states -/

/-- A live task at 0x1000 with these registers. -/
def regs (l : List (Nat × Nat)) : Slot :=
  { rf := { pc := 0x1000#32, s := l.map fun p => (p.1, { val := BitVec.ofNat 64 p.2 }) }, task := some { entry := 0 } }
/-- The same, privileged. -/
def sup (l : List (Nat × Nat)) : Slot := { regs l with sr := { priv := true } }
/-- The state with one task, in slot 0 of tile 0. -/
def one (sl : Slot) : State := { tiles := [(0, { slots := [(0, sl)] })] }
/-- The same with a changed tile 0. -/
def oneT (x : Tile) (sl : Slot) : State := { tiles := [(0, { x with slots := [(0, sl)] })] }
/-- The state after an instruction; itself when it has none. -/
def after (i : Instr) (s : State) : State := match exec i s with | .next u => u | _ => s
/-- A task with s5 = 7 and s6 = 3. -/
def job : State := one (regs [(5, 7), (6, 3)])
/-- The same, privileged. -/
def supJob : State := one (sup [(5, 7), (6, 3)])
/-- A task whose s5 is poisoned. -/
def badJob : State := one { regs [(6, 3)] with rf := { pc := 0x1000#32, s := [(5, { val := 7, poi := true }), (6, { val := 3 })] } }
/-- A task at the last word of the instruction store. -/
def edge : State := one { regs [(5, 7)] with rf := { pc := 0x3FFFC#32, s := [(5, { val := 7 })] } }

/-! ## Terms that well-formedness refuses -/

/-- R54: the guard 0b1000 is no guard. -/
theorem test_bad_guard : Instr.wf (.add 8 1 2 3) = false ∧ Instr.wf (.br 8 1) = false ∧ Instr.wf (.std 8 1 2 3) = false := by decide +kernel
/-- R48: cc 6 and 7 compare nothing. -/
theorem test_bad_cc : Instr.wf (.cmp 0 1 6 2 3) = false ∧ Instr.wf (.cmpi 0 1 7 2 3) = false ∧ Instr.wf (.fcmp 0 1 6 2 3) = false := by decide +kernel
/-- R50: exactly one format of FCVT is W36, and code 7 is none. -/
theorem test_bad_fcvt : Instr.wf (.fcvt 0 1 2 0 0 0) = false ∧ Instr.wf (.fcvt 0 1 2 1 2 0) = false ∧ Instr.wf (.fcvt 0 1 2 0 7 0) = false := by decide +kernel
/-- R47: a LOOP has a body. -/
theorem test_bad_loop : Instr.wf (.loop 0 1 5 0) = false := by decide +kernel
/-- R46: AMO codes end at 9. -/
theorem test_bad_amo : Instr.wf (.amo 0 1 2 3 10) = false ∧ Instr.wf (.amoAr 0 1 2 3 15) = false := by decide +kernel
/-- R134: a selector that is not assigned. -/
theorem test_bad_selector : Instr.wf (.gets 0 1 0x005) = false ∧ Instr.wf (.puts 0 1 0x3FF) = false := by decide +kernel
/-- R52: engine 3 has no clock; an EFENCE or EQRY of no engine waits for nothing. -/
theorem test_bad_engine : Instr.wf (.clkdiv 0 1 2 3) = false ∧ Instr.wf (.efence 0 0) = false ∧ Instr.wf (.eqry 0 1 0) = false := by decide +kernel
/-- R14: units that the package does not have. -/
theorem test_bad_units : Instr.wf (.trapEntry 768 0) = false ∧ Instr.wf (.trapEntry 0 16) = false ∧ Instr.wf (.bankGrant 0 32) = false
    ∧ Instr.wf (.cellAdd 0 96 0) = false ∧ Instr.wf (.cellAdd 0 0 4) = false ∧ Instr.wf (.aff 0 16) = false ∧ Instr.wf (.lds 0 32) = false
    ∧ Instr.wf (.xboxTokenMove 0 .data 128 0) = false ∧ Instr.wf (.commandStart 0 .tcc) = false ∧ Instr.wf (.letSend (.die 4)) = false
    ∧ Instr.wf (.hbmWheelSlot 8 0) = false ∧ Instr.wf (.granuleEviction 0 262144) = false := by decide +kernel
/-- R152, R161, R406, R430: places and table entries beyond their ends. -/
theorem test_bad_entries : Instr.wf (.softError (.spill 0 8192) true) = false ∧ Instr.wf (.softError (.acc 768 0) true) = false ∧ Instr.wf (.taskStart 4096) = false
    ∧ Instr.wf (.imageHeaderRead 0 4) = false ∧ Instr.wf (.preemptRequest 64 0) = false ∧ Instr.wf (.hostRequest 2048 0 8 []) = false
    ∧ Instr.wf (.hostRequest 0 0 8 [0]) = false := by decide +kernel

/-! ## Words: major, guard and the fields of the formats of R42, bit by bit -/

/-- R45, R46: ALU, MULDIV and BITS. -/
theorem test_words_alu : decodeWord (0b00000110100001010001100001110000#32) = .ok (.add 10 5 6 7) ∧ decodeWord (0b00000100000001010001100001111010#32) = .ok (.min 0 5 6 7) ∧ decodeWord (0b00001000000001010001100001110011#32) = .ok (.madd 0 5 6 7) ∧ decodeWord (0b00001100000001010001100000001010#32) = .ok (.zextw 0 5 6) := by decide +kernel
/-- R47: F2 and F3 immediates. -/
theorem test_words_immediates : decodeWord (0b00010000000001010001101111111111#32) = .ok (.addi 0 5 6 0x3FF) ∧ decodeWord (0b00100000000001010001100100001100#32) = .ok (.shri 0 5 6 12) ∧ decodeWord (0b00101000000001101111111111111110#32) = .ok (.movi 0 6 0xFFFE) ∧ decodeWord (0b00101100000001100000000000000001#32) = .ok (.movh 0 6 1) := by decide +kernel
/-- R48, R49: F7, PLOG, SEL and ADDS. -/
theorem test_words_compares : decodeWord (0b00110000000111000011000001010000#32) = .ok (.cmp 0 3 4 12 5) ∧ decodeWord (0b00110100000111000011001111111111#32) = .ok (.cmpi 0 3 4 12 0x3FF) ∧ decodeWord (0b00111000000000010000100000110000#32) = .ok (.pand 0 1 2 3) ∧ decodeWord (0b00111100000001010001100001111010#32) = .ok (.sel 0 5 6 7 1 2) ∧ decodeWord (0b01000000000001010001100001110011#32) = .ok (.adds 0 5 6 7 3) := by decide +kernel
/-- R46, R48, R50: W36. -/
theorem test_words_floats : decodeWord (0b01000100000001010001100001110010#32) = .ok (.fmul 0 5 6 7) ∧ decodeWord (0b01001000000001010001100010000100#32) = .ok (.fcvt 0 5 6 1 0 1) ∧ decodeWord (0b01001100000111010011000001010000#32) = .ok (.fcmp 0 3 5 12 5) := by decide +kernel
/-- R45 to R47: control. -/
theorem test_words_control : decodeWord (0b01010000011111111111111111111101#32) = .ok (.br 1 0x3FFFFD) ∧ decodeWord (0b01010100000000000000000000000010#32) = .ok (.call 0 2) ∧ decodeWord (0b01011000000000000010010000000001#32) = .ok (.callr 0 9) ∧ decodeWord (0b01011100000000010001010000000010#32) = .ok (.loop 0 1 5 2) := by decide +kernel
/-- R46, R51, R52: memory. -/
theorem test_words_memory : decodeWord (0b10001100000010010001001111111101#32) = .ok (.ldd 0 9 4 0x3FD) ∧ decodeWord (0b10101000000010010001000000000001#32) = .ok (.stw 0 9 4 1) ∧ decodeWord (0b10110100000000010000100000111001#32) = .ok (.amoAcq 0 1 2 3 9) ∧ decodeWord (0b11000000000000000000000000000110#32) = .ok (.fenceAcq 0 2) ∧ decodeWord (0b11000100000000000001110010000000#32) = .ok (.bpost 0 7 8) := by decide +kernel
/-- R52: tokens and messages. -/
theorem test_words_tokens : decodeWord (0b11001000000000000000000000000011#32) = .ok (.toks 0 1) ∧ decodeWord (0b11001100000000000001110010000000#32) = .ok (.send 0 7 8) ∧ decodeWord (0b11001100000001110000000000000001#32) = .ok (.recv 0 7) := by decide +kernel
/-- R52: system. -/
theorem test_words_system : decodeWord (0b11010000000000000000000011000000#32) = .ok (.exit 0) ∧ decodeWord (0b11010000000000000000000001001001#32) = .ok (.svc 0 9) ∧ decodeWord (0b11010000000000110001000101000000#32) = .ok (.wait 0 3 4) ∧ decodeWord (0b11010100000001110000000000011000#32) = .ok (.gets 0 7 0x18) ∧ decodeWord (0b11011000000000110001001111111111#32) = .ok (.scnw 0 3 4) ∧ decodeWord (0b11011100000000110001000000000001#32) = .ok (.clkdiv 0 3 4 1) ∧ decodeWord (0b11100000000000110001000000000000#32) = .ok (.launch 0 3 4) ∧ decodeWord (0b11100100000000000001000000000000#32) = .ok (.depdone 0 4) := by decide +kernel
/-- R52, R53: engine commands. -/
theorem test_words_engines : decodeWord (0b11110000000001100001111001000010#32) = .ok (.fire 0 6 7 9) ∧ decodeWord (0b11110000000001100000000000000000#32) = .ok (.cfgld 0 6 0) ∧ decodeWord (0b11110100000001100001110110000010#32) = .ok (.copy 0 6 7 6) ∧ decodeWord (0b11111000000000000000000000110000#32) = .ok (.efence 0 3) ∧ decodeWord (0b11111000000001010000000000010001#32) = .ok (.eqry 0 5 1) := by decide +kernel
/-- R45, R49, R52, R54: words of no instruction: an unassigned major, a reserved bit, and a must-be-zero register. -/
theorem test_words_refused : (match decodeWord (0b001001#6 ++ 0#26) with | .ok _ => false | _ => true) = true
    ∧ (match decodeWord (0b001110#6 ++ 0#4 ++ 0b001000#6 ++ 0#16) with | .ok _ => false | _ => true) = true
    ∧ (match decodeWord (0b000011#6 ++ 0#4 ++ 5#6 ++ 6#6 ++ 1#6 ++ 0#4) with | .ok _ => false | _ => true) = true := by decide +kernel

/-! ## Single steps of the scalar instructions -/

/-- R91: sums wrap; a destination may be a source. -/
theorem test_add : (after (.add 0 5 5 6) (one (regs [(5, 2 ^ 64 - 1), (6, 2)]))).reg 5 = 1#64 := by decide +kernel
/-- R91: MIN is signed and MINU is not. -/
theorem test_min : (after (.min 0 7 5 6) (one (regs [(5, 2 ^ 64 - 1), (6, 2)]))).reg 7 = 2 ^ 64 - 1
    ∧ (after (.minu 0 7 5 6) (one (regs [(5, 2 ^ 64 - 1), (6, 2)]))).reg 7 = 2 := by decide +kernel
/-- R94: ANDI extends the sign, ORI does not. -/
theorem test_andi_ori : (after (.andi 0 7 5 0x200) (one (regs [(5, 2 ^ 64 - 1)]))).reg 7 = 0xFFFFFFFFFFFFFE00#64
    ∧ (after (.ori 0 7 5 0x200) (one (regs []))).reg 7 = 0x200#64 := by decide +kernel
/-- R56: a write to s0 is discarded. -/
theorem test_s0 : (after (.addi 0 0 5 1) job).reg 0 = 0#64 ∧ (after (.addi 0 0 5 1) job).cur.rf.pc = 0x1004#32 := by decide +kernel
/-- R55: under a false guard nothing takes place but the next instruction. -/
theorem test_false_guard : (after (.add 1 7 5 6) job).reg 7 = 0 ∧ (after (.add 1 7 5 6) job).cur.rf.pc = 0x1004#32 ∧ (after (.add 9 7 5 6) job).reg 7 = 10#64 := by decide +kernel
/-- R100: BR counts in words from its own address. -/
theorem test_br : (after (.br 0 0x3FFFFD) job).cur.rf.pc = 0xFF4#32 := by decide +kernel

/-! ## Witnesses: instructions of a task -/

theorem witness_FalseGuardGoesOn :
    instrNeed (.add 8 7 5 6) = some { g := 8, rd := [5, 6], wr := [7] } ∧ isPrivileged (.add 8 7 5 6) = false ∧ MayIssue job
      ∧ job.cur.busyPred 0 = false ∧ job.cur.rf.guardTrue 8 = false ∧ Stays job := by
  unfold MayIssue Stays; decide +kernel

theorem witness_FalseGuardGoesOn_priv : isPrivileged (.eret 8) = true ∧ supJob.cur.sr.priv = true ∧ MayIssue supJob ∧ Stays supJob := by
  unfold MayIssue Stays; decide +kernel

theorem witness_IssueTraps : Runs badJob { g := 0, rd := [5, 6], wr := [7] } ∧ instrNeed (.add 0 7 5 6) = some { g := 0, rd := [5, 6], wr := [7] }
    ∧ consumes (.add 0 7 5 6) = [5, 6] ∧ badJob.cur.rf.firstPoison [5, 6] = some 5 := by
  unfold Runs MayIssue Guarded Free; decide +kernel

theorem witness_IssueTraps_priv : isPrivileged (.eret 0) = true ∧ encode (.eret 0) = some 0xD0000080#32 ∧ MayIssue job ∧ job.cur.sr.priv = false := by
  unfold MayIssue; decide +kernel

theorem witness_ControlTraps_edge : ¬ Stays edge ∧ edge.cur.outstanding = false ∧ edge.cur.task.isSome = true ∧ Runs edge { g := 0, wr := [1] }
    ∧ edge.cur.rf.guardTrue 8 = false ∧ MayIssue edge ∧ edge.cur.busyPred 0 = false := by
  unfold Stays Runs MayIssue Guarded Free; decide +kernel

/-- A task with links: LKD 4 with lk3 past the store, and a register on either side of the store's end. -/
def linked (lkd : BitVec 3) (v : Nat) : State :=
  one { regs [] with rf := { pc := 0x1000#32, lkd := lkd, lk3 := 0x40000#32, lk0 := 0x3FFFC#32, s := [(5, { val := BitVec.ofNat 64 v })] } }

theorem witness_ControlTraps : Runs (linked 4 0x40000) { g := 0, rd := [5] } ∧ Clean (linked 4 0x40000) [5]
    ∧ 0x3FFFC < ((linked 4 0).cur.rf.lk 3).toNat ∧ (linked 4 0).cur.rf.lkd = 4 ∧ (linked 0 0).cur.rf.lkd = 0
    ∧ ((linked 4 0x40000).reg 5).toNat % 4 = 0 ∧ ((linked 1 2).reg 5).toNat % 4 ≠ 0
    ∧ (0x1000 : Int) + 4 * (0x200000#22 : BitVec 22).toInt < 0 ∧ 0x3FFFC < (0x1000 : Int) + 4 * (0xFC00#22 : BitVec 22).toInt := by
  unfold Runs MayIssue Guarded Free Clean; decide +kernel

theorem witness_ControlTraps_loop : 0x3FFFC < edge.cur.rf.pc.toNat + 4 * (1#10 : BitVec 10).toNat ∧ Runs edge { g := 0, rd := [5] } ∧ Clean edge [5] := by
  unfold Runs MayIssue Guarded Free Clean; decide +kernel

theorem witness_AluResults : Runs job { g := 0, rd := [5, 6], wr := [7] } ∧ Stays job ∧ Clean job [5, 6]
    ∧ Runs job { g := 0, rd := [0, 6], wr := [7] } ∧ Runs job { g := 0, rd := [5, 0], wr := [0] } := by
  unfold Runs MayIssue Guarded Free Stays Clean; decide +kernel

theorem witness_MulDivIssue : Runs job { g := 0, rd := [5, 6], wr := [7] } ∧ Stays job ∧ Clean job [5, 6]
    ∧ Runs job { g := 0, rd := [5, 6, 7], wr := [7] } ∧ Clean job [7] ∧ Runs job { g := 0, rd := [5, 6], wr := [7], div := true } := by
  unfold Runs MayIssue Guarded Free Stays Clean; decide +kernel

theorem witness_BitOperations : Runs job { g := 0, rd := [5], wr := [7] } ∧ Clean job [5] ∧ Stays job := by
  unfold Runs MayIssue Guarded Free Stays Clean; decide +kernel

theorem witness_ImmediatesAndConstants : Runs job { g := 0, wr := [7] } ∧ Runs job { g := 0, rd := [7], wr := [7] } ∧ Clean job [7]
    ∧ Runs job { g := 0, rd := [5, 6], wr := [7], rp := [1] } ∧ Stays job := by
  unfold Runs MayIssue Guarded Free Stays Clean; decide +kernel

theorem witness_PredicateResults : Runs job { g := 0, rd := [5, 6], wp := [1] } ∧ Clean job [5, 6] ∧ Stays job
    ∧ Runs job { g := 0, rp := [1, 2], wp := [3] } := by
  unfold Runs MayIssue Guarded Free Stays Clean; decide +kernel

theorem witness_Transfers : Runs (linked 1 0x3FFFC) { g := 0, rd := [5] } ∧ Clean (linked 1 0x3FFFC) [5] ∧ ((linked 1 0x3FFFC).reg 5).toNat = 0x3FFFC
    ∧ (linked 1 0).cur.rf.lkd.toNat = 1 ∧ ((linked 1 0).cur.rf.lk 0).toNat ≤ 0x3FFFC
    ∧ (0x1000 : Int) + 4 * (0xFBFF#22 : BitVec 22).toInt = 0x3FFFC ∧ (0x1000 : Int) + 4 * (0x3FFC00#22 : BitVec 22).toInt = 0 := by
  unfold Runs MayIssue Guarded Free Clean; decide +kernel

theorem witness_Loops : Runs job { g := 0, rd := [5] } ∧ Clean job [5] ∧ job.cur.rf.pc.toNat + 4 * (4#10 : BitVec 10).toNat ≤ 0x3FFFC
    ∧ job.cur.rf.pc + 4 ≠ 0x40000#32 := by
  unfold Runs MayIssue Guarded Free Clean; decide +kernel

/-- The two counters of a loop that ends where the task stands. -/
def looping (c0 c1 : Word) : RegFile :=
  { pc := 0x1010#32, lc0 := { count := c0, start := 0x1000#32, stop := 0x1010#32 }, lc1 := { count := c1, start := 0x1008#32, stop := 0x1010#32 } }

/-- R106: the inner loop counts down and goes back; at its last pass the outer one does; at the last pass of both the task goes on. -/
theorem test_loop_end : (looping 2 2).loopEnd.pc = 0x1008#32 ∧ (looping 2 2).loopEnd.lc1.count = 1 ∧ (looping 2 1).loopEnd.pc = 0x1000#32
    ∧ (looping 2 1).loopEnd.lc1.count = 0 ∧ (looping 1 1).loopEnd.pc = 0x1014#32 ∧ (looping 1 1).loopEnd.lc0.count = 0 := by decide +kernel

theorem witness_FpIssue : Runs job { g := 0, rd := [5, 6], wr := [7] } ∧ Clean job [5, 6] ∧ Runs job { g := 0, rd := [5, 6], wr := [7], fdiv := true }
    ∧ Runs job { g := 0, rd := [5], wr := [7], fdiv := true } ∧ Runs job { g := 0, rd := [5, 6, 7], wr := [7] } ∧ Clean job [7]
    ∧ job.cur.sr.fen = 0 ∧ Stays job ∧ Runs job { g := 0, rd := [5, 6], wp := [1] } := by
  unfold Runs MayIssue Guarded Free Stays Clean; decide +kernel

theorem witness_FpIssue_fen : let s := one { regs [(5, 7)] with sr := { fen := 16#5 } }
    Runs s { g := 0, rd := [5], wr := [7] } ∧ s.cur.sr.fen ≠ 0 := by
  unfold Runs MayIssue Guarded Free; decide +kernel

theorem witness_FpSpecialOperands : isNaN 0x7FF800000#36 = true ∧ isSNaN 0x7FF000001#36 = true ∧ isNaN 0x7FF000000#36 = false ∧ isInfinity 0xFFF000000#36 = true
    ∧ isZero 0x800000000#36 = true ∧ isFinite 0x7FEFFFFFF#36 = true ∧ isZero 0x001000000#36 = false ∧ isFinite 0x001000000#36 = true := by decide +kernel

theorem witness_FpOrderAndRounding : isNaN 0x800000000#36 = false ∧ isNaN 0#36 = false ∧ isZero 0x800000000#36 = true ∧ 2 * (3 % 2 ^ 1) = 2 ^ 1 := by
  decide +kernel

/-- A task with a result in flight. -/
def flying (w : Inflight) (fen : BitVec 5) : State := one { regs [] with infl := [w], sr := { fen := fen } }

theorem witness_InFlightCompletes :
    ((flying { dst := 7, val := { val := 9 } } 0).slot 0 0).infl[0]? = some { dst := 7, val := { val := 9 } }
    ∧ ((flying { dst := 7, val := { val := 9 }, flags := 16#5, isFp := true, late := true } 0).slot 0 0).rf.loopEnd.pc ≠ 0x40000#32
    ∧ (16#5 &&& ((flying { dst := 7, val := { val := 9 }, flags := 16#5, isFp := true, late := true } 16#5).slot 0 0).sr.fen) != 0#5
    ∧ ((flying { dst := 7, val := { val := 9 }, flags := 16#5, isFp := true, late := true } 16#5).slot 0 0).outstanding = false := by decide +kernel

/-- R84: the result of a MUL lands at its completion, and its register keeps its old value until then. -/
theorem test_mul_completes : let s := after (.mul 0 7 5 6) job
    s.reg 7 = 0 ∧ (after (.instructionCompletion 0 0 0) s).reg 7 = 21 := by decide +kernel

/-- A task with a spill window of 64 bytes. -/
def spiller (l : List (Nat × Nat)) : State := one { regs l with sr := { spBase := 0x100#16, spSize := 64#16 } }

theorem witness_AddressesAndTraps : Runs (spiller [(5, 0x3D), (6, 1)]) { g := 0, rd := [5], wr := [7], cls := .load } ∧ Clean (spiller [(5, 0x3D), (6, 1)]) [5]
    ∧ ((spiller [(5, 0x3D)]).reg 5).toNat % 8 ≠ 0 ∧ (spiller [(5, 0x40)]).cur.classify 0 0x40 8 = .error cSpillBounds
    ∧ (spiller [(5, 0x38)]).cur.classify 0 0x38 8 = .ok (.spill 0x138) ∧ (spiller []).cur.classify 0 0x400000 8 = .ok (.loc 0)
    ∧ (spiller []).cur.classify 0 0x7FFFFF 1 = .ok (.loc 0x3FFFFF) ∧ (spiller []).cur.classify 0 0x10000 1 = .error cRange
    ∧ (spiller []).cur.classify 0 0x10000000008 8 = .ok (.window 0 8) ∧ (spiller []).cur.classify 0 0x10002000008 8 = .error cRange := by
  unfold Runs MayIssue Guarded Free Clean; decide +kernel

theorem witness_AddressesAndTraps_forms : let s := spiller [(5, 0x400000), (6, 0)]
    Runs s { g := 0, rd := [5, 7], cls := .store } ∧ Runs s { g := 0, rd := [5, 6, 7], wr := [7], cls := .amo } ∧ Clean s [5, 6, 7]
    ∧ Runs s { g := 0, rd := [5, 6], cls := .post } ∧ Runs s { g := 0, rd := [5], cls := .bwait }
    ∧ s.cur.classify s.curTile.reg.court (s.reg 5) 8 = .ok (.loc 0) ∧ s.reg 6 = 0 := by
  unfold Runs MayIssue Guarded Free Clean; decide +kernel

theorem witness_SpillAccesses : let s := spiller [(5, 0x38), (7, 0x1122334455667788)]
    Runs s { g := 0, rd := [5], wr := [7], cls := .load } ∧ Runs s { g := 0, rd := [5, 7], cls := .store } ∧ Clean s [5] ∧ Stays s ∧ s.mem.wf = true
    ∧ (s.reg 5 + (0#10 : BitVec 10).signExtend 64 * 8).toNat % 8 = 0 ∧ s.cur.classify s.curTile.reg.court 0x38 8 = .ok (.spill 0x138) ∧ 0x138 % 8 = 0
    ∧ NoError s (spillKey 0 0x138) := by
  unfold Runs MayIssue Guarded Free Clean Stays NoError; decide +kernel

/-- R166: a word stored to the spill window is loaded back, and its low byte comes sign-extended. -/
theorem test_spill_store_load : let s := after (.std 0 7 5 0) (spiller [(5, 0x38), (7, 0x1122334455667788)])
    (after (.ldd 0 8 5 0) s).reg 8 = 0x1122334455667788#64 ∧ (after (.ldb 0 8 5 0) s).reg 8 = 0xFFFFFFFFFFFFFF88#64
      ∧ (after (.ldbu 0 8 5 0) s).reg 8 = 0x88#64 := by decide +kernel

theorem witness_AccessesGoOut : let s := one (regs [(5, 0x400000), (6, 1)])
    Runs s { g := 0, rd := [5], wr := [7], cls := .load } ∧ Runs s { g := 0, rd := [5, 7], cls := .store } ∧ Clean s [5, 6, 7] ∧ Stays s
    ∧ s.cur.classify s.curTile.reg.court (s.reg 5) 8 = .ok (.loc 0) ∧ s.accRoom (.loc 0) false 0 = true ∧ s.accRoom (.loc 0) true 8 = true
    ∧ Runs s { g := 0, rd := [5, 6, 7], wr := [7], cls := .amo } ∧ s.accRoom (.loc 0) false 16 = true ∧ s.cur.accs = []
    ∧ Runs s { g := 0, rd := [5, 6], cls := .post } ∧ Runs s { g := 0, rd := [5], cls := .bwait } := by
  unfold Runs MayIssue Guarded Free Clean Stays; decide +kernel

theorem witness_AccessesGoOut_window : let s := one (regs [(5, 0x10000000008), (6, 1)])
    Runs s { g := 0, rd := [5], wr := [7], cls := .load } ∧ s.cur.classify s.curTile.reg.court (s.reg 5) 8 = .ok (.window 0 8)
    ∧ s.accRoom (.window 0 8) false 0 = true ∧ s.accRoom (.window 0 8) true 8 = true := by
  unfold Runs MayIssue Guarded Free; decide +kernel

/-- R168: a store to the scratchpad goes out; its bank grants it, and the bytes stand in memory. -/
theorem test_store_performs : let s := after (.stw 0 6 5 0) (one (regs [(5, 0x400008), (6, 0xA1B2C3D4)]))
    s.mem.readN (scratchKey 0 8) 4 = 0 ∧ s.curTile.tccReq.length = 1 ∧ (after (.bankGrant 0 (bankOf 8)) s).mem.readN (scratchKey 0 8) 4 = 0xA1B2C3D4 := by decide +kernel

theorem witness_AtomicsPerform : let s : State := { mem := Memory.writeN [] (scratchKey 0 8) 8 5, marks := [scratchKey 0 16] }
    s.mem.wf = true ∧ NoError s (scratchKey 0 8) ∧ s.marks.has (scratchKey 0 16) = true ∧ s.marks.has (scratchKey 0 8) = false
    ∧ s.mem.readN (scratchKey 0 8) 8 = 5 := by
  unfold NoError; decide +kernel

/-- R171: an atomic add on a scratchpad word answers the old value. -/
theorem test_atomic_add : let s : State := { mem := Memory.writeN [] (scratchKey 0 8) 8 5 }
    let r := s.performScratch 0 8 (.atomic 8 0 7 false 0)
    r.1.mem.readN (scratchKey 0 8) 8 = 12 ∧ ofBytes (r.2.data.map (·.val)) = 5 := by decide +kernel

theorem witness_AtomicsPerform_counter : let l := [(false, 4), (true, 12), (false, 8)]
    l.filter (·.1) = [(true, 12)] ∧ ((l.filter (!·.1)).map (·.2)).sum = 12 ∧ ∀ u ∈ l, 0 < u.2 := by decide +kernel

theorem witness_Fences : Runs job { g := 0 } ∧ Stays job ∧ job.cur.accs = [] ∧ (job.fenceCmds 0).any job.curTile.cmdPending = false := by
  unfold Runs MayIssue Guarded Free Stays; decide +kernel

theorem witness_Fences_stands : let s := one { regs [] with accs := [{ k := 1, kind := .store, window := false, ea := 0x400000 }] }
    Runs s { g := 0 } ∧ Stays s ∧ s.cur.accs.any (fun a => !a.window) = true := by
  unfold Runs MayIssue Guarded Free Stays; decide +kernel

/-- A handler in slot 1 and a task in slot 0. -/
def handled : Tile := { slots := [(0, regs []), (1, regs [])], reg := { handler := 17#5 } }

theorem witness_TrapEntryAndRecords : let s : State := { tiles := [(0, handled)] }
    (s.slot 0 0).task = some { entry := 0 } ∧ (s.slot 0 0).outstanding = false ∧ ((s.tile 0).handlerFor 0).isSome = true
    ∧ (job.slot 0 0).task = some { entry := 0 } ∧ (job.tile 0).handlerFor 0 = none
    ∧ (({ job with entries := [(0, { st := 3 })] } : State).entry 0).st = 3 ∧ (({ job with entries := [(0, { st := 3 })] } : State).entry 0).aborting = false := by
  decide +kernel

theorem witness_TrapEntryAndRecords_waits :
    ((one { regs [] with accs := [{ k := 1, kind := .store, window := true, ea := 0 }] }).slot 0 0).outstanding = true := by decide +kernel

theorem witness_TrapEntryAndRecords_ring : let s : State := { courts := [(3, { v := true, w := [(4, 0x1002#64)] })] }
    s.mem.wf = true ∧ (s.court 3).v = true ∧ ((s.court 3).frhead + 2 ^ 32 - (s.court 3).frtail) % 2 ^ 32 < 2 ^ 2
    ∧ ((({ v := true, frhead := 4 } : Court).frhead + 2 ^ 32 - 0) % 2 ^ 32 = 2 ^ 2) ∧ (s.court 2).v = false := by decide +kernel

theorem witness_TrapEretExit : Runs job { g := 0 } ∧ Runs supJob { g := 0 } ∧ supJob.cur.sr.priv = true ∧ supJob.curTile.reg.trapset.getLsbD 0 = false
    ∧ job.cur.exitReady = true ∧ job.cur.task = some { entry := 0 } := by
  unfold Runs MayIssue Guarded Free; decide +kernel

/-- A privileged task in slot 0, and a trapped one in slot 2 that HTGT names. -/
def handler (htgt : BitVec 5) : State :=
  { tiles := [(0, { slots := [(0, sup []), (2, { regs [] with task := some { entry := 0, stopped := true }, sr := { tepc := 0x2000#32 } })],
                    reg := { htgt := htgt, trapset := 4#16, handler := 16#5 } })] }

theorem witness_TrapEretExit_eret : Runs (handler 2) { g := 0 } ∧ (handler 2).cur.sr.priv = true ∧ (handler 2).curTile.reg.trapset.getLsbD 2 = true
    ∧ Stays (handler 2) ∧ (handler 2).curTile.reg.htgt.getLsbD 4 = false ∧ (handler 18).curTile.reg.htgt.getLsbD 4 = true
    ∧ (handler 2).curTile.reg.handler.getLsbD 4 = true := by
  unfold Runs MayIssue Guarded Free Stays; decide +kernel

/-- R142: ERET lets the task that HTGT names run on at its TEPC. -/
theorem test_eret : let u := after (.eret 0) (handler 2)
    (u.slot 0 2).rf.pc = 0x2000#32 ∧ u.curTile.reg.trapset = 0#16 ∧ u.cur.rf.pc = 0x1004#32 := by decide +kernel

/-- R139: SVC saves its code and the address that follows. -/
theorem test_svc : let u := after (.svc 0 9) { tiles := [(0, handled)] }
    u.cur.sr.tcause = cSvc ∧ u.cur.sr.tval = 9#64 ∧ u.cur.sr.tepc = 0x1004#32 ∧ u.curTile.reg.trapset = 1#16 := by decide +kernel

/-- A task that waits for a channel word (bit 0) and a deadline (bit 3). -/
def waiter (m n : Nat) (chan : List PWord) : State := one { regs [(5, m), (6, n)] with chan := chan }

theorem witness_YieldAndWait : Runs (waiter 9 100 []) { g := 0, rd := [5, 6], wr := [5] } ∧ Runs (waiter 9 100 []) { g := 0 } ∧ Stays (waiter 9 100 [])
    ∧ Clean (waiter 9 100 []) [5] ∧ Clean (waiter 9 100 []) [6] ∧ ((waiter 9 100 []).curTile.pending 0 0 100 &&& 9#5) = 0#5
    ∧ ((waiter 9 100 [{}]).curTile.pending 0 0 100 &&& 9#5) = 1#5 ∧ ((waiter 9 0 []).curTile.pending 0 0 0 &&& 9#5) = 8#5
    ∧ ((waiter 0 0 []).reg 5).setWidth 5 = 0#5 := by
  unfold Runs MayIssue Guarded Free Stays Clean; decide +kernel

/-- A task with these tokens of COL and this channel. -/
def tokens (l : List (BitVec 16)) (chan : List PWord) : State := oneT { fifo := [(1, l)] } { regs [] with chan := chan }

theorem witness_TokensAndChannels : Runs (tokens [0x0045#16] []) { g := 0, cls := .tokw } ∧ (tokens [0x0045#16] []).curTile.fifoAt 1 = [0x0045#16]
    ∧ Stays (tokens [0x0045#16] []) ∧ (0x0045#16 : BitVec 16).extractLsb 15 8 = 0#8 ∧ (0x0945#16 : BitVec 16).extractLsb 15 8 ≠ 0#8
    ∧ (tokens [0x0945#16] []).cur.outstanding = false ∧ Runs job { g := 0, cls := .toks } ∧ job.cur.accs = [] ∧ (job.curTile.fifoAt 0).length < 15
    ∧ Runs (tokens [] [{ val := 4 }]) { g := 0, wr := [7] } ∧ (tokens [] [{ val := 4 }]).cur.chan = [{ val := 4 }] := by
  unfold Runs MayIssue Guarded Free Stays; decide +kernel

theorem witness_TokensAndChannels_send : let s := one (regs [(5, 3), (6, 8)])
    Runs s { g := 0, rd := [5, 6], cls := .send } ∧ Clean s [5] ∧ Stays s ∧ (s.reg 5).extractLsb 63 16 = 0#48 ∧ (s.reg 5).extractLsb 9 4 = 0#6
    ∧ ((s.reg 5).extractLsb 15 13).toNat ≤ (s.curTile.reg.court.extractLsb 41 39).toNat
    ∧ ((s.reg 5).extractLsb 12 10).toNat ≤ (s.curTile.reg.court.extractLsb 38 36).toNat
    ∧ s.cur.sendOpen (s.reg 5) = false ∧ s.cur.windowRoom = true ∧ s.curTile.outbox.length < 16 ∧ s.curTile.ni.canSend s.focusS 8 = true
    ∧ (0x2000#64 : Word).extractLsb 15 13 = 1#3 := by
  unfold Runs MayIssue Guarded Free Stays Clean; decide +kernel

/-- R246: the word of a SEND waits in the message port. -/
theorem test_send : (after (.send 0 5 6) (one (regs [(5, 3), (6, 8)]))).curTile.outbox.length = 1 := by decide +kernel

theorem witness_StateRegisters : Runs job { g := 0, wr := [7] } ∧ Stays job ∧ isPrivileged (.gets 0 7 0x018) = false ∧ job.cur.flagsStable = true
    ∧ Runs supJob { g := 0, rd := [5] } ∧ Clean supJob [5] ∧ Stays supJob ∧ isPrivileged (.puts 0 5 0x00C) = true ∧ supJob.cur.sr.priv = true
    ∧ job.curTile.reg.tccm1 < 16 := by
  unfold Runs MayIssue Guarded Free Stays Clean; decide +kernel

/-- R134, R137: GETS of the PC, and of CLKCTL at reset. -/
theorem test_gets : (after (.gets 0 7 0x018) job).reg 7 = 0x1000#64 ∧ (after (.gets 0 7 0x040) job).reg 7 = 0x10100#64 := by decide +kernel

/-- R77: a PUTS of LKD past 4 is ignored. -/
theorem test_puts_lkd : (after (.puts 0 5 0x00C) supJob).cur.rf.lkd = 0 ∧ (after (.puts 0 6 0x00C) supJob).cur.rf.lkd = 3 := by decide +kernel

/-- The scan address of s9 of slot 0 of the task's own tile (R147, R148): SELF, unit 0, register 0x409. -/
def selfReg : Nat := 0x100000000409

theorem witness_ScansStart : let s := one (sup [(5, selfReg), (6, 1)])
    s.cur.sr.priv = true ∧ s.cur.scanFree = true ∧ Clean s [5] ∧ Runs s { g := 0, rd := [5], wr := [7] } ∧ Runs s { g := 0, rd := [5, 6] } ∧ Stays s := by
  unfold Runs MayIssue Guarded Free Stays Clean; decide +kernel

theorem witness_ClockDivisors : let s := one (regs [(5, 16), (6, 17)])
    Runs s { g := 0, rd := [5], wr := [7] } ∧ Clean s [5, 6] ∧ s.curTile.reg.lock = false ∧ (s.reg 5).toNat ≤ 16 ∧ 16 < (s.reg 6).toNat
    ∧ (oneT { reg := { lock := true } } (regs [])).curTile.reg.lock = true := by
  unfold Runs MayIssue Guarded Free Clean; decide +kernel

theorem witness_ClockDivisors_done : let s := one { regs [] with task := some { entry := 0, hold := .clkdiv 0 7 1 } }
    s.cur.task = some { entry := 0, hold := .clkdiv 0 7 1 } ∧ s.stopsHere = false ∧ s.curTile.divDone s.focusS = true ∧ Stays s ∧ s.cur.stop.state = 0 := by
  unfold Stays; decide +kernel

theorem witness_ClockDivisors_effect : let s : State := { oneT { reg := { newDiv := [(0, 1, 4, 64)] } } (regs []) with time := 64 }
    (s.tile 0).reg.newDiv = [(0, 1, 4, 64)] ∧ 64 ≤ s.time ∧ courtPairH (s.tile 0).reg.court = false := by decide +kernel

theorem witness_LaunchAndDepdone : let s := one (regs [(5, 0x400080)])
    Clean s [5] ∧ Runs s { g := 0, rd := [5], wr := [7], cls := .launch } ∧ (s.reg 5).toNat % 8 = 0
    ∧ s.cur.classify s.curTile.reg.court (s.reg 5) 128 = .ok (.loc 0x80) ∧ s.cur.accs = [] ∧ s.cur.classify s.curTile.reg.court 0x10000 128 = .error cRange := by
  unfold Runs MayIssue Guarded Free Clean; decide +kernel

theorem witness_LaunchAndDepdone_dep :
    let s : State := { one (regs [(5, 0x3005), (6, 0x4005)]) with entries := [(5, { st := 1, gen := 3, extcnt := 1, predcnt := 0 })] }
    Clean s [5] ∧ Runs s { g := 0, rd := [5], cls := .depdone } ∧ (s.reg 5).extractLsb 63 16 = 0#48 ∧ (s.entry 5).gen = ((s.reg 5).extractLsb 15 12).toNat
    ∧ (s.entry 5).gen ≠ ((s.reg 6).extractLsb 15 12).toNat ∧ (s.entry 5).st = 1 ∧ (s.entry 5).extcnt ≠ 0
    ∧ (s.entry 5).courtNo = (s.curTile.reg.court.extractLsb 5 0).toNat ∧ Stays s ∧ s.cur.accs = [] := by
  unfold Runs MayIssue Guarded Free Clean Stays; decide +kernel

theorem witness_EngineCommands : Clean job [5, 6] ∧ Runs job { g := 0, rd := [5], cls := .cmd } ∧ Runs job { g := 0, rd := [5, 6], cls := .cmd } ∧ Stays job
    ∧ job.curTile.colq.length < 8 ∧ job.curTile.cpyq.length < 16 ∧ (job.court (job.curTile.reg.court.extractLsb 5 0).toNat).ex = false
    ∧ (({ job with courts := [(0, { ex := true })] } : State).court 0).ex = true ∧ Runs job { g := 0 } ∧ Runs job { g := 0, wr := [7] } := by
  unfold Runs MayIssue Guarded Free Stays Clean; decide +kernel

/-- R233: a queued command, and an EFENCE that stands until it is gone. -/
theorem test_efence : let u := after (.tset 0 5 6 0) job
    u.curTile.colq.length = 1 ∧ (after (.efence 0 1) u).cur.rf.pc = 0x1004#32 ∧ (after (.efence 0 2) u).cur.rf.pc = 0x1008#32 := by decide +kernel

/-- A live task that has this to do. -/
def busy (ti : TaskInfo) : State := { one { regs [] with task := some ti } with time := 40, roles := { roles := 0x55555555#32 } }

theorem witness_TaskEvents :
    ((busy { entry := 0, trap := some { cause := cRange, tval := 0, tepc := 0, ipc := 0 } }).slot 0 0).outstanding = false
    ∧ ((busy { entry := 0, hold := .wait 8 40 7 }).slot 0 0).task = some { entry := 0, hold := .wait 8 40 7 } ∧ (8#5 : BitVec 5).getLsbD 3 = true
    ∧ 40 ≤ (busy { entry := 0 }).time ∧ (busy { entry := 0 }).trapsetWaits 0 1 = false ∧ (busy { entry := 0 }).role 0 = 1 := by decide +kernel

theorem witness_TaskEvents_scan : let o : ScanOp := { isWrite := true, addr := BitVec.ofNat 64 selfReg, data := { val := 5 }, dst := 0, pc := 0, since := 0 }
    let s := busy { entry := 0, scan := some o }
    scanAt 0 o.addr = some (.tile 0 0 0x409) ∧ o.since + 40 ≤ (s.tile 0).cyc 0 s.time ∧ s.scanWaits (some (0, 0)) (.tile 0 0 0x409) o = false
    ∧ s.scanScrub (.tile 0 0 0x409) = s := by decide +kernel

/-- An answer for access 1 of slot 0, which waits in the tile. -/
def answered (kind : AccKind) (r : Reply) : State :=
  oneT { wdone := [(0, 1, r)] } { regs [] with accs := [{ k := 1, kind := kind, window := true, ea := 0x10000000008#64, dst := 7 }] }

theorem witness_TaskAnswers : ((answered .amo { stat := .ok, data := [] }).tile 0).answerFor 0 = some (1, { stat := .ok, data := [] }) ∧ ((answered .amo { stat := .ok, data := [] }).slot 0 0).accs.length = 1
    ∧ ((answered .store { stat := .fail, data := [] }).tile 0).answerFor 0 = some (1, { stat := .fail, data := [] }) := by decide +kernel

/-- R170: a load that failed reads 0 with poison. -/
theorem test_load_fails : ((after (.courtWindowCompletion 0 0) (answered (.load 8 false) { stat := .fail, data := [] })).slot 0 0).rf.get 7 = { val := 0, poi := true } := by
  decide +kernel

theorem witness_TaskAnswers_watch : let s : State :=
      { oneT { notice := [8], watch := [(0, [(8, .task 0 0 0)])] } { regs [] with task := some { entry := 0, hold := .bwatch 0x400008 0 false } } with time := 256 }
    (s.slot 0 0).classify (s.tile 0).reg.court 0x400008 8 = .ok (.loc 8) ∧ ({ s with focusT := 0, focusS := 0 } : State).accRoom (.loc 8) false 0 = true
    ∧ 0 + 256 ≤ s.time ∧ (s.tile 0).notice.contains 8 = true ∧ (s.tile 0).watch.at (8 / 64 % 32) [] = [(8, .task 0 0 0)]
    ∧ (s.slot 0 0).stop.state = 0 := by decide +kernel

/-- A task of a stopping court. -/
def stopping (sl : Slot) : State := { oneT { stopAt := some 0 } sl with courts := [(0, { v := true })] }

theorem witness_TaskStops : (stopping { regs [] with stop := { notReady := 256 }, issues := 4096 }).runsOn 0 0 = true
    ∧ ((stopping { regs [] with stop := { notReady := 256 } }).slot 0 0).stoppable = true
    ∧ ((stopping { regs [] with issues := 4096 }).slot 0 0).between = true
    ∧ ((stopping { regs [] with issues := 4096 }).slot 0 0).stop.issued + 4096 ≤ 4096 := by decide +kernel

/-! ## Witnesses: engines, rallies, banks, base dies, compute cells -/

/-- A tile whose COL queue holds one command. -/
def colWith (c : Cmd) (k : Collar) (fifo : AMap (List (BitVec 16))) : Tile :=
  { slots := [(0, regs [])], colq := [c], col := k, fifo := fifo, reg := {} }
/-- A command of slot 0. -/
def command (n : Nat) (f : Nat) (a b : Word) : Cmd := { uid := 1, cmd := n, flags := f, slot := 0, a := a, b := b }
/-- The package whose tile 0 is this one. -/
def tiled (x : Tile) : State := { tiles := [(0, x)] }

theorem witness_CommandsStart : let c := command 4 8 0x7C 5
    let x := colWith c {} [(5, [0x0085#16])]
    x.nextCmd 1 = some c ∧ (tiled x).condition 0 1 c = true ∧ c.pops 1 = [5] ∧ (∀ i ∈ c.pops 1, x.fifoAt i ≠ []) ∧ c.valuesOk = true ∧ x.stopAt = none
    ∧ ((c.pops 1).map fun i => ((x.fifoAt i).headD 0).toNat / 2 ^ 8).find? (· != 0) = none
    ∧ (command 4 0 0x1800 0).valuesOk = false ∧ (command 4 0 0x17FC 0).valuesOk = true
    ∧ ([(0x0985#16 : BitVec 16)].map fun k => k.toNat / 2 ^ 8).find? (· != 0) = some 9 := by decide +kernel

theorem witness_CommandsStart_kinds : (∀ n ∈ [0, 1, 2, 3, 5], (colWith (command n 0 0 0) {} []).nextCmd 1 = some (command n 0 0 0)
      ∧ (tiled (colWith (command n 0 0 0) {} [])).condition 0 1 (command n 0 0 0) = true ∧ (command n 0 0 0).valuesOk = true)
    ∧ ({ cpyq := [command 2 0 0 0] } : Tile).nextCmd 2 = some (command 2 0 0 0) ∧ (tiled { cpyq := [command 2 0 0 0] }).condition 0 2 (command 2 0 0 0) = true := by
  decide +kernel

/-- R287: a TSET of base register 15 sets it alone. -/
theorem test_tset : let u := after (.commandStart 0 .col) (tiled (colWith (command 4 0 0x3C 0xABC) {} []))
    u.curTile.col.cb.at 15 0 = 0xABC#64 ∧ u.curTile.col.cb.at 14 0 = 0 ∧ (u.curTile.colq.map (·.st)) = [2] := by decide +kernel

theorem witness_CommandsWork : let c : Cmd := { command 2 3 0 0 with st := 2, cause := 9 }
    (colWith c {} []).queue 1 = [c] ∧ c.pushes 1 = [4, 1] ∧ (∀ i ∈ c.pushes 1, ((colWith c {} []).fifoAt i).length < 15)
    ∧ (colWith { command 0 0 0 0 with st := 1 } {} []).started 0 = some { command 0 0 0 0 with st := 1 } := by decide +kernel

/-- R231, R235: a retire pushes its token and leaves its cause. -/
theorem test_retire : let u := after (.commandRetire 0 .col) (tiled (colWith { command 2 1 0 0 with st := 2, cause := 9 } {} []))
    u.curTile.fifoAt 1 = [0x0942#16] ∧ u.cur.lcol = 9#8 ∧ u.curTile.colq = [] := by decide +kernel

/-- A plane that binds binding 3 to a C-cell counter. -/
def bindPlane : Plane := [(1, BitVec.ofNat 256 (0x800 * 2 ^ 36))]

theorem witness_CommandsWork_bind : let c : Cmd := { command 3 0 3 8 with st := 1, deck := true }
    let x := colWith c { deck := bindPlane } []
    x.started 3 = some c ∧ c.deck = true ∧ (x.col.deck.bind c.a.toNat).1 = true ∧ c.b ≠ 0 ∧ c.b.toNat < 2 ^ 20 := by decide +kernel

theorem witness_CommandsWork_copy : let r : CopyRun := { uid := 1, set := {}, fin := 3 }
    let x : Tile := { cpyq := [{ command 2 0 0 0 with st := 1 }], copies := [r] }
    x.copies = [r] ∧ x.copyCmd r.uid = some { command 2 0 0 0 with st := 1 } := by decide +kernel

/-- The frames of a partial image of one frame, C-cell 0 frame 0, all zero (R58, R60 to R62). -/
def patchFrames : List (BitVec 256) :=
  [BitVec.ofNat 256 (0x4B573943 * 2 ^ 224 + 2 ^ 208 + 2 ^ 173 + 2 ^ 164 + 1771396608 * 2 ^ 128), 0, BitVec.ofNat 256 (2 ^ 256 - 2 ^ 16), 0]
/-- Context 0 of tile 0 with these frames. -/
def context (l : List (BitVec 256)) : Memory := ((List.range l.length).zip l).foldl (fun m p => m.writeN (ctxKey 0 (32 * p.1)) 32 p.2.toNat) []

theorem witness_CommandsWork_cfgpart : let c : Cmd := { command 1 0 0 8 with st := 1 }
    let s : State := { tiled (colWith c { deck := [], dv := true, av := true } []) with mem := context patchFrames }
    (s.tile 0).started 1 = some c ∧ c.b.getLsbD 3 = true ∧ (command 1 0 0 0).b.getLsbD 3 = false ∧ (s.tile 0).col.dv = true ∧ (s.tile 0).col.av = true
    ∧ (match s.partImage 0 0 with
       | .ok im => im.frames == [(2, 0#256)] && ((s.tile 0).col.deck.patch im).firstBad (courtPairH (s.tile 0).reg.court) (s.eastHalf 0) == none
       | .error _ => false) = true
    ∧ (match (tiled (colWith c { dv := true } [])).partImage 0 0 with | .error f => f == frameAddr 0 | .ok _ => false) = true := by decide +kernel

/-- A tile in a rally whose waves have found it clean. -/
def rallying (r : Rally) : State := { tiled { col := { rally := some r } } with time := 64 }

theorem witness_Whistle : let r : Rally := { t0 := 0, wave := some { cyc := 24, clean := true, toks := 0 } }
    let s := rallying r
    s.colCyc 0 = 32 ∧ r.whistle = none ∧ r.t0 + 8 ≤ 32 ∧ (s.tile 0).col.cstat.toNat % 256 = 0 ∧ 24 < r.t0 + (32 - r.t0) / 8 * 8 ∧ r.act < 24
    ∧ s.allEmpty 0 = true ∧ (∀ p ∈ (s.tile 0).col.reqout, p.2 = 0) ∧ (s.tile 0).col.tokenSum = 0 := by decide +kernel

theorem witness_Whistle_over : let s := rallying { t0 := 0, whistle := some 32 }
    (s.tile 0).col.rally = some { t0 := 0, whistle := some 32 } ∧ 32 ≤ s.colCyc 0 ∧ (s.tile 0).stopAt = none ∧ (s.tile 0).reg.pmsel = [] ∧ (s.tile 0).col.arr.v = false
    ∧ (s.tile 0).col.mc = [] := by decide +kernel

theorem witness_Whistle_record : let s := rallying { t0 := 0, whistle := some 32, recAt := some 64, recStep := 3 }
    (s.tile 0).col.rally = some { t0 := 0, whistle := some 32, recAt := some 64, recStep := 3 } := by decide +kernel

theorem witness_BankGrants : let q : BankReq := { who := .task 0 0 1, off := 8, op := .read 8 }
    let s := oneT { tccReq := [q] } { regs [] with accs := [{ k := 1, kind := .load 8 false, window := false, ea := 0x400008, dst := 7 }] }
    (s.tile 0).tccReq = [q] ∧ bankOf q.off = 0 ∧ (s.tile 0).cellsFor 0 = none ∧ (s.tile 0).copyFor 0 = none ∧ (s.tile 0).bankAt.at 0 0 ≠ (s.tile 0).cyc 1 s.time + 1
    ∧ (s.tile 0).reg.pmsel = [] := by decide +kernel

theorem witness_BankGrants_others : let c : BankReq := { who := .cell 0 3 1, off := 2112, op := .read 8 }
    let p : BankReq := { who := .copy 0 0, off := 0, op := .read 1 }
    let n : BankReq := { who := .net {}, off := 64, op := .write [{ val := 5 }] none }
    (({ cellReq := [(3, [c])] } : Tile).cellsFor 1 = some (3, .cell 3 0, c)) ∧ ({ cpyReq := [p] } : Tile).copyFor 0 = some (.copy 0, p)
    ∧ ({ netReq := [n] } : Tile).cellsFor 1 = some (1, .net 0, n) ∧ ({} : Tile).cyc 1 14 % 8 = 7 ∧ ({} : Tile).cyc 1 6 % 8 = 3 := by decide +kernel

/-- R157: the copy engine's request is taken before a TCC's in the last of eight cycles. -/
theorem test_bank_order : let p : BankReq := { who := .copy 0 0, off := 0, op := .read 1 }
    let u := after (.bankGrant 0 0) { tiled { cpyReq := [p], tccReq := [{ who := .task 0 0 1, off := 8, op := .read 8 }] } with time := 14 }
    (u.tile 0).cpyReq = [] ∧ (u.tile 0).tccReq.length = 1 := by decide +kernel

/-- A read of 8 bytes at a base die. -/
def dieReq (kind n : Nat) (h : Home) : DieReq := { h := { kind := kind, nbm1 := n - 1 }, pay := [], home := h }
/-- The package whose base die 0 is this one. -/
def died (x : Die) : State := { dies := [(0, x)] }

theorem witness_BaseDies : let r := dieReq 0 8 (.hbm 0x40)
    (died { reqs := [r] }).mem.wf = true ∧ ((died { reqs := [r] }).die 0).reqs[0]? = some r ∧ r.adm = false ∧ r.h.kind = 0 ∧ 0x40 + 8 ≤ 2 ^ 39
    ∧ (died {}).cxlPort 0 = none ∧ ((died {}).die 0).frameOf 3 0 = none ∧ 2 ^ 39 < 2 ^ 39 - 7 + 8 := by decide +kernel

theorem witness_BaseDies_burst : let r : DieReq := { dieReq 0 64 (.hbm 0) with adm := true }
    (died { reqs := [r] }).slotPick 0 0 = some (0, 0) ∧ (died { reqs := [r], slotUsed := [(0, 1)] }).slotPick 0 0 = none ∧ r.done < r.h.nbm1 + 1 ∧ 0 + min (32 - 0 % 32) (64 - 0) < 64 := by decide +kernel

theorem witness_BaseDies_rmw : let r : DieReq := { dieReq 1 64 (.hbm 0) with adm := true, rmw := some ([{ val := 5 }, { en := false }], false) }
    r.rmw = some ([{ val := 5 }, { en := false }], false) ∧ r.done + 2 < r.h.nbm1 + 1 ∧ (died { reqs := [r] }).slotPick (nfld 0 10 8) (nfld 0 16 11) = some (0, 0) := by
  decide +kernel

theorem witness_BaseDies_resident : let x : Die := { mpframes := 4, resmap := [(2, rmWord true false false 3 7)] }
    x.frameOf 3 (7 * 2 ^ 21) = some 2 ∧ rmV (x.resmap.at 2 0) = true ∧ rmDirty (rmWord true true false 3 7) = true := by decide +kernel

theorem witness_BaseDies_migr : let m : Migr := { frame := 2, incoming := true, asid := 3, vgn := 7 }
    let s : State := { died { migr := [m], notices := [(3 * 2 ^ 35 + 7, [5])] } with
      ranges := [(3 * 64, BitVec.ofNat 256 (2 ^ 63 + 2 ^ 62 + 2 ^ 125 + 2 ^ 88))] }
    m.frame < 262144 ∧ (s.die 0).migr = [m] ∧ m.phase = 0 ∧ (s.granHome 3 7).isSome = true ∧ (s.die 0).notices = [(3 * 2 ^ 35 + 7, [5])] := by decide +kernel

/-- A number from values and the bits where they stand. -/
def at_ (l : List (Nat × Nat)) : Nat := l.foldl (fun a p => a + p.1 * 2 ^ p.2) 0

/-- Slot 0 of cell 0: an operation on .b32 lanes of inputs a and b, one token from each, one on x (R63). -/
def slotBits (op rb : Nat) : Nat := at_ [(op, 120), (2, 118), (1, 117), (8, 110), (0x10, 105), (0x11, 100), (0x14, 95), (0x1F, 90), (1, 88), (rb, 86), (1, 82)]

/-- A plane with cell 0 so configured, whose x goes out on output 1 of its X-box. -/
def cellPlane (op rb : Nat) : Plane := [(frC 0 0, BitVec.ofNat 256 (slotBits op rb)), (frX 0, BitVec.ofNat 256 (12 * 2 ^ 248))]

/-- A token with v in every lane. -/
def tokOf (v : Nat) : Token := { d := Lanes.of fun _ => (BitVec.ofNat 36 v, false), mask := 0xFFFFFFFF#32, tag := 0 }

/-- Tile 0 in a rally of that plane, with tokens at a and b. -/
def firing (op rb : Nat) (a b : List Token) : State :=
  tiled { col := { active := cellPlane op rb, av := true, rally := some { t0 := 0 }, cin := [(cKey 0 0, a), (cKey 0 1, b)] } }

/-- Does the firing of slot 0 of cell 0 go through: tokens, computation and counts. -/
def fires (s : State) : Bool :=
  let c := (s.tile 0).col
  let q := c.active.slot 0 0
  match c.takeFor 0 q with
  | some k =>
    match computeCell 0 0 q k with
    | .ok f => (match f.col.countTags 0 q k (f.tokens q k).1 (f.tokens q k).2 with | .ok _ => !k.ctl.any id | .error _ => false)
    | .error _ => false
  | none => false

theorem witness_CellFirings : let s := firing 1 1 [tokOf 7] [tokOf 3]
    let c := (s.tile 0).col
    let q := c.active.slot 0 0
    c.mayAct (s.colCyc 0) 0 = true ∧ q.v = true ∧ (s.tile 0).reg.pmsel = [] ∧ q.ordered = false ∧ c.phase (s.colCyc 0) = 0
    ∧ c.lastFire.at 0 0 ≠ s.colCyc 0 + 1 ∧ c.slotReady 0 0 q = true ∧ q.op = 1 ∧ fires s = true := by decide +kernel

/-- R264, R265, R292: ADD of two tokens goes out on the cell's x, and the inputs are empty. -/
theorem test_cell_add : let u := after (.cellAdd 0 0 0) (firing 1 1 [tokOf 7] [tokOf 3])
    ((u.tile 0).col.xd.at (xKey 0 1) []).map (fun k => (k.d.lane 0, k.d.lane 31)) = [(10#36, 10#36)] ∧ (u.tile 0).col.cin.at (cKey 0 0) [] = [] := by decide +kernel

theorem witness_CellFirings_store : let s := firing 0x61 0 [tokOf 7] []
    let c := (s.tile 0).col
    let q := c.active.slot 0 0
    let give := { c with cin := [], store := [(0, { held := [tokOf 7] })] }
    q.op = 0x61 ∧ c.lastFire.at 0 0 ≠ s.colCyc 0 + 1 ∧ (c.cellStore 0).held = [] ∧ (c.takeStore 0 q).map (fun k => (k.ctl, k.stored)) = some ([], tokOf 7) ∧ 8 ≤ q.region
    ∧ give.roomFor 0 q = true ∧ (match give.fifoGive 0 q with | .ok _ => true | .error _ => false) = true
    ∧ (let c := ((firing 0x55 0 [tokOf 7] []).tile 0).col
       let q := c.active.slot 0 0
       q.op = 0x55 ∧ (c.cellStore 0).drain = false ∧ ((c.takeStore 0 q).map fun k => k.ctl) = some []
       ∧ ({ c with store := [(0, { drain := true })] } : Collar).roomFor 0 q = true) := by decide +kernel

/-- R292: a signed minimum on the sublanes of bytes; a saturating sum; a high product. -/
theorem test_int_lanes : (intLane 0x0C 0 0 0x80017F05#36 0x00FF8004#36 0).1 = 0x80FF8004#36 ∧ (intOp 0x0F 8 0 100 100 0).1 = 127
    ∧ (intOp 0x04 16 1 0xFFFF 0xFFFF 0).1 = 0xFFFE := by decide +kernel

theorem witness_CellResults : let k : Taken := { a := [tokOf 7], b := [tokOf 3], col := {} }
    ∀ op ∈ [0x01, 0x20, 0x40, 0x50, 0x60, 0x62, 0x64, 0x66, 0x68, 0x69, 0x53, 0x54], let q := slotCfg (slotBits op 1)
      q.op = op ∧ (∀ i, i < 32 → (k.col.operand 0 q k q.selA).1.bad i = false ∧ (k.col.operand 0 q k q.selB).1.bad i = false
        ∧ (k.col.operand 0 q k q.selC).1.bad i = false) := by decide +kernel

theorem witness_CellResults_sum : ({ a := [{ tokOf 7 with mask := 1#32 <<< 31 }], col := {} } : Taken).mask = 1#32 <<< 31 := by decide +kernel

/-! ## Witnesses: moves, memory cells, the array, the fabric -/

/-- Tile 0 in a rally of a plane, with these tokens and cells. -/
def collared (p : Plane) (f : Collar → Collar) : State := { tiled { col := f { active := p, av := true, rally := some { t0 := 0 } } } with time := 20 }

/-- X-box 1 with outputs 0 and 1 on input 3 (west), whose neighbour is X-box 0. -/
def crossPlane : Plane := [(frX 0, 0), (frX 1, BitVec.ofNat 256 (11 * 2 ^ 252 + 11 * 2 ^ 248 + 11 * 2 ^ 228))]

/-- The same with a token before input 3 of X-box 1 on the data network, and with output 0 full or not. -/
def crossing (full : List Token) : State :=
  collared crossPlane fun c => { c with xd := [(xKey 0 1, [tokOf 7]), (xKey 1 0, full)], xc := [(xKey 0 1, [true])] }

theorem witness_MovesAndAddresses : let c := ((crossing []).tile 0).col
    c.mayAct ((crossing []).colCyc 0) 145 = true ∧ c.before 1 3 = some (0, 1, tokOf 7) ∧ c.nowX 1 3 = [0, 1] ∧ c.dueX 1 3 = [0, 1] ∧ c.regionAt 1 3 0 = none
    ∧ c.beforeCtl 1 3 = some (some (0, 1), true) ∧ c.nowXc 1 3 = [0]
    ∧ ((crossing [tokOf 1, tokOf 2]).tile 0).col.nowX 1 3 = [1] := by decide +kernel

/-- R69: a token whose second output is full is copied to the first, stands, and leaves when the second has accepted it. -/
theorem test_xbox_copy : let u := after (.xboxTokenMove 0 .data 1 3) (crossing [tokOf 1, tokOf 2])
    let c := (u.tile 0).col
    (c.xd.at (xKey 1 1) []).length = 1 ∧ (c.xd.at (xKey 0 1) []).length = 1 ∧ c.nowX 1 3 = []
    ∧ (let v := (after (.xboxTokenMove 0 .data 1 3) { u with tiles := [(0, { (u.tile 0) with col := { c with xd := c.xd.put (xKey 1 0) [] } })] }).tile 0
       v.col.xd.at (xKey 0 1) [] = [] ∧ (v.col.xd.at (xKey 1 0) []).length = 1 ∧ (v.col.xd.at (xKey 1 1) []).length = 1) := by decide +kernel

/-- Memory cell 0 with an operation on I8 elements for W36 lanes, driven by address cell 0 with an operation, a base register 0 and 4 steps of 64 (R67, R68). -/
def memPlane (mop aop ratei : Nat) : Plane :=
  [(frM 0 0, BitVec.ofNat 256 (at_ [(mop, 252), (1, 247), (2, 245), (1, 238), (8, 209), (3, 207), (ratei, 205), (1, 203)])),
   (frA 0 0, BitVec.ofNat 256 (at_ [(aop, 252), (4, 220), (64, 188), (1, 168)])), (frA 0 1, BitVec.ofNat 256 (at_ [(1, 236), (1, 184)]))]

/-- A rally with that memory cell in a run. -/
def memRally (mop aop ratei : Nat) (k : MCell) (toks : List Token) : State :=
  collared (memPlane mop aop ratei) fun c => { c with mc := [(0, { k with running := true })], minp := [(0, toks)], acnt := [(0, (2, 4))] }

theorem witness_MovesAndAddresses_cells : let s := memRally 1 1 0 {} []
    let c := (s.tile 0).col
    c.serves 0 (s.colCyc 0) = some (0, true) ∧ c.mayRun 0 (c.active.mcell 0) = true ∧ (c.mcell 0).addr = none ∧ (c.active.acell 0).aop = 1
    ∧ ((List.range 4).map fun d => ((c.dim 0 d).1 : Int) * (c.active.acell 0).str.getD d 0).sum = 128
    ∧ ((memRally 0 3 0 {} []).tile 0).col.serves 0 10 = some (0, true) ∧ ((memRally 3 2 1 {} [tokOf 7]).tile 0).col.serves 0 10 = some (0, true)
    ∧ ((memRally 3 2 1 {} [tokOf 7]).tile 0).col.minp.at 0 [] = [tokOf 7] := by decide +kernel

/-- R330: the address of the third step is the base and twice the stride. -/
theorem test_aff : ((((after (.aff 0 0) (memRally 1 1 0 {} [])).tile 0).col.mcell 0).addr) = some [(0, 128)] := by decide +kernel

/-- Is a job's first access in the scratchpad of tile 0, with nothing against it. -/
def goesLocal (s : State) : Except CellFault CellJob → Bool
  | .ok j => (match j.accs with
    | y :: _ => (match s.cellHome 0 0 y.isMeta y.addr y.len y.op.kind with | .ok (.scratch 0 _) => true | _ => false)
    | [] => false) && j.fault.isNone && j.accs.all (·.st == 0)
  | .error _ => false

theorem witness_MemoryCells : let s := memRally 1 1 0 { addr := some [(0, 128)] } []
    let c := (s.tile 0).col
    let q := c.active.mcell 0
    let k := c.mcell 0
    q.av = true ∧ c.mayAct (s.colCyc 0) 96 = true ∧ k.ret = [] ∧ k.out = none ∧ k.running = true ∧ c.lastFire.at 96 0 ≠ s.colCyc 0 + 1 ∧ c.draining = false
    ∧ 8 ≤ q.region ∧ 64 ≤ s.mcredNow 0 0 ∧ q.ratei = 0 ∧ q.mv = false ∧ goesLocal s (s.jobLds 0 0 q { toks := [], addrs := [(0, 128)], i0 := 0, maddr := 0 }) = true
    ∧ q.mop = 1 ∧ 128 % q.align = 0 ∧ 0 < q.bytes q.perTok ∧ 128 % 64 + q.bytes q.perTok ≤ 64 := by decide +kernel

theorem witness_MemoryCells_kinds :
    let s := fun mop => memRally mop 2 1 { addr := some [(5, 64)] } [tokOf 7, tokOf 9, tokOf 1]
    let i : CellIn := { toks := [tokOf 7, tokOf 9, tokOf 1], addrs := [(5, 64)], i0 := 0, maddr := 0 }
    goesLocal (s 2) ((s 2).jobSts 0 0 (((s 2).tile 0).col.active.mcell 0) i) = true ∧ goesLocal (s 3) ((s 3).jobGath 0 0 (((s 3).tile 0).col.active.mcell 0) i) = true
    ∧ goesLocal (s 4) ((s 4).jobScat 0 0 (((s 4).tile 0).col.active.mcell 0) i) = true ∧ goesLocal (s 5) ((s 5).jobAtom 0 0 (((s 5).tile 0).col.active.mcell 0) i) = true
    ∧ goesLocal (s 6) ((s 6).jobTas 0 0 (((s 6).tile 0).col.active.mcell 0) i) = true := by decide +kernel

theorem witness_MemoryCells_dcmp : let s := memRally 7 1 0 { addr := some [(0, 64)] } []
    let c := (s.tile 0).col
    (c.active.mcell 0).mop = 7 ∧ 0 < (c.active.mcell 0).perTok ∧ (c.mcell 0).dec.pos + 16 ≤ 64 * c.runLines (c.active.mcell 0)
    ∧ (match s.cellHome 0 0 false 64 64 .read with | .ok (.scratch 0 o) => o == 64 | _ => false) = true
    ∧ ({ table := some { image := 1, addr := 0, pos := 0, since := 8 } } : Decomp).table.isSome = true ∧ 8 + 2 ≤ s.colCyc 0 := by decide +kernel

/-- R341: LDS asks its bank for the 32 bytes of its token. -/
theorem test_lds : (((after (.lds 0 0) (memRally 1 1 0 { addr := some [(0, 128)] } [])).tile 0).cellReq.at 0 []).map (fun r => (r.off, r.op)) = [(128, .read 32)] := by
  decide +kernel

/-- An array in DENSE with a K-step of 4 rows, loading, with accumulator rows on its south edge (R69). -/
def arrPlane : Plane := [(frArr 1, BitVec.ofNat 256 (at_ [(1, 252), (3, 243), (1, 240), (1, 239), (1, 238), (15, 220)])), (frArr 2, BitVec.ofNat 256 (2 ^ 256 - 1))]

/-- A rally with that array in a state, and tokens at its edges. -/
def arrayed (a : ArrayState) (ins : AMap (List Token)) : State := collared arrPlane fun c => { c with arr := a, ain := ins }

theorem witness_ArraySteps : let s := arrayed {} ((List.range 4).map fun g => (aKey 0 g, [tokOf g]))
    let c := (s.tile 0).col
    c.mayAct (s.colCyc 0) 272 = true ∧ c.active.arr.pair = false ∧ c.arr.passDone c.active.arr = false ∧ c.active.arr.wld = true ∧ c.active.arr.amode = 1
    ∧ Rising c.arr.b0 ∧ c.arr.lrows < c.active.arr.kstepm1 ∧ c.arrHeads 0 0 4 = some [tokOf 0, tokOf 1, tokOf 2, tokOf 3] ∧ c.active.arr.grouped = false := by
  unfold Rising; decide +kernel

theorem witness_ArraySteps_pass : let s := arrayed { v := true, full := true, cmd := 0xEFFFFFFF#32 } ((List.range 2).map fun g => (aKey 2 g, [tokOf g]))
    let c := (s.tile 0).col
    c.arr.v = true ∧ c.arr.waitsPlane c.active.arr = false ∧ c.arrHeads 2 0 2 = some [tokOf 0, tokOf 1] ∧ c.arr.pipe = [] ∧ c.arr.mrow < c.arr.rows
    ∧ c.arr.isMma = true ∧ c.arr.isOut = true ∧ c.arr.isLoad = true := by decide +kernel

theorem witness_ArraySteps_accr : let s := arrayed { v := true, full := true, cmd := 0xEFFFFFFF#32, mrow := 1 } ((List.range 8).map fun g => (aKey 1 g, [tokOf g]))
    let c := (s.tile 0).col
    c.arr.orow < min c.arr.mrow c.arr.rows ∧ (∀ g, g < 8 → c.roomX (edgeXbox 1 g) 2 1 = true) ∧ c.arrCtlRoom 1 0 = true
    ∧ c.arrHeads 1 0 8 = some ((List.range 8).map tokOf) ∧ c.arr.lrow < c.arr.rows := by decide +kernel

theorem witness_ArraySteps_commit : let s := { arrayed { v := true, full := true, cmd := 0xEFFFFFFF#32, lrow := 1, pipe := [(1, tokOf 1, tokOf 2)] } [] with time := 1000 }
    s.rowReady 0 = true ∧ ((s.tile 0).col.arr.pipe = [(1, tokOf 1, tokOf 2)]) ∧ Rising (s.tile 0).col.arr.acc := by unfold Rising; decide +kernel

/-- Tile 0 with a router that holds one header at an input buffer. -/
def routed (key : Nat) (h : Hdr) : State := { tiled { rt := { ins := [(key, [.head h 0])] } } with time := 5000 }
/-- An answer for tile 1, of no court: it goes by the base die. -/
def toEast : Hdr := { kind := 3, dtile := tileBits 1, stile := tileBits 0, vc := 1 }

theorem witness_FabricMoves : let s := routed 432 toEast
    isNode (.tile 0) = true ∧ isOut (.tile 0) 5 = true ∧ (s.netIf (.tile 0)).txq = [] ∧ (s.offers (.tile 0) 5).length = 1 ∧ s.outUp (.tile 0) 5 = true
    ∧ linkEnd (.tile 0) 5 = some (.die 0, 28) ∧ (routed 433 { toEast with dtile := tileBits 0 }).offers (.tile 0) 6 ≠ []
    ∧ linkEnd (.tile 0) 6 = none := by decide +kernel

theorem witness_FabricMoves_trim : let h : Hdr := { kind := 1, dtile := tileBits 1, stile := tileBits 0, len := 2, crt := 0 }
    let s := routed (16 * 3 + 5) h
    s.routeAt (.tile 0) 3 h = some 5 ∧ ((s.router (.tile 0)).out 5).trimmable h = true ∧ (16 * 3 + 5) % 16 ≠ 2
    ∧ 0 + ((s.router (.tile 0)).out 5).trimth < s.time := by decide +kernel

theorem witness_FabricMoves_ports : isPort 3 23 = true ∧ isPort 0 0 = true ∧ ((died { ports := [(5, { st := 1, fails := [0, 0] })] }).die 0).ports.at 5 {} = { st := 1, fails := [0, 0] }
    ∧ (({ st := 0, replay := [(1, .body [] true)] } : PortLink).replay.length = 1) := by decide +kernel

/-- A write of 32 bytes that has come down to base die s0 on its way to package 1, whose port owes some credits. -/
def toPackage (used resend : Nat) : State :=
  let h : Hdr := { kind := 1, dpkg := 1, dtile := tileBits 0, stile := tileBits 0, len := 1 }
  died { rt := { ins := [(28 * 16 + 4, [.head h 0, .body [] true])] }, ports := [(0, { st := 0, used := [(4, used)], resend := resend, replay := [(4, .body [] true)] })] }

/-- R360: a packet that enters a dimension ring needs credits for two packets of 9 flits; it may also take a pair without an owner. -/
theorem witness_FabricMoves_hop : let s := toPackage 78 0
    (s.netIf (.die 0)).txq = [] ∧ ((s.offers (.die 0) 0).map (·.1)) = [4] ∧ (((toPackage 79 0).offers (.die 0) 0).map (·.1)) = [6]
    ∧ ((s.die 0).ports.at 0 {}).st = 0 ∧ ((s.die 0).ports.at 0 {}).resend = 0 ∧ 0 < (((toPackage 0 1).die 0).ports.at 0 {}).resend := by decide +kernel

/-- R376: a port that resends sends no new flit in that slot; the flit then takes a credit; the partner's acknowledgement and credit give both back. -/
theorem test_port_resend : let u := after (.flitSend (.die 0) 0) (toPackage 0 1)
    let v := after (.flitSend (.die 0) 0) u
    let w := (v.inbound (.ack 0 0 1)).inbound (.credit 0 0 4 1)
    let l := fun (s : State) => (s.die 0).ports.at 0 {}
    ((l u).resend, (l u).replay.length) = (0, 1) ∧ ((l v).replay.length, (l v).used.at 4 0) = (2, 1) ∧ ((l w).replay.length, (l w).used.at 4 0) = (1, 0) := by
  decide +kernel

/-- R376: a flit that comes in enters its VC buffer when its CRC holds and it is the next of its sequence. -/
theorem test_port_receive : let f := Flit.head { kind := 3, dtile := tileBits 0 } 0
    let n := fun (s : State) => ((s.router (.die 0)).ins.at 3 []).length
    let s := toPackage 0 0
    let u := s.inbound (.flit 0 0 3 7 f true)
    n (s.inbound (.flit 0 0 3 7 f false)) = 0 ∧ n u = 1 ∧ n (u.inbound (.flit 0 0 3 9 f true)) = 1 ∧ n (u.inbound (.flit 0 0 3 8 f true)) = 2 := by decide +kernel

/-- A request from tile 1 at tile 0's interface, and its stream's window entry. -/
def asked (h : Hdr) (win : List WinEnt) : State :=
  { tiled { slots := [(0, regs [])], ni := { reqs := [{ h := h }], win := win }, reg := { asid := 3 } } with
    roles := { roles := 0x55555555#32 }, courts := [(0, { v := true, st := 1, w := [] })] }

theorem witness_FabricAnswers : let h : Hdr := { kind := 1, stile := tileBits 1, unit := 0, stream := 2, seq := 9, lowoff := 2, asid := 3, nbm1 := 7, addr := 64 }
    let e : WinEnt := { pkg := 0, tile := tileBits 1, stream := 2, base := 7, mask := 4, perf := 4, used := 0 }
    let s := asked h [e]
    (s.netIf (.tile 0)).reqs = [{ h := h }] ∧ (s.netIf (.tile 0)).win = [e] ∧ e.base = (h.seq + 2 ^ 32 - h.lowoff) % 2 ^ 32 ∧ e.mask.getLsbD 2 = true
    ∧ e.perf.getLsbD 2 = true ∧ h.addr + h.nbm1 + 1 ≤ 2 ^ 22 ∧ ({ e with perf := 0 } : WinEnt).perf.getLsbD 2 = false := by decide +kernel

theorem witness_FabricAnswers_asid : (asked {} []).asidCheck 0 3 = none ∧ (asked {} []).asidCheck 0 4 = some .fail ∧ ((asked {} []).tileCourt 0).isSome = true
    ∧ ((asked {} []).slot 0 0).task.isSome = true := by decide +kernel

theorem witness_FabricAnswers_more : let o : Outst := { h := { stream := 2, seq := 9 }, pay := [], who := .task 0 0 1, sent := 0, busy := none }
    let s : State := { tiled { ni := { outst := [o], rsps := [{ h := { kind := 3, stream := 2, seq := 9 } }] } } with time := 2 ^ 24 }
    (s.netIf (.tile 0)).outst = [o] ∧ o.sent + 2 ^ min 24 (max 16 ((s.netIf (.tile 0)).nictl.extractLsb 4 0).toNat) ≤ s.time ∧ (s.netIf (.tile 0)).rsps.length = 1
    ∧ (s.netIf (.tile 0)).bucket ≠ 0 := by decide +kernel

/-- R371: a request without an answer in time completes UNKNOWN. -/
theorem test_ack_timeout : let o : Outst := { h := { stream := 2, seq := 9 }, pay := [], who := .task 0 0 1, sent := 0, busy := none }
    ((after (.ackTimeout (.tile 0) 0) { tiled { ni := { outst := [o] } } with time := 2 ^ 24 }).tile 0).wdone = [(0, 1, ⟨.unknown, []⟩)] := by decide +kernel

/-! ## Witnesses: launches, courts, roles, bring-up and the step -/

/-- A package in its run phase with every layer a compute layer. -/
def pack : State := { pkg := { rstn := true, phase := 6 }, roles := { roles := 0x55555555#32 }, time := 20000 }
/-- The same with court 3, of one tile, which an address space with one valid range may use. -/
def oneCourt (st : Nat) : State :=
  { pack with courts := [(3, { v := true, st := st, w := [(4, 6), (5, 6)], eqrem := 1000000 })], ranges := [(0, 1#256 <<< 63)] }
/-- The same with an entry 5 of the launch table. -/
def entered (st : Nat) (en : Entry) : State := { oneCourt st with entries := [(5, en)] }
/-- The same with a packet at the head of LQ. -/
def packet (s : State) (ws : List Word) : State := { s with ngambi := { lq := [ws] } }
/-- Word 0 of a packet of a kind for court 3. -/
def kindFor (k : Nat) : Word := BitVec.ofNat 64 (k + 3 * 2 ^ 32)

theorem witness_PacketsHandled : pack.pkg.phase = 6 ∧ pack.pkg.fatal = false ∧ (pack.die 0).ni.canSend 53 64 = true ∧ pack.ngambi.lq.length < 64
    ∧ ({ pack with pkg := { phase := 4 } } : State).pkg.phase < 5 := by decide +kernel

/-- A valid entry of a range table: base 0, 1 MiB, of HBM from p on, for reading and writing. -/
def hbmRange (p : Nat) : BitVec 256 := BitVec.ofNat 256 (2 ^ 63 + 2 ^ 61 + 2 ^ 60 + 2 ^ 84 + p * 2 ^ 128)

theorem witness_PacketsHandled_host : let s := { pack with ranges := [(3 * 64, hbmRange 0x4000)] }
    s.translate none 3 0x40 8 .read = .ok (.hbm 0x4040) ∧ (s.die 0).ni.canSend 53 64 = true ∧ 0x40 % 64 + 8 ≤ 64 ∧ 0x4040 % 64 + 8 ≤ 64 := by decide +kernel

theorem witness_PacketsHandled_refused : let p : PostReq := { from_ := .host, words := [kindFor 9] }
    (packet (oneCourt 0) [kindFor 9]).packetStatus p = 1 ∧ (packet (oneCourt 0) [kindFor 9]).hostWrites = false := by decide +kernel

theorem witness_PacketsHandled_post : let p : PostReq := { from_ := .host, words := [kindFor 1] }
    let s := packet (oneCourt 0) [kindFor 1]
    p.kind = 1 ∧ s.packetStatus p = 0 ∧ s.freeEntry = some 0 ∧ p.preds = [] := by decide +kernel

theorem witness_PacketsHandled_pred : let p : PostReq := { from_ := .host, words := [kindFor (1 + 2 ^ 8), 0, 0, 0x2005] }
    let s := { packet (entered 0 { st := 1, gen := 2 }) p.words with dispQ := [] }
    p.kind = 1 ∧ s.packetStatus p = 0 ∧ s.freeEntry = some 0 ∧ p.preds = [0x2005] ∧ (s.entry 5).gen = 0x2005 / 2 ^ 12 := by decide +kernel

theorem witness_PacketsHandled_abort : let p : PostReq := { from_ := .host, words := [2, 0, 0x2005] }
    let s := packet (entered 1 { st := 3, gen := 2 }) p.words
    p.kind = 2 ∧ s.packetStatus p = 0 ∧ (s.entry 5).aborting = false := by decide +kernel

theorem witness_PacketsHandled_cancel : let p : PostReq := { from_ := .host, words := [3, 0, 0x2005] }
    let s := packet (entered 1 { st := 2, gen := 2 }) p.words
    p.kind = 3 ∧ s.packetStatus p = 0 ∧ (s.entry 5).succ = [] := by decide +kernel

theorem witness_PacketsHandled_preempt : let p : PostReq := { from_ := .host, words := [kindFor 4] }
    let s := packet (oneCourt 1) p.words
    p.kind = 4 ∧ s.packetStatus p = 0 ∧ (s.court 3).st = 1 ∧ (s.court 3).v = true ∧ (s.court 3).stop = none := by decide +kernel

theorem witness_PacketsHandled_resume : let p : PostReq := { from_ := .host, words := [kindFor 5] }
    let s := packet (oneCourt 0) p.words
    p.kind = 5 ∧ s.packetStatus p = 0 ∧ s.resumeOk 0 3 = false := by decide +kernel

theorem witness_PacketsHandled_task : let p : PostReq := { from_ := .task 0 2, words := [1], came := 7 }
    let sl : Slot := { task := some { entry := 0, hold := .launch 7 0 [] }, sr := { priv := true } }
    let s := { oneCourt 0 with dispQ := [p], tiles := [(0, { slots := [(2, sl)] })] }
    p.kind = 1 ∧ s.packetStatus p = 3 ∧ p.came ≠ s.time ∧ s.ngambi.lq = []
    ∧ { s with courts := [(0, { v := true })] }.packetStatus p = 0 ∧ { s with courts := [(0, { v := true })] }.freeEntry = some 0 := by decide +kernel

/-- The least image: one instruction, padded to 16 bytes; word 4 holds its check code (R424). -/
def leastHdr : List Word := [0x14B573954, 4, 0x400000, 0, BitVec.ofNat 64 0x4AA1F9F6, 0, 0, 0]
/-- Its bytes. -/
def leastImg : List Byte := leastHdr.flatMap (fun w => toBytes 8 w.toNat) ++ [0, 0, 0, 4] ++ List.replicate 12 0
/-- An entry of court 3, with NOTIFY, that has the image at virtual address 0 for its first tile. -/
def running (st : Nat) (started : Bool) (imgs : AMap ImgInfo) (placed : List Placed) : Entry :=
  { w := [(0, kindFor (1 + 2 ^ 12 + 2 ^ 20)), (5, 0), (6, 1)], st := st, placed := placed, started := started, imgs := imgs, live := if started then 1 else 0 }
/-- The one place of the launch. -/
def place0 : Placed := { tile := 0, slot := 2, img := 0, base := 0x1000, spill := 0 }
/-- Such an entry where the image stands in HBM at 0x4000. -/
def imaged (st : Nat) (started : Bool) (imgs : AMap ImgInfo) (placed : List Placed) (c : Nat) : State :=
  { entered c (running st started imgs placed) with
    ranges := [(0, hbmRange 0x4000)], mem := (List.range 80).filterMap fun k => if leastImg.getD k 0 = 0 then none else some (hbmBase + 0x4000 + k, leastImg.getD k 0) }

theorem witness_LaunchesRun : let s := entered 0 { st := 2, w := [(0, kindFor (1 + 2 ^ 20))] }
    s.boundary < s.time / 5000 ∧ s.entries = [(5, s.entry 5)] ∧ s.courts = [((s.entry 5).courtNo, s.court (s.entry 5).courtNo)] ∧ (s.entry 5).readyAt < (s.boundary + 1) * 5000
    ∧ (s.entry 5).eclass < 4 ∧ (s.entry 5).nimg = 0 ∧ (s.court 3).denies ((s.entry 5).word 0) ((s.entry 5).word 1) = false
    ∧ (s.court 3).denies ((s.entry 5).word 0) (2000 * 2 ^ 32) = true ∧ ((s.entry 5).word 0).getLsbD 20 = true := by decide +kernel

theorem witness_LaunchesRun_dispatch : let s := imaged 2 false [(0, { hdr := leastHdr, ok := true, readAt := 9 })] [] 0
    (s.entry 5).nimg = 1 ∧ s.placeable 3 = true ∧ s.roomForAll (s.entry 5) = some [{ tile := 0, slot := 0, img := 0, base := 0x1000, spill := 0 }]
    ∧ { s with roles := {} }.placeable 3 = false := by decide +kernel

theorem witness_LaunchesRun_header : let s := imaged 2 false [] [] 0
    (s.dispRead (s.court 3) 0 64 0 64).2 = .done ((leastImg.take 64).map fun b => { val := b }) ∧ imgHeaderOk leastHdr = true
    ∧ wordsOf (leastImg.take 64) 8 = leastHdr ∧ imgHeaderOk (List.replicate 8 0) = false := by decide +kernel

theorem witness_LaunchesRun_image : let s := imaged 3 false [(0, { hdr := leastHdr, ok := true, readAt := 9 })] [place0] 1
    imgSize leastHdr = 80 ∧ (s.dispRead (s.court 3) 0 80 0 80).2 = .done (leastImg.map fun b => { val := b }) ∧ imgWholeOk leastHdr leastImg = true
    ∧ wordsOf leastImg 8 = leastHdr ∧ (s.dispRead (s.court 3) 0 80 0 80).1.mem.wf = true ∧ imgWholeOk leastHdr (leastImg.set 64 1) = false := by decide +kernel

theorem witness_LaunchesRun_start : let s := imaged 3 false [(0, { hdr := leastHdr, ok := true, readAt := 9, placed := true })] [place0] 1
    let en := s.entry 5
    en.st = 3 ∧ en.started = false ∧ en.aborting = false ∧ (∀ i, i < en.nimg → (en.imgs.at i {}).placed = true) ∧ en.placed = [place0] := by decide +kernel

theorem witness_LaunchesRun_end : let s := { imaged 3 true [] [place0] 1 with entries := [(5, { running 3 true [] [place0] with live := 0, succ := [0x2006] }), (6, { st := 1, gen := 2, predcnt := 1 })] }
    (s.entry 5).live = 0 ∧ s.engineDone 5 = true ∧ (s.entry 5).started = true ∧ ((s.entry 5).word 0).getLsbD 20 = true ∧ (s.entry 6).predcnt = 1 := by decide +kernel

theorem witness_LaunchesRun_abort : let s := { imaged 3 true [] [place0] 1 with
      entries := [(5, { running 3 true [] [place0] with aborting := true })], tiles := [(0, { slots := [(2, { task := some { entry := 5 } })] })] }
    (s.entry 5).aborting = true ∧ ((s.entry 5).tiles.all fun t => (s.tile t).abortQuiet 5) = true ∧ 0 ∈ (s.entry 5).tiles ∧ (s.slot 0 2).task = some { entry := 5 } := by
  decide +kernel

/-- R78: a task starts at base + ENTRY with s1 = ARG, s2 = its place in the court and s3 = its slot. -/
theorem test_task_start : let s := after (.taskStart 5) (imaged 3 false [(0, { hdr := leastHdr, ok := true, readAt := 9, placed := true })] [place0] 1)
    (s.slot 0 2).rf.pc = 0x1000#32 ∧ (s.slot 0 2).rf.get 3 = { val := 2 } ∧ (s.slot 0 2).live = true := by decide +kernel

/-- R425: the code of an image stands at its base. -/
theorem test_image_placed : let s := after (.imageReadComplete 5 0) (imaged 3 false [(0, { hdr := leastHdr, ok := true, readAt := 9 })] [place0] 1)
    s.mem.get (istoreKey 0 0x1003) = 4 := by decide +kernel

theorem witness_CourtStops : let s := oneCourt 1
    (s.court 3).v = true ∧ (s.court 3).st = 1 ∧ (s.court 3).stop = none ∧ (s.entries.all fun x => !(x.2.aborting && x.2.st == 3 && x.2.courtNo == 3)) = true
    ∧ (s.court 3).tiles = [0] ∧ ((oneCourt 0).court 3).st ≠ 1 := by decide +kernel

theorem witness_CourtStops_drain : let s := { tiled { stopAt := some 5, stopCyc := 3, col := { rally := some { t0 := 0, drain := true } } } with time := 32774 }
    (s.tile 0).stopAt = some 5 ∧ (s.tile 0).stopCyc + 16384 ≤ (s.tile 0).cyc 1 s.time ∧ ({ s with time := 32773 }.tile 0).cyc 1 32773 < (s.tile 0).stopCyc + 16384 := by decide +kernel

/-- A court whose stop is at a phase. -/
def halting (st phase : Nat) : State :=
  { oneCourt st with courts := [(3, { v := true, st := st, w := [(4, 6), (5, 6)], stop := some { reason := 1, asked := 5, phase := phase, began := 6 } })] }

theorem witness_CourtStops_save : let s := { halting 2 2 with tiles := [(0, { stopAt := some 6 })], entries := [(5, running 3 true [] [place0])] }
    s.courtQuiet 3 = true ∧ (s.court 3).saveAt + (s.court 3).areaLen ≤ 2 ^ 39 ∧ s.mem.wf = true ∧ s.courtLaunches 3 = [5]
    ∧ s.courts = [(3, s.court 3)] ∧ (s.courtLaunches 3).Nodup := by decide +kernel

theorem witness_CourtStops_end : let c : Court := { v := true, st := 2, w := [(3, BitVec.ofNat 64 (2 ^ 39 - 2 ^ 16))], stop := some { reason := 1, asked := 5, phase := 2, began := 6 } }
    let s := { halting 2 2 with courts := [(3, c)], tiles := [(0, { stopAt := some 6 })] }
    s.courtQuiet 3 = true ∧ 2 ^ 39 < (s.court 3).saveAt + (s.court 3).areaLen := by decide +kernel

theorem witness_CourtStops_release : (((halting 2 3).court 3).stop.map (·.phase)) = some 3 ∧ ((halting 2 2).court 3).stop = some { reason := 1, asked := 5, phase := 2, began := 6 } := by decide +kernel

/-- A command with its staging words in the court command interface. -/
def ordered (s : State) (cmd : Nat) (ws : List Word) : State :=
  { s with cport := { busy := true, cmd := BitVec.ofNat 64 cmd, copy := (List.range ws.length).map fun i => (i, ws.getD i 0) } }
/-- The words of a court with nothing but its ring sizes. -/
def plainCourt : List Word := [0, 0, 0, 0, 6, 6, 0, 0, 0]
/-- The court that they make. -/
def courtBy (ws : List Word) : Court := { w := (List.range 9).map fun i => (i, ws.getD i 0) }

theorem witness_CourtCommands : ((ordered pack 0x31 plainCourt).cport.busy = true ∧ (ordered pack 0x31 plainCourt).cport.cmd.extractLsb 3 0 = 1#4)
    ∧ ((ordered pack 0x31 plainCourt).court 3).v = false ∧ (courtBy plainCourt).badField = false ∧ (courtBy plainCourt).badLimit = false
    ∧ (courtBy (List.replicate 9 0)).badField = true ∧ 5 < (courtBy [0x60000000000#64 ||| (1#64 <<< 34)]).orgRow + (courtBy [0x60000000000#64 ||| (1#64 <<< 34)]).rowsM1
    ∧ pack.cport.busy = false := by decide +kernel

theorem witness_CourtCommands_create : let ws : List Word := [2 ^ 62 + 2 ^ 61, 0, 0, 0, 6, 6, 0, 0, 0x10000]
    (courtBy ws).badField = false ∧ (courtBy ws).badLimit = true := by decide +kernel

theorem witness_CourtCommands_destroy : ((ordered (oneCourt 0) 0x32 []).court 3).v = true ∧ ((ordered (oneCourt 0) 0x32 []).court 3).st = 0 ∧ ((oneCourt 1).court 3).st ≠ 0
    ∧ (ordered (oneCourt 0) 0x32 []).cport.cmd.extractLsb 3 0 = 2#4 ∧ (5, running 2 false [] []) ∈ (entered 0 (running 2 false [] [])).entries
    ∧ (running 2 false [] []).courtNo = 3 := by decide +kernel

theorem witness_CourtCommands_grant : let s := ordered (oneCourt 1) 0x33 [0, 100]
    s.cport.cmd.extractLsb 3 0 = 3#4 ∧ (s.court 3).v = true ∧ (s.cport.copy.at 1 0).extractLsb 31 25 = 0#7 ∧ (s.court 3).badLock 100 = false
    ∧ (courtBy [2 ^ 61, 0, 0, 0, 6, 6, 0, 0, 0]).badLock 0 = true ∧ 0 ∈ (s.court 3).tiles ∧ ((2 : Word) ^ 25).extractLsb 31 25 ≠ 0#7 := by decide +kernel

theorem witness_CourtCommands_preempt : let s := ordered (oneCourt 1) 0x34 []
    s.cport.cmd.extractLsb 3 0 = 4#4 ∧ (s.court 3).st = 1 ∧ (s.court 3).stop = none ∧ 0 ∈ (s.court 3).tiles := by decide +kernel

/-- Staging words of a range table entry. -/
def fourWords (e : BitVec 256) : List Word := [e.extractLsb' 0 64, e.extractLsb' 64 64, e.extractLsb' 128 64, e.extractLsb' 192 64]

theorem witness_CourtCommands_rwrite : let s := { ordered pack (5 + 7 * 2 ^ 10 + 2 ^ 21) (fourWords (hbmRange 0x4000)) with ranges := [(7 * 64 + 2, hbmRange 0)] }
    let e := hbmRange 0x4000
    s.cport.cmd.extractLsb 3 0 = 5#4 ∧ (s.cport.cmd.extractLsb 20 10).toNat = 7 ∧ (s.cport.cmd.extractLsb 26 21).toNat = 1
    ∧ s.cport.copy.at 3 0 ++ s.cport.copy.at 2 0 ++ s.cport.copy.at 1 0 ++ s.cport.copy.at 0 0 = e
    ∧ e.getLsbD 63 = true ∧ rgBase e % 64 = 0 ∧ rgLen e % 64 = 0 ∧ 0 < rgLen e ∧ rgBase e + rgLen e ≤ 2 ^ 56 ∧ rgV (s.range 7 2) = true
    ∧ rgBase e < rgBase (s.range 7 2) + rgLen (s.range 7 2) ∧ rgBase (s.range 7 2) < rgBase e + rgLen e
    ∧ { s with ranges := [] }.rangeRefused 7 1 e = none ∧ rgMig (hbmRange 0) = false := by decide +kernel

theorem witness_CourtCommands_layer : let e : BitVec 256 := BitVec.ofNat 256 (2 ^ 63 + 3 * 2 ^ 125 + 2 ^ 242)
    e.getLsbD 63 = true ∧ rgTgt e = 3 ∧ rgTstk e = 1 ∧ (hbmRange 0).getLsbD 63 = true ∧ rgLen e = 0 := by decide +kernel

theorem witness_CourtCommands_rclear : let s := { ordered pack (5 + 7 * 2 ^ 10 + 2 ^ 21) [] with ranges := [(7 * 64 + 1, hbmRange 0)] }
    (s.range 7 1).getLsbD 63 = true ∧ rgMig (s.range 7 1) = false ∧ s.cport.copy.at 0 0 = 0 ∧ Rising s.ranges := by unfold Rising; decide +kernel

theorem witness_CourtCommands_attest : let s := ordered (oneCourt 1) 0x36 [0x40, 0x1000]
    s.cport.cmd.extractLsb 3 0 = 6#4 ∧ (s.court 3).v = true ∧ 0x1000 % 64 = 0 ∧ 0x1000 + 0x1C0 + 4627 ≤ 2 ^ 39 ∧ s.mem.wf = true := by decide +kernel

theorem witness_CourtCommands_tails : let c := (oneCourt 1).court 3
    (c.frhead + 2 ^ 32 - (2 ^ 32 - 64)) % 2 ^ 32 ≤ 2 ^ ((c.word 4).extractLsb 4 0).toNat ∧ ¬ (c.frhead + 2 ^ 32 - 1) % 2 ^ 32 ≤ 2 ^ ((c.word 4).extractLsb 4 0).toNat
    ∧ (c.dlhead + 2 ^ 32 - 0) % 2 ^ 32 ≤ 2 ^ ((c.word 5).extractLsb 4 0).toNat := by decide +kernel

/-- R432: a destroyed court is invalid. -/
theorem test_destroy : ((after .destroy (ordered (oneCourt 0) 0x32 [])).court 3).v = false := by decide +kernel

/-- A role change at a step: layer 0 of stack 0 becomes memory. -/
def changing (step : Nat) : State := { pack with roles := { roles := 0x55555555#32, rrole := 2, busy := true, step := step, newRoles := 0x55555556#32 } }

theorem witness_RoleSteps : (changing 1).held = false ∧ (changing 1).pkg.phase ≠ 5 ∧ (changing 1).roles.closing = false ∧ (changing 1).roles.permits 3 = false
    ∧ { (changing 1).roles with tpcnt := 1, tpat := [(0, 0x56#32)] }.busy = true ∧ (changing 1).roleCourts = [] ∧ pack.roles.busy = false := by decide +kernel

theorem witness_RoleSteps_flush : let e : BitVec 256 := BitVec.ofNat 256 (2 ^ 63 + 8 * 2 ^ 64 + 3 * 2 ^ 125 + 2 ^ 232 + 0x1000 * 2 ^ 192)
    let s := { changing 2 with roles := { (changing 2).roles with roles := 0x55555556#32 }, ranges := [(0, e)], mem := [(scratchKey 0 0, 9)] }
    rgV e = true ∧ rgTgt e = 3 ∧ rgTstk e = s.roles.rstk ∧ rgWb e = true ∧ rgLen e = 8 ∧ rgToff e % 4096 + rgLen e ≤ 4096 ∧ s.layerAt 0 0 = some (0, 0)
    ∧ s.mem.wf = true ∧ rgWbaddr e = 0x1000 := by decide +kernel

theorem witness_RoleSteps_gate : let s := changing 3
    roleIn s.roles.roles.toNat (tileStk 0) (tileLyr 0) = 1 ∧ roleIn s.roles.newRoles.toNat (tileStk 0) (tileLyr 0) = 2 ∧ tileStk 0 = s.roles.rstk
    ∧ roleIn s.roles.roles.toNat (tileStk 767) (tileLyr 767) = roleIn s.roles.newRoles.toNat (tileStk 767) (tileLyr 767) ∧ s.mem.wf = true := by decide +kernel

theorem witness_RoleSteps_check : (∀ y, y < 16 → (0xFFFF#16).getLsbD y = decide (roleIn (changing 5).roles.roles.toNat (y / 4) (y % 4) ≠ 0))
    ∧ (0x7FFF#16).getLsbD 15 ≠ decide (roleIn (changing 5).roles.roles.toNat 3 3 ≠ 0) ∧ (changing 6).roles.step = 6 ∧ (changing 4).roles.step = 4 := by decide +kernel

theorem witness_OutsideEvents : MayIssue job ∧ job.cur.rf.pc.toNat ≤ 0x3FFFC ∧ job.hard.contains (istoreKey job.focusT (job.cur.rf.pc.toNat / 8 * 8)) = false
    ∧ MayIssue (one { rf := { pc := 0x40000#32 }, task := some { entry := 0 } }) := by unfold MayIssue; decide +kernel

theorem witness_OutsideEvents_marks : ({ hard := [spillKey 767 (8 * 8191)] } : State).hard.contains (spillKey 767 (8 * 8191)) = true
    ∧ ({} : State).hard.contains (scratchKey 0 (8 * 524287)) = false ∧ ({ soft := [8] } : State).soft.Pairwise (· < ·) := by decide +kernel

theorem witness_OutsideEvents_power : let s := { oneCourt 1 with powerAt := 7 }
    2500 * (s.powerAt + 1) ≤ s.time ∧ s.courts = [(3, s.court 3)] ∧ (s.court 3).v = true ∧ (s.court 3).st = 1 ∧ 0 ∈ (s.court 3).tiles ∧ (s.court 3).tiles.Nodup
    ∧ ({ s with time := 19999 } : State).time < 2500 * (s.powerAt + 1) := by decide +kernel

theorem witness_RegisterWrites : pack.held = false ∧ State.reset.held = true ∧ (1#64 <<< 44).getLsbD 44 = true ∧ (0xC0#64).extractLsb 7 0 ≠ 0#8 ∧ (0x100#64).extractLsb 7 0 = 0#8
    ∧ (ordered pack 1 []).cport.busy = true ∧ pack.cport.busy = false ∧ (6#64).extractLsb 63 27 = 0#37 ∧ (6#64).extractLsb 3 0 = 6#4 ∧ (7#64).extractLsb 3 0 = 7#4
    ∧ pack.roles.busy = false ∧ (1#64).extractLsb 2 0 = 1#3 ∧ pack.roles.closing = false ∧ pack.mem.wf = true := by decide +kernel

/-- A package in a phase of its bring-up. -/
def rising (n : Nat) : State := { pkg := { rstn := true, phase := n } }

theorem witness_BringUp : (rising 1).pkg.rstn = true ∧ (rising 1).pkg.fatal = false ∧ State.reset.pkg.rstn = false ∧ State.reset.pkg.fatal = false ∧ State.reset.pkg.thermtrip = false
    ∧ (rising 2).pkg.phase = 2 ∧ (0xFE#8).getLsbD 0 = false ∧ (∀ i, i < 8 → [1, 2, 3, 4, 5, 6, 7, 8].getD i 0 ≠ 0) ∧ (rising 2).pkg.fail = 0 := by decide +kernel

theorem witness_BringUp_ports : let s := { rising 4 with dies := [(0, { ports := [(0, { st := 2 })] })], time := 250000000 }
    ((s.die 0).ports.at 0 {}).st = 2 ∧ partnerOk 0 0 0 { package := 0x001#12, dir := 1, port := 0 } = true
    ∧ partnerOk 0 0 0 { package := 0x001#12, dir := 0, port := 0 } = false ∧ s.pkg.msAt + 250000000 ≤ s.time ∧ s.portsDone = false
    ∧ (rising 4).portsDone = true ∧ (rising 5).roles.busy = false ∧ (rising 5).roles.closing = false := by decide +kernel

/-- A state whose slot 0 of tile 0 is to issue the word of ADD s0,s0,s0 at 0x1000. -/
def turned : State := State.reset.withFetchWord 32 0x04000000

theorem witness_StepRunsDecoded : let s1 := { turned.advance 1 with evTurn := true, evNo := 0 }
    turned.agenda = [] ∧ turned.evTurn = false ∧ s1.pickIssue = some (0, 0) ∧ (turned.slot 0 0).rf.pc.toNat ≤ 0x3FFFC
    ∧ decode (turned.mem.read (istoreKey 0 0x1000) 4) = .ok (.add 0 0 0 0, []) ∧ turned.hard.contains (istoreKey 0 0x1000) = false := by decide +kernel

theorem witness_StepTurns : isEvent .packageReset = true ∧ ({ State.reset with agenda := [⟨5, some .packageReset, none⟩] } : State).agenda = ⟨5, some .packageReset, none⟩ :: []
    ∧ ({ State.reset with evTurn := true } : State).evTurn = true ∧ ({ State.reset with evTurn := true } : State).nextEvent.isNone = true
    ∧ ({ State.reset with evTurn := true, time := 5000 } : State).nextEvent.isSome = true
    ∧ ({ State.reset.advance 1 with evTurn := true, evNo := 0 } : State).pickIssue = none := by decide +kernel

theorem witness_DecodeOfEncode : Instr.wf (.add 10 5 6 7) = true ∧ encode (.add 10 5 6 7) = some 0x06851870#32 ∧ decodeWord 0x06851870#32 = .ok (.add 10 5 6 7) := by
  decide +kernel

theorem witness_MemoryStays : State.reset.mem.wf = true ∧ (match step turned with | .next u => u.mem.wf | _ => false) = true := by decide +kernel

/-- A court that was saved and released: its launch is SAVED and its area stands at HBM address 0. -/
def savedCourt : State :=
  after .preemptRelease (after (.scanOut 3) { halting 2 2 with tiles := [(0, { stopAt := some 6 })], entries := [(5, running 3 true [] [place0])] })

theorem witness_PacketsHandled_resumed : let s := savedCourt
    s.resumeOk 0 3 = true ∧ (s.court 3).tiles = [0] ∧ (s.areaLaunches 0) = [5] ∧ s.mem.wf = true ∧ s.liveImages (s.sectionMap (hbmBase + 0 + 0x10000)) 0 = [] := by
  decide +kernel

theorem witness_CellIntegers : (0 < 8 ∧ 8 ≤ 32) ∧ (0 < 32 ∧ 32 ≤ 32) ∧ (1 ≤ 18 ∧ 18 ≤ 18) ∧ 2 < 3 ∧ (0 : Nat) % 4 = 0 ∧ 7 % 4 = 3 ∧ 5 % 8 < 6 ∧ 3 < 32 / 8 ∧ 0 < 32 / 32 := by decide

theorem witness_EncodeOfDecode : decodeWord 0x8C0913FD#32 = .ok (.ldd 0 9 4 0x3FD) ∧ Instr.wf (.ldd 0 9 4 0x3FD) = true ∧ encode (.ldd 0 9 4 0x3FD) = some 0x8C0913FD#32 := by
  decide +kernel

theorem witness_FormsComplete : let s := one (regs [(5, 0x400008), (6, 3)])
    Stays s ∧ (s.reg 5).toNat = 0x400000 + 8 * 1 ∧ s.cur.accs = [] ∧ s.cur.task.map (·.ending) = some false ∧ s.curTile.tccReq.length < 4 ∧ Clean s [5, 6, 7]
    ∧ Runs s { g := 0, rd := [5, 6, 7], wr := [7], cls := .amo } ∧ Runs s { g := 0, rd := [5, 6], cls := .post } ∧ Runs s { g := 0, rd := [5], cls := .bwait }
    ∧ s.reg 6 ≠ 0 ∧ (s.reg 6).toNat < 2 ^ 47 ∧ Runs s { g := 0 } ∧ s.curTile.colq ++ s.curTile.cpyq = [] := by
  unfold Runs MayIssue Guarded Free Clean Stays; decide +kernel

/-- R454: the answer of a counter that is posted and 0 ends a BWAIT. -/
theorem test_bwait_ends : let u := after (.bwait 0 5) (one (regs [(5, 0x400008)]))
    let v := u.deliverTask 0 0 0 ⟨.ok, (toBytes 8 (2 ^ 63)).map fun b => { val := b }⟩
    u.cur.rf.pc = 0x1000#32 ∧ v.cur.rf.pc = 0x1004#32 ∧ v.cur.accs = [] ∧ v.cur.task.map (·.hold) = some .none := by decide +kernel

theorem witness_FormsComplete_fabric : let s := routed 432 toEast
    (s.router (.tile 0)).ins = [(432, [.head toEast 0])] ∧ s.takesFlit (.die 0) 28 = true ∧ s.routeAt (.tile 0) 27 toEast = some 5 ∧ linkEnd (.tile 0) 5 = some (.die 0, 28)
    ∧ (s.netIf (.tile 0)).txq = [] ∧ ((s.router (.tile 0)).out 5).lock = []
    ∧ (s.router (.die 0)).ins.at (28 * 16 + ((s.router (.tile 0)).out 5).vcFor toEast) [] = [] := by decide +kernel

theorem witness_FormsComplete_ports : let l := fun st => ((died { ports := [(5, { st := st, replay := [(1, .body [] true)] })] }).die 0).ports.at 5 {}
    (l 0).st = 0 ∧ 0 < (l 0).replay.length ∧ (l 1).st = 1 ∧ (l 1).fails = [] ∧ (l 0).lanes ≠ 1 ∧ ((died { ports := [(5, {})] }).die 0).rt.outs = [] := by decide +kernel

/-! ## Witnesses: boundary values of further clauses -/

/-- A LOOP of count zero whose body ends at the last word of the store. -/
theorem witness_ControlTraps_zero : let s := one { regs [] with rf := { pc := 0x3FFF8#32 } }
    Runs s { g := 0, rd := [5] } ∧ Clean s [5] ∧ s.reg 5 = 0 ∧ s.cur.rf.pc.toNat + 4 * (1#10 : BitVec 10).toNat = 0x3FFFC ∧ s.cur.outstanding = false
    ∧ s.cur.task.isSome = true := by unfold Runs MayIssue Guarded Free Clean; decide +kernel

theorem witness_FpOrderAndRounding_finite : isFinite 0x3FF000000#36 = true ∧ isFinite 0xBFE800000#36 = true ∧ isFinite 0x800000000#36 = true ∧ isZero 0x3FF000000#36 = false
    ∧ (0x3FF000000#36 : W36).getLsbD 35 = false ∧ (0x3F800000 / 2 ^ 23) % 2 ^ 8 ≠ 255 ∧ (5 : Nat) < 2 ^ (8 - 2 - 1)
    ∧ w36Mag (taperedToW36 8 1 1).1 ≤ w36Mag 0x3FF000000#36 ∧ w36Mag 0x3FF000000#36 ≤ w36Mag (taperedToW36 8 1 0x7F).1 ∧ w36Mag (taperedToW36 8 1 0x40).1 = w36Mag 0x3FF000000#36
    ∧ 0 < w36Mag 0x001000000#36 ∧ w36Mag 0x001000000#36 < w36Mag (taperedToW36 16 1 1).1 ∧ w36Mag (taperedToW36 16 1 0x7FFF).1 < w36Mag 0x7FE000000#36 := by decide +kernel

theorem witness_Fences_send : let s := one { regs [] with accs := [{ k := 1, kind := .send, window := true, ea := 0 }] }
    Runs s { g := 0 } ∧ Stays s ∧ s.cur.accs ≠ [] ∧ (s.cur.accs.filter fun a => a.kind != .send) = [] := by
  unfold Runs MayIssue Guarded Free Stays; decide +kernel

/-- A tile of court 3, whose ring has room for four records. -/
def ringed : State := { tiles := [(0, { reg := { court := 3 } })], courts := [(3, { v := true, w := [(4, 0x1002#64)] })], entries := [(7, { st := 3 })] }
/-- A fault of the collar, and a late one of a task, of one launch. -/
def twoFaults : FaultRec × FaultRec :=
  ({ cause := 9, kind := 2, slot := 0, eng := 0, unit := 5, crt := 0, launch := 7, tval := 1, w2 := 2, w3 := 3 },
   { cause := 8, kind := 0, slot := 4, eng := 0, crt := 0, launch := 7, tval := 1, w2 := 2, w3 := 3 })

theorem witness_TrapEntryAndRecords_two : let k := ringed.court (courtCrt (ringed.tile 0).reg.court)
    k.v = true ∧ k.frhead + 1 < 2 ^ 32 ∧ (k.frhead + 1 + 2 ^ 32 - k.frtail) % 2 ^ 32 < 2 ^ ((k.w.at 4 0).extractLsb 4 0).toNat ∧ (ringed.tile 0).posted = []
    ∧ twoFaults.2.rank < twoFaults.1.rank ∧ twoFaults.1.launch = twoFaults.2.launch ∧ (ringed.entry 7).cause = 0 ∧ ringed.mem.wf = true := by decide +kernel

/-- R384: the task's record comes first although the collar's was posted first. -/
theorem test_record_order : let u := (ringed.postTileFault 0 twoFaults.1).postTileFault 0 twoFaults.2
    u.mem.get (hbmBase + 0x1000 + 7) = 8 ∧ u.mem.get (hbmBase + 0x1040 + 7) = 9 ∧ (u.entry 7).cause = 8 := by decide +kernel

theorem witness_LaunchAndDepdone_waits : let s : State := { one (regs [(5, 0x3005)]) with entries := [(5, { st := 1, gen := 3, extcnt := 1 })], dispQ := [{ from_ := .host, words := [] }] }
    Clean s [5] ∧ Runs s { g := 0, rd := [5], cls := .depdone } ∧ (s.reg 5).extractLsb 63 16 = 0#48 ∧ s.dispQ ≠ [] := by
  unfold Runs MayIssue Guarded Free Clean; decide +kernel

theorem witness_CommandsStart_cstop : let c := command 5 0 1 0
    let x := colWith c { rally := some { t0 := 0, whistle := some 38 } } []
    x.nextCmd 1 = some c ∧ (tiled x).condition 0 1 c = true ∧ c.pops 1 = [] ∧ c.valuesOk = true ∧ c.cmd = 5 ∧ x.col.rallyRuns = true ∧ c.a.getLsbD 0 = true := by
  decide +kernel

theorem witness_CommandsWork_part : let c : Cmd := { command 1 0 0 8 with st := 1 }
    let s : State := { tiled (colWith c { deck := [], dv := true, av := true } []) with mem := context patchFrames }
    s.soft = [] ∧ (match s.partImage 0 0 with
       | .ok im => ((s.tile 0).col.deck.patch im).partBad im (courtPairH (s.tile 0).reg.court) (s.eastHalf 0) == none
       | .error _ => false) = true := by decide +kernel

theorem witness_Whistle_abort : let s := rallying { t0 := 0, whistle := some 32, recAt := some 64, recStep := 3, abort := true }
    (s.tile 0).col.rally = some { t0 := 0, whistle := some 32, recAt := some 64, recStep := 3, abort := true } := by decide +kernel

/-- A COPY that runs, with two requests for one chunk, the first of which stands at its bank. -/
def copying (w : Bool) : State :=
  let q : CopyReq := { k := 5, chunk := some 3, wr := w, off := 4, len := 2, addr := 0, data := if w then [{ val := 1 }, { val := 2, en := false }] else [], st := 1 }
  let run : CopyRun := { uid := 1, set := {}, next := 100000, reqs := [q, { q with k := 6, off := 6, data := [] }], chunks := [{ k := 3, first := 0, count := 8, written := w, raw := List.replicate 16 {} }] }
  { tiled { cpyReq := [{ who := .copy 0 5, off := 0, op := if w then .write q.data none else .read 2 }], copies := [run], cpyq := [{ command 2 0 0 0 with st := 1 }] } with time := 14 }

theorem witness_BankGrants_copy : ∀ w ∈ [false, true], let x := (copying w).tile 0
    x.copyFor 0 = x.cpyReq.head?.map (fun r => (.copy 0, r)) ∧ x.cpyReq.length = 1 ∧ x.cyc 1 (copying w).time % 8 = 7 ∧ x.bankAt.at 0 0 ≠ x.cyc 1 (copying w).time + 1
    ∧ (x.copies.all fun c => !c.killed && decide (c.set.total ≤ c.next) && (c.reqs.map fun q => (q.k, q.st, q.chunk, q.wr, q.isMeta, q.skip, q.tag)) == [(5, 1, some 3, w, false, 0, none), (6, 1, some 3, w, false, 0, none)]
        && (c.chunks.map fun h => (h.k, h.written)) == [(3, w)]) = true := by decide +kernel

/-- A tile's read of 40 bytes of host memory, at base die s0. -/
def hostRead : DieReq := { dieReq 0 40 (.host 0x40) with h := { kind := 0, nbm1 := 39, seq := 9, stream := 16, stile := tileBits 5, rtag := 3, unit := 3, bd := true } }

theorem witness_BaseDies_host : let r := { hostRead with adm := true }
    let s : State := { died { reqs := [r] } with ngambi := { dq := [{ h := r.h, pay := [] }], loaded := 1, sent := 1 } }
    (s.die 0).reqs[0]? = some r ∧ hostRead.adm = false ∧ hostRead.home = .host 0x40 ∧ r.h.ded = false ∧ r.h.stream ≠ 52 ∧ r.h.nbm1 + 1 ≤ 256 ∧ 0 < s.ngambi.sent
    ∧ s.ngambi.dq = [{ h := r.h, pay := r.pay }] ∧ (s.die 0).rt.ins.at (76 * 16 + 3) [] = [] ∧ s.mem.wf = true := by decide +kernel

/-- A slot's configuration for an operation in a lane mode. -/
def laneSlot (op lane aux : Nat) : SlotCfg := { slotCfg (slotBits op 1) with op := op, lane := lane, aux := aux, selA := 0x10, selB := if op = 0x43 then 3 else 0x11, rx := 1 }

theorem witness_CellResults_lanes : ∀ op ∈ [0x40, 0x41, 0x42, 0x43, 0x53, 0x54], ∀ lane ∈ [0, 3],
    let q := laneSlot op lane 0
    let k : Taken := { a := [tokOf 7], b := if op = 0x53 then [tokOf 3] else [], col := { vr := [(3, (tokOf 5).d)] } }
    q.op = op ∧ q.lane = lane ∧ (∀ i, i < 32 → (k.col.operand 0 q k q.selA).1.bad i = false ∧ (k.col.operand 0 q k q.selB).1.bad i = false
        ∧ (k.col.operand 0 q k q.selC).1.bad i = false ∧ (k.col.vr.at (0 * 16 + 3) {}).bad i = false)
      ∧ (match computeCell 0 0 q k with | .ok _ => true | .error _ => false) = true := by decide +kernel

/-- The array plane in a mode, with this many rows less one in a K-step. -/
def modePlane (amode kst : Nat) : Plane :=
  [(frArr 1, BitVec.ofNat 256 (at_ [(amode, 252), (kst, 243), (1, 240), (1, 239), (1, 238), (15, 220)])), (frArr 2, BitVec.ofNat 256 (2 ^ 256 - 2))]
/-- A rally with the array in that mode and a state, with tokens at its edges. -/
def moded (amode kst : Nat) (a : ArrayState) (ins : AMap (List Token)) : State := collared (modePlane amode kst) fun c => { c with arr := a, ain := ins }

theorem witness_ArraySteps_modes : ∀ p ∈ [(1, 3, 4), (2, 3, 8), (3, 63, 4), (4, 3, 4), (5, 63, 4)],
    let s := moded p.1 p.2.1 { sgrp := 1 } ((List.range p.2.2).map fun g => (aKey 0 g, [tokOf g]))
    let c := (s.tile 0).col
    c.mayAct (s.colCyc 0) 272 = true ∧ c.active.arr.amode = p.1 ∧ c.active.arr.wld = true ∧ c.arr.full = false ∧ c.arr.lrows < c.active.arr.kstepm1
    ∧ c.arrHeads 0 0 p.2.2 = some ((List.range p.2.2).map tokOf) ∧ c.active.colOn 0 = false ∧ c.active.colOn 255 = true := by decide +kernel

theorem witness_ArraySteps_last : let s := moded 1 3 { lrows := 3 } ((List.range 4).map fun g => (aKey 0 g, [tokOf g]))
    let c := (s.tile 0).col
    c.arr.lrows = c.active.arr.kstepm1 ∧ c.arr.sgrp = c.active.arr.scaleRows ∧ c.arrCtlRoom 0 0 = true ∧ c.arrHeads 0 0 4 = some ((List.range 4).map tokOf) := by decide +kernel

theorem witness_ArraySteps_scale : let s := moded 3 63 { stok := 7, sgrp := 1 } [(aKey 2 3, [tokOf 3])]
    let c := (s.tile 0).col
    c.arr.sgrp < c.active.arr.scaleRows ∧ c.arr.stok = 7 ∧ c.arr.lrows ≤ c.active.arr.kstepm1 ∧ c.arrIn 2 3 = some (tokOf 3) ∧ c.mayAct (s.colCyc 0) 272 = true := by decide +kernel

theorem witness_ArraySteps_end : let s := moded 1 3 { v := true, full := true, cmd := 0xE0000000#32, mrow := 1, lrow := 1, orow := 1 } []
    let a := (s.tile 0).col.arr
    a.v = true ∧ a.waitsPlane (s.tile 0).col.active.arr = false ∧ a.isLoad = true ∧ a.isMma = true ∧ a.isOut = true ∧ (a.lrow, a.mrow, a.orow) = (a.rows, a.rows, a.rows)
    ∧ a.pipe = [] ∧ (s.tile 0).col.arrCtlRoom 2 0 = true := by decide +kernel

theorem witness_ArraySteps_kstep : let q : ArrCfg := (modePlane 1 3).arr
    let a : ArrayState := { b0 := (List.range 4).map fun r => (r * 256 + 7, 0x0FF00#18) }
    1 ≤ q.amode ∧ q.amode ≤ 5 ∧ isFinite 0x3FF000000#36 = true ∧ isInfinity 0x7FF000000#36 = true ∧ isNaN 0x7FF000001#36 = true
    ∧ (∀ k, k < q.krows → ((tokOf 0).d.lane (k / 2 % 32)).extractLsb' (18 * (k % 2)) 18 ≠ 0x1FF00#18 ∧ (a.pe false k 7).extractLsb 16 8 ≠ 0x1FF#9)
    ∧ (0x1FF01#18 : L18).extractLsb 16 8 = 0x1FF#9 ∧ (0x1FF01#18 : L18).extractLsb 7 0 ≠ 0#8 := by decide +kernel

theorem witness_FabricMoves_power : let s := { routed 433 { toEast with dtile := tileBits 0 } with pkg := { phase := 6, lyen := 1#16 } }
    s.takesFlit (.tile 0) 6 = true ∧ (s.offers (.tile 0) 6).length = 1 ∧ ownPort (.tile 0) = 6 ∧ (routed 432 toEast).takesFlit (.tile 0) 6 = false
    ∧ s.takesFlit (.tile 48) 5 = true := by decide +kernel

theorem witness_FabricMoves_inject : let p : Packet := { h := { kind := 1, dpkg := 1, len := 2, ded := true } }
    let s := died { ni := { txq := [p, p] }, ports := [(0, { st := 3 })] }
    s.outUp (.die 0) 0 = false ∧ (s.netIf (.die 0)).txq = [p, p] ∧ (s.router (.die 0)).ins.at (ownPort (.die 0) * 16 + injVc p.h) [] = [] := by decide +kernel

theorem witness_FabricAnswers_lines : let h : Hdr := { kind := 1, stile := tileBits 1, unit := 0, stream := 2, seq := 9, lowoff := 2, asid := 3, nbm1 := 67, addr := 60 }
    let e : WinEnt := { pkg := 0, tile := tileBits 1, stream := 2, base := 7, mask := 0, perf := 0, used := 0 }
    (asked h [e]).asidCheck 0 h.asid = none ∧ e.base = (h.seq + 2 ^ 32 - h.lowoff) % 2 ^ 32 ∧ 64 - h.addr % 64 < h.nbm1 + 1 ∧ h.nbm1 + 1 ≤ 64 - h.addr % 64 + 64
    ∧ h.addr + (h.nbm1 + 1) ≤ 2 ^ 22 ∧ e.mask.getLsbD h.lowoff = false := by decide +kernel

/-- The last flit of a launch packet of slot 3 of tile 5 stands at base die s0's own output. -/
def toDispatcher : State :=
  let h : Hdr := { kind := kMSG, stile := tileBits 5, stream := 52, bd := true, unit := 2, tslot := 3, len := 4, nbm1 := 127 }
  died { ni := { rx := [(0, { h := h, pay := List.replicate 96 {} })] }, rt := { ins := [(28 * 16, [.body (List.replicate 32 { val := 1 }) true])], outs := [(27, { lock := [(0, 28 * 16)] })] } }

theorem witness_PacketsHandled_travels : let s := toDispatcher
    (s.die 0).ni.txq = [] ∧ s.offers (.die 0) 27 = [(0, 28 * 16, .body (List.replicate 32 { val := 1 }) true)] ∧ ((s.die 0).ni.rx.look 0).map (·.h.isPost) = some true
    ∧ s.dispQ = [] := by decide +kernel

/-- The answer to the launch of slot 2 of tile 0 stands at the tile's own output. -/
def toPoster (st ref : Nat) : State :=
  let bs : List MByte := (toBytes 8 st ++ toBytes 8 ref).map fun b => { val := b }
  let sl : Slot := { task := some { entry := 0, hold := .launch 7 0x4040 [] }, rf := { pc := 0x100#32 }, accs := [{ k := 1, kind := .packet, window := true, dst := 0, ea := 0 }] }
  { tiled { slots := [(2, sl)], ni := { rx := [(1, { h := { kind := kRSP, stream := 52, tslot := 2, len := 1, nbm1 := 15, aop := 15 } })] },
            rt := { ins := [(5 * 16 + 1, [.body bs true])], outs := [(6, { lock := [(1, 5 * 16 + 1)] })] } } with pkg := { phase := 6, lyen := 1#16 } }

theorem witness_PacketsHandled_answered : ∀ st ∈ [0, 3, 4], let s := toPoster st 0x1005
    s.takesFlit (.tile 0) 6 = true ∧ ((s.offers (.tile 0) 6).map fun o => (o.1, o.2.1)) = [(1, 81)] ∧ ((s.tile 0).ni.rx.look 1).map (·.h.isPostRsp) = some true
    ∧ (s.slot 0 2).task = some { entry := 0, hold := .launch 7 0x4040 [] } ∧ (s.slot 0 2).rf.loopEnd.pc ≠ 0x40000#32
    ∧ ((s.slot 0 2).accs.all fun a => a.kind == .packet && a.window) = true := by decide +kernel

theorem witness_RoleSteps_abort : let e : BitVec 256 := BitVec.ofNat 256 (2 ^ 63 + 8 * 2 ^ 64 + 3 * 2 ^ 125 + 2 ^ 232)
    let s := { changing 7 with roles := { (changing 7).roles with roles := 0x55555556#32, rdone := 2, closing := true }, ranges := [(0, e)], mem := [(scratchKey 0 0, 9)] }
    s.held = false ∧ s.roles.busy = true ∧ s.roles.step = 7 ∧ s.roles.rdone = 2 ∧ s.mem.wf = true ∧ rgV e = true ∧ rgTgt e = 3 ∧ rgTstk e = s.roles.rstk ∧ rgWb e = true
    ∧ s.layerAt 0 (rgToff e) = some (0, 0) ∧ tileStk 0 = s.roles.rstk ∧ roleIn s.roles.roles.toNat (tileStk 0) (tileLyr 0) = 2 ∧ (changing 7).roles.rdone ≠ 2 := by decide +kernel

theorem witness_OutsideEvents_soft : let s : State := { soft := [8, 16], hard := [24] }
    19 / 8 * 8 = 16 ∧ s.soft.contains 16 = true ∧ s.hard.contains 16 = false ∧ s.soft.Pairwise (· < ·) := by decide +kernel

theorem witness_BringUp_late : let s := { rising 4 with dies := [(0, { ports := [(0, { st := 2 })] })], time := 250000000 }
    ((s.die 0).ports.at 0 {}).st = 2 ∧ s.pkg.phase = 4 ∧ s.pkg.msAt + 250000000 ≤ s.time ∧ ¬({ s with time := 249999999 } : State).pkg.msAt + 250000000 ≤ 249999999 := by decide +kernel

end Sys2Proof.Tests
end

