-- ==== Sys2Proof/Proofs/BitCounts.lean ====
section
/-! SUPPORT. What the bit functions of R91 and R93 compute, bit by bit. Each helper of the model counts over the low bits of a number; its lemma is proved by
induction over that count. -/

namespace Sys2Proof.Laws

open Sys2Proof.Machine

/-! ## Counts -/

/-- A number is zero where its highest bit says so: R93's leading zeros, and the bit that ends them. -/
theorem clz64_spec (x : Word) :
    clz64 x ≤ 64 ∧ (∀ i, 64 - clz64 x ≤ i → i < 64 → x.getLsbD i = false) ∧ (clz64 x < 64 → x.getLsbD (63 - clz64 x) = true) := by
  unfold clz64
  split
  next h0 => exact ⟨le_rfl, fun i _ _ => by simp [BitVec.getLsbD, h0], fun h => absurd h (lt_irrefl _)⟩
  next h0 =>
    have hlog : x.toNat.log2 < 64 := (Nat.log2_lt h0).2 x.isLt
    refine ⟨by omega, fun i hi _ => Nat.testBit_lt_two_pow ((Nat.log2_lt h0).1 (by omega)), fun _ => ?_⟩
    rw [show 63 - (63 - x.toNat.log2) = x.toNat.log2 by omega]
    exact Nat.testBit_log2 h0

/-- The bits below the count are 0, and the bit at it, unless all n are 0, is 1. -/
theorem ctzFrom_spec (n x : Nat) :
    ctzFrom n x ≤ n ∧ (∀ i, i < ctzFrom n x → x.testBit i = false) ∧ (ctzFrom n x < n → x.testBit (ctzFrom n x) = true) := by
  induction n generalizing x with
  | zero => simp [ctzFrom]
  | succ n ih =>
    obtain ⟨hle, hlow, hbit⟩ := ih (x / 2)
    unfold ctzFrom
    split
    next hodd => simp [Nat.testBit_zero, hodd]
    next heven =>
      rw [Nat.add_comm 1]
      refine ⟨by omega, fun i hi => ?_, fun h => ?_⟩
      · cases i with
        | zero => simpa [Nat.testBit_zero] using heven
        | succ i => rw [Nat.testBit_succ]; exact hlow i (by omega)
      · rw [Nat.testBit_succ]; exact hbit (by omega)

/-- The sum of the low bits is the number of places that hold a 1. -/
theorem popFrom_eq_countP (n x : Nat) : popFrom n x = (List.range n).countP fun i => x.testBit i := by
  induction n generalizing x with
  | zero => rfl
  | succ n ih =>
    have hbit : x % 2 = if x.testBit 0 = true then 1 else 0 := by
      rcases Nat.mod_two_eq_zero_or_one x with h | h <;> simp [Nat.testBit_zero, h]
    rw [popFrom, ih, hbit, List.range_succ_eq_map, List.countP_cons, List.countP_map, Nat.add_comm]
    simp only [Function.comp_def, Nat.testBit_succ]

/-! ## Permutations -/

/-- Reversing puts bit n - 1 - i of the number at place i, below what has been gathered already. -/
theorem testBit_revFrom (n x acc i : Nat) :
    (revFrom n x acc).testBit i = if i < n then x.testBit (n - 1 - i) else acc.testBit (i - n) := by
  induction n generalizing x acc with
  | zero => simp [revFrom]
  | succ n ih =>
    rw [revFrom, ih]
    have hacc : acc * 2 + x % 2 = 2 ^ 1 * acc + x % 2 := by omega
    rcases Nat.lt_trichotomy i n with h | rfl | h
    · rw [if_pos h, if_pos (by omega), ← Nat.testBit_succ]
      congr 1; omega
    · rw [if_neg (by omega), if_pos (by omega), hacc, Nat.testBit_two_pow_mul_add _ (Nat.mod_lt _ (by omega))]
      simp [Nat.testBit_zero]
    · rw [if_neg (by omega), if_neg (by omega), hacc, Nat.testBit_two_pow_mul_add _ (Nat.mod_lt _ (by omega)), if_neg (by omega), Nat.sub_sub]

/-- Reversing bytes puts byte n - 1 - j of the number at byte j, below what has been gathered already. -/
theorem testBit_bswapFrom (n x acc i : Nat) :
    (bswapFrom n x acc).testBit i = if i < 8 * n then x.testBit (8 * (n - 1 - i / 8) + i % 8) else acc.testBit (i - 8 * n) := by
  induction n generalizing x acc with
  | zero => simp [bswapFrom]
  | succ n ih =>
    rw [bswapFrom, ih]
    have hacc : acc * 256 + x % 256 = 2 ^ 8 * acc + x % 2 ^ 8 := by omega
    have hlow : x % 2 ^ 8 < 2 ^ 8 := Nat.mod_lt _ (by omega)
    by_cases h : i < 8 * n
    · rw [if_pos h, if_pos (by omega), show x / 256 = x / 2 ^ 8 from rfl, Nat.testBit_div_two_pow]
      congr 1; omega
    · rw [if_neg h, hacc, Nat.testBit_two_pow_mul_add _ hlow]
      by_cases h' : i < 8 * (n + 1)
      · rw [if_pos (by omega), if_pos h', Nat.testBit_mod_two_pow, decide_eq_true (by omega), Bool.true_and]
        congr 1; omega
      · rw [if_neg (by omega), if_neg h', Nat.sub_sub, Nat.mul_succ]

/-- BREV, bit by bit (R93). -/
theorem getLsbD_brev64 (x : Word) {i : Nat} (h : i < 64) : (brev64 x).getLsbD i = x.getLsbD (63 - i) := by
  rw [brev64, BitVec.getLsbD_ofNat, testBit_revFrom, if_pos h, decide_eq_true h, Bool.true_and]
  rfl

/-- BSWAP, byte by byte (R93). -/
theorem getLsbD_bswap64 (x : Word) {i j : Nat} (hj : j < 8) (hi : i < 8) : (bswap64 x).getLsbD (8 * j + i) = x.getLsbD (56 - 8 * j + i) := by
  rw [bswap64, BitVec.getLsbD_ofNat, testBit_bswapFrom, if_pos (by omega), decide_eq_true (by omega), Bool.true_and]
  show x.toNat.testBit _ = x.toNat.testBit _
  congr 1; omega

/-! ## Extensions and rotations -/

/-- Cutting a word to its low k bits and widening it again masks it. -/
theorem setWidth_setWidth_eq_and (x : Word) (k : Nat) : (x.setWidth k).setWidth 64 = x &&& BitVec.ofNat 64 (2 ^ k - 1) := by
  ext i hi
  simp [← BitVec.getLsbD_eq_getElem, BitVec.getLsbD_setWidth, BitVec.getLsbD_ofNat, -BitVec.ofNat_eq_ofNat, Nat.testBit_two_pow_sub_one, hi, Bool.and_comm]

/-- A left shift multiplies by a power of two, modulo 2^64 (R96). -/
theorem shiftLeft_eq_mul_two_pow (y : Word) (k : Nat) : y <<< k = y * 2 ^ k := by
  apply BitVec.eq_of_toNat_eq
  simp [Nat.shiftLeft_eq, BitVec.toNat_pow]

/-- ROL as the two shifts of R91; an amount of 0 shifts the second out. -/
theorem rol64_eq (x y : Word) : rol64 x y = (x <<< (y &&& 63).toNat) ||| (x >>> (64 - (y &&& 63).toNat)) := by
  rw [toNat_and_63, rol64, BitVec.rotateLeft_def, Nat.mod_mod]

end Sys2Proof.Laws
end

