-- ==== Sys2Proof/Proofs/ScalarForms.lean ====
section
/-! SUPPORT. Forms of issue that the integer and predicate instructions share: what an instruction may run with fewer reads, a move of a register with its poison
(R82), and a predicate written at issue. -/

namespace Sys2Proof.Laws

open Sys2Proof.Machine Sys2Proof.Safety

/-- What runs with some sources runs with fewer of them. -/
theorem runs_fewer_reads {s : State} {n : Need} {rd rp : List Nat} (hrd : rd ⊆ n.rd) (hrp : rp ⊆ n.rp) (h : Runs s n) :
    Runs s { n with rd := rd, rp := rp } := by
  obtain ⟨hm, hg, hfree, hfence⟩ := h
  refine ⟨hm, hg, ?_, hfence⟩
  simp only [Slot.operandsFree, Bool.and_eq_true, Bool.not_eq_true', List.any_eq_false] at hfree ⊢
  obtain ⟨⟨⟨⟨⟨hregs, hwr⟩, hpreds⟩, hwp⟩, hdiv⟩, hfdiv⟩ := hfree
  exact ⟨⟨⟨⟨⟨fun r hr => hregs r (hrd hr), hwr⟩, fun p hp => hpreds p (hrp hp)⟩, hwp⟩, hdiv⟩, hfdiv⟩

/-- A register that is not poisoned holds its value with poison clear. -/
theorem get_of_clean {s : State} {rs : List Nat} (h : Clean s rs) {r : Nat} (hr : r ∈ rs) : s.cur.rf.get r = { val := s.reg r } := by
  rw [← h r hr]; rfl

/-- Some of the registers that are clean. -/
theorem clean_of_subset {s : State} {rs qs : List Nat} (h : Clean s qs) (hr : rs ⊆ qs) : Clean s rs := fun r hm => h r (hr hm)

/-- An effect counts by what it makes of the task's own slot. -/
theorem retire_congr {s : State} {f f' : Slot → Slot} (h : f s.cur = f' s.cur) : s.retire f = s.retire f' := by
  have hs : f (s.slot s.focusT s.focusS) = f' (s.slot s.focusT s.focusS) := h
  simp only [State.retire, State.modCur, State.modSlot, State.modTile, Tile.modSlot]
  rw [show (s.tile s.focusT).slot s.focusS = s.slot s.focusT s.focusS from rfl, hs]

/-- A register moved to another, poison and all (R82). -/
theorem issue_move {s : State} {n : Need} (h : Runs s n) (hs : Stays s) (d m : Nat) :
    ∃ u, s.issue n (s.retire fun sl => sl.modRf fun r => r.set d (r.get m)) = .next u ∧ RegDone s u d (s.cur.rf.get m) := by
  rw [issue_of_runs h, retire_congr (f' := fun sl => sl.modRf fun r => r.set d (s.cur.rf.get m)) rfl]
  exact retire_reg hs _ _

/-- An instruction whose effect at issue is one predicate. -/
theorem decides_issue {i : Instr} {s : State} {n : Need} {p : BitVec 3} {v : Bool}
    (e : exec i s = s.issue n (s.retire fun sl => sl.modRf fun r => r.setPred p.toNat v)) (h : Runs s n) (hs : Stays s) : Decides i s p v := by
  unfold Decides; rw [e, issue_of_runs h]; exact retire_pred hs _ _

/-! ## OR (R82, R91) -/

/-- With s0 as its first source OR moves the second. -/
theorem exec_or_zero_left (g : BitVec 4) (d b : BitVec 6) (s : State) : exec (.or g d 0 b) s
    = s.issue { g := g, rd := [b.toNat], wr := [d.toNat] } (s.retire fun sl => sl.modRf fun r => r.set d.toNat (r.get b.toNat)) := rfl

/-- With s0 as its second source OR moves the first. -/
theorem exec_or_zero_right (g : BitVec 4) (d a : BitVec 6) (s : State) : exec (.or g d a 0) s
    = s.issue { g := g, rd := [a.toNat], wr := [d.toNat] } (s.retire fun sl => sl.modRf fun r => r.set d.toNat (r.get a.toNat)) := by
  by_cases ha : a = 0
  · subst ha; rfl
  · simp only [exec_or, execOr, ha, or_true, if_true, if_false]

/-- Without s0 OR has the two-operand form. -/
theorem exec_or_of_ne (g : BitVec 4) {d a b : BitVec 6} (s : State) (ha : a ≠ 0) (hb : b ≠ 0) :
    exec (.or g d a b) s = s.alu2 g d a b fun x y => x ||| y := by
  simp only [exec_or, execOr, ha, hb, or_self, if_false]

section
variable {s : State} {g : BitVec 4} {d a b : BitVec 6}

theorem or_zero_left_runs (h : Runs s { g := g, rd := [(0 : BitVec 6).toNat, b.toNat], wr := [d.toNat] }) (hs : Stays s) :
    ∃ u, exec (.or g d 0 b) s = .next u ∧ RegDone s u d.toNat (s.cur.rf.get b.toNat) := by
  rw [exec_or_zero_left]
  exact issue_move (runs_fewer_reads (rd := [b.toNat]) (by simp) (List.Subset.refl _) h) hs _ _

theorem or_zero_right_runs (h : Runs s { g := g, rd := [a.toNat, (0 : BitVec 6).toNat], wr := [d.toNat] }) (hs : Stays s) :
    ∃ u, exec (.or g d a 0) s = .next u ∧ RegDone s u d.toNat (s.cur.rf.get a.toNat) := by
  rw [exec_or_zero_right]
  exact issue_move (runs_fewer_reads (rd := [a.toNat]) (by simp) (List.Subset.refl _) h) hs _ _

/-- OR of two clean sources, as a move or by its two-operand form. -/
theorem yields_or (h : Runs s { g := g, rd := [a.toNat, b.toNat], wr := [d.toNat] }) (hs : Stays s) (hc : Clean s [a.toNat, b.toNat]) :
    Yields (.or g d a b) s d (s.reg a.toNat ||| s.reg b.toNat) := by
  have reg_zero : s.reg (0 : BitVec 6).toNat = 0#64 := rfl
  by_cases ha : a = 0
  · subst ha
    rw [reg_zero, BitVec.zero_or]
    unfold Yields; rw [← get_of_clean hc (by simp)]
    exact or_zero_left_runs h hs
  · by_cases hb : b = 0
    · subst hb
      rw [reg_zero, BitVec.or_zero]
      unfold Yields; rw [← get_of_clean hc (by simp)]
      exact or_zero_right_runs h hs
    · exact yields_alu2 (exec_or_of_ne g s ha hb) rfl h hs hc

end

/-! ## Compares (R97) -/

/-- CMP writes what its condition says of two registers. -/
theorem decides_cmp {s : State} {g : BitVec 4} {p c : BitVec 3} {a b : BitVec 6} {v : Bool} (hv : v = intCond c.toNat (s.reg a.toNat) (s.reg b.toNat))
    (h : Runs s { g := g, rd := [a.toNat, b.toNat], wp := [p.toNat] }) (hc : Clean s [a.toNat, b.toNat]) (hs : Stays s) :
    Decides (.cmp g p c a b) s p v :=
  decides_issue (by rw [exec_cmp, execCmp, consume_clean hc, hv]) h hs

/-- CMPI writes what its condition says of a register and its immediate. -/
theorem decides_cmpi {s : State} {g : BitVec 4} {p c : BitVec 3} {a : BitVec 6} {im : BitVec 10} {v : Bool}
    (hv : v = intCond c.toNat (s.reg a.toNat) (im.signExtend 64))
    (h : Runs s { g := g, rd := [a.toNat], wp := [p.toNat] }) (hc : Clean s [a.toNat]) (hs : Stays s) : Decides (.cmpi g p c a im) s p v :=
  decides_issue (by rw [exec_cmpi, execCmpi, consume_clean hc, hv, simm10]) h hs

/-! ## SEL (R99) -/

/-- The operand that SEL selects, moved with its poison. -/
theorem sel_runs {s : State} {g : BitVec 4} {d a b : BitVec 6} {n : BitVec 1} {p : BitVec 3}
    (h : Runs s { g := g, rd := [a.toNat, b.toNat], wr := [d.toNat], rp := [p.toNat] }) (hs : Stays s) :
    ∃ u, exec (.sel g d a b n p) s = .next u
      ∧ RegDone s u d.toNat (if (s.cur.rf.pred p.toNat ^^ n.getLsbD 0) = true then s.cur.rf.get a.toNat else s.cur.rf.get b.toNat) := by
  have hn : n.getLsbD 0 = decide (n = 1) := by revert n; decide
  rw [exec_sel, execSel, hn, ← apply_ite (fun m : BitVec 6 => s.cur.rf.get m.toNat)]
  exact issue_move h hs _ _

end Sys2Proof.Laws
end

