-- ==== Sys2Proof/Proofs/RegCore.lean ====
section
/-! PROOFS. The integer and predicate instructions of spec/03_reg_core.md (R91, R93 to R99): each statement assembled from the forms of Sys2Proof/Laws/Forms.lean
and the values of the bit functions. -/

namespace Sys2Proof.Proofs

open Sys2Proof.Machine Sys2Proof.Safety Sys2Proof.Laws

/-- Settles O4: every ALU instruction has the two-operand form, OR beside s0 the form of a move. -/
theorem aluResults : Obligations.AluResults := by
  unfold Obligations.AluResults
  intro s g d a b h hs
  refine ⟨fun hc => ?_, fun ha _ => ?_, fun hb _ => ?_⟩
  · have two {i : Instr} {f : Word → Word → Word} {v : Word} (e : exec i s = s.alu2 g d a b f) (hv : v = f (s.reg a.toNat) (s.reg b.toNat)) :
        Yields i s d v := yields_alu2 e hv h hs hc
    have amount := toNat_and_63 (s.reg b.toNat)
    refine ⟨two (exec_add g d a b s) rfl, two (exec_sub g d a b s) rfl, two (exec_and g d a b s) rfl, yields_or h hs hc, two (exec_xor g d a b s) rfl,
      two (exec_andn g d a b s) rfl, two (exec_shl g d a b s) (by rw [amount]), two (exec_shr g d a b s) (by rw [amount]),
      two (exec_sra g d a b s) (by rw [amount]), two (exec_rol g d a b s) (rol64_eq _ _).symm,
      two (exec_min g d a b s) ?signedMin, two (exec_max g d a b s) ?signedMax, two (exec_minu g d a b s) ?unsignedMin, two (exec_maxu g d a b s) ?unsignedMax⟩
    case signedMin | signedMax => simp only [BitVec.slt_iff_toInt_lt]
    case unsignedMin | unsignedMax => simp only [BitVec.ult_iff_lt, BitVec.lt_def]
  · subst ha; exact or_zero_left_runs h hs
  · subst hb; exact or_zero_right_runs h hs

/-- Settles O6: every bit instruction has the one-operand form, and its function has the bits that the rule gives. -/
theorem bitOperations : Obligations.BitOperations := by
  unfold Obligations.BitOperations
  refine ⟨fun s g d a h hc hs => ?_, fun s g d a h hc hs => ?_⟩
  · obtain ⟨clz_le, clz_zeros, clz_one⟩ := clz64_spec (s.reg a.toNat)
    obtain ⟨ctz_le, ctz_zeros, ctz_one⟩ := ctzFrom_spec 64 (s.reg a.toNat).toNat
    exact ⟨⟨_, clz_le, clz_zeros, clz_one, yields_alu1 (exec_clz g d a s) rfl h hs hc⟩,
      ⟨_, ctz_le, ctz_zeros, ctz_one, yields_alu1 (exec_ctz g d a s) rfl h hs hc⟩,
      yields_alu1 (exec_popc g d a s) (congrArg _ (popFrom_eq_countP 64 _).symm) h hs hc⟩
  · have one {i : Instr} {f : Word → Word} {v : Word} (e : exec i s = s.alu1 g d a f) (hv : v = f (s.reg a.toNat)) : Yields i s d v :=
      yields_alu1 e hv h hs hc
    refine ⟨⟨_, fun i hi => getLsbD_brev64 _ hi, one (exec_brev g d a s) rfl⟩, ⟨_, fun j i hj hi => getLsbD_bswap64 _ hj hi, one (exec_bswap g d a s) rfl⟩,
      one (exec_sextb g d a s) ?low8, one (exec_sexth g d a s) ?low16, one (exec_sextw g d a s) ?low32,
      one (exec_zextb g d a s) (setWidth_setWidth_eq_and _ 8).symm,
      one (exec_zexth g d a s) (setWidth_setWidth_eq_and _ 16).symm, one (exec_zextw g d a s) (setWidth_setWidth_eq_and _ 32).symm⟩
    case low8 | low16 | low32 => rw [BitVec.setWidth_eq_extractLsb' (by decide), BitVec.extractLsb]

/-- Settles O7: the immediate forms and MOVH by the one-operand form, ADDS by the two-operand form, MOVI by a plain write, SEL by a move. -/
theorem immediatesAndConstants : Obligations.ImmediatesAndConstants := by
  unfold Obligations.ImmediatesAndConstants
  refine ⟨fun s g d a n im h hc hs => ?_, fun s g d im h hs => ?_, fun s g d im h hc hs => ?_, fun s g d a b k h hc hs => ?_,
    fun s g d a b n p h hs => sel_runs h hs⟩
  · have one {i : Instr} {f : Word → Word} {v : Word} (e : exec i s = s.alu1 g d a f) (hv : v = f (s.reg a.toNat)) : Yields i s d v :=
      yields_alu1 e hv h hs hc
    exact ⟨one (exec_addi g d a im s) rfl, one (exec_andi g d a im s) rfl, one (exec_ori g d a im s) rfl, one (exec_xori g d a im s) rfl,
      one (exec_shli g d a n s) rfl, one (exec_shri g d a n s) rfl, one (exec_srai g d a n s) rfl⟩
  · unfold Yields
    rw [exec_movi, execMovi, issue_of_runs h]
    exact retire_reg hs _ _
  · exact yields_alu1 (exec_movh g d im s) rfl h hs hc
  · exact yields_alu2 (exec_adds g d a b k s) (congrArg _ (shiftLeft_eq_mul_two_pow _ _).symm) h hs hc

/-- Settles O8: CMP and CMPI write what their condition says of the operands, and predicate logic needs at most the predicates a and b. -/
theorem predicateResults : Obligations.PredicateResults := by
  unfold Obligations.PredicateResults
  refine ⟨fun s g p a b im h hc hs => ⟨?_, ?_⟩, fun s g d a b h hs => ?_⟩
  · have cmp {c : BitVec 3} {v : Bool} (hv : v = intCond c.toNat (s.reg a.toNat) (s.reg b.toNat)) : Decides (.cmp g p c a b) s p v :=
      decides_cmp hv h hc hs
    exact ⟨cmp rfl, cmp rfl, cmp rfl, cmp rfl, cmp rfl, cmp rfl⟩
  · have hi : Runs s { g := g, rd := [a.toNat], wp := [p.toNat] } := runs_fewer_reads (rd := [a.toNat]) (by simp) (List.Subset.refl _) h
    have hci : Clean s [a.toNat] := clean_of_subset hc (by simp)
    have cmpi {c : BitVec 3} {v : Bool} (hv : v = intCond c.toNat (s.reg a.toNat) (im.signExtend 64)) : Decides (.cmpi g p c a im) s p v :=
      decides_cmpi hv hi hci hs
    exact ⟨cmpi rfl, cmpi rfl, cmpi rfl, cmpi rfl, cmpi rfl, cmpi rfl⟩
  · have h1 : Runs s { g := g, rp := [a.toNat], wp := [d.toNat] } := runs_fewer_reads (rp := [a.toNat]) (List.Subset.refl _) (by simp) h
    exact ⟨decides_issue (exec_pand g d a b s) h hs, decides_issue (exec_por g d a b s) h hs, decides_issue (exec_pxor g d a b s) h hs,
      decides_issue (exec_pandn g d a b s) h hs, decides_issue (exec_pnot g d a s) h1 hs, decides_issue (exec_pmov g d a s) h1 hs⟩

end Sys2Proof.Proofs
end
